-- ==== Sys2Proof/Word.lean ====
section
/-! DEFINITION. The words of the part (00 R4, R13) and the small enumerations that commands carry as operands. -/

namespace Sys2Proof

/-- A 64-bit word: a register, or one word of a little-endian record (00 R4, R13). -/
abbrev Word := BitVec 64

/-- The smallest unit of memory. -/
abbrev Byte := BitVec 8

/-- The privilege a hart issues an access at (14 R401). -/
inductive Priv where
  | m
  | s
  | u
  deriving DecidableEq, Repr

/-- The kind of an access a hart issues (01 R22, R23; 14 R403). -/
inductive AccessKind where
  | fetch
  | load
  | store
  | amo
  deriving DecidableEq, Repr

/-- What the receive MAC finds of a frame's FCS: right, wrong and known before lookup, or wrong and known only after
lookup in cut-through (02 R36, R37). -/
inductive FcsCheck where
  | good
  | badEarly
  | badLate
  deriving DecidableEq, Repr

/-- A request at an HBM requestor port (12 R354 to R358): port, stream, kind, physical address, length, the data of a
write; and, set when it enters the port, the CLK_TIME cycle, the PRIO and TARGET_NS in force, and how many open-row
requests of its urgency have passed it. -/
structure HbmReq where
  port    : Nat
  stream  : Nat
  write   : Bool
  addr    : Nat
  len     : Nat
  data    : List Byte
  entered : Nat := 0
  prio    : Nat := 0
  target  : Nat := 1
  passed  : Nat := 0
  deriving DecidableEq, Repr

/-- Two requests are of one stream of one port. -/
def HbmReq.sameStream (a b : HbmReq) : Bool := a.port = b.port && a.stream = b.stream

/-- Requests of up to 64 bytes that an access makes (12 R354). -/
def HbmReq.pieces (r : HbmReq) : Nat := (r.addr % 64 + r.len + 63) / 64

end Sys2Proof
end

