-- ==== Sys2Proof/Syntax.lean ====
section
/-! DEFINITION. The commands of the part: one constructor per row of spec/opcode_table.json, in the table's order.
Each docstring gives the row's mnemonic, its rule and its summary. Operands are plain numbers: instances are counted as
the spec counts them, a hart is its mhartid, and operands that come from outside the part (a frame, a reading, an
edge) are what the command brings in. -/

namespace Sys2Proof

/-- The commands the block takes. -/
inductive Instr where
  /-- REGISTER_WRITE (R8): A write to a register that has no row of its own sets its fields under the access codes, reserved fields and ignore rules of its block. -/
  | registerWrite (hart : Nat) (priv : Priv) (addr width : Nat) (value : Word)
  /-- RC_REGISTER_READ (R8): A read of an RC field returns its value and clears it, without losing a simultaneous event. -/
  | rcRegisterRead (hart : Nat) (priv : Priv) (addr width : Nat)
  /-- ERROR_RESPONSE_ACCESS (R23): An access outside the map, across ranges, of a disallowed kind, or of the wrong width completes with an error response and performs no byte. -/
  | errorResponseAccess (hart : Nat) (kind : AccessKind) (addr width : Nat)
  /-- PACKET_BUFFER_DEBUG_READ (R24): A load through the packet buffer debug window returns the current bytes of a cell, unsynchronised with packets. -/
  | packetBufferDebugRead (hart addr width : Nat)
  /-- PRT_GRP_CFG_WRITE (R33): A write to PRT_GRP_CFG sets lane rate and width if the combination is supported and no port is enabled, else it is ignored and sets CFG_ERR. -/
  | prtGrpCfgWrite (group : Nat) (value : Word)
  /-- PRT_PORT_CFG_WRITE (R150): A write to PRT_PORT_CFG changes MAX_LEN, TB and enables; clearing TX_EN releases every queued frame of the port. -/
  | prtPortCfgWrite (port : Nat) (value : Word)
  /-- FRAME_ARRIVAL (R36): A frame received on a port is stamped, checked by the MAC in order, counted, and placed in its group's receive FIFO or dropped. -/
  | frameArrival (port : Nat) (bytes : List Byte) (fcs : FcsCheck)
  /-- PIPELINE_SLOT (R18): An ingress pipeline takes one port frame or injected packet per CLK_FWD cycle by its fixed arbitration and begins to process it. -/
  | pipelineSlot (pipe : Nat)
  /-- FRAME_FCS_FAIL (R37): A frame whose FCS fails after lookup has its cells released, builds no cart, and aborts copies in transmission. -/
  | frameFcsFail (pkt : Nat)
  /-- AUTH_VERDICT (R81): The tag check of an ingress packet completes and AUTH_FAIL becomes final. -/
  | authVerdict (pkt : Nat)
  /-- POLICER_SCRUB (R57): Every 1,024 CLK_FWD cycles the scrub refills one policed context. -/
  | policerScrub
  /-- INSTALL (R47): Adds a key and record, advances GEN and resets the hardware state of the context. -/
  | install (scid : Nat)
  /-- REMOVE (R47): Removes a context's key and keeps its GEN. -/
  | remove (scid : Nat)
  /-- UPDATE (R47): Replaces the configuration words of an installed context. -/
  | update (scid : Nat)
  /-- READ (R47): Returns the key and record words of a context. -/
  | read (scid : Nat)
  /-- READ_STATS (R47): Returns the matched and policer-drop statistics of a context. -/
  | readStats (scid : Nat)
  /-- KEY_WRITE (R74): Writes a key set, sets VALID and clears USED. -/
  | keyWrite (index : Nat)
  /-- KEY_ERASE (R74): Overwrites a key set with zero so that VALID becomes 0. -/
  | keyErase (index : Nat)
  /-- KEY_READ (R74): Returns a key set's header, limit and usage without the keys. -/
  | keyRead (index : Nat)
  /-- IN_INIT (R74): Writes an ingress SRTP record and zeroes its hardware words. -/
  | inInit (index : Nat)
  /-- IN_UPDATE (R74): Replaces the software words of an ingress SRTP record. -/
  | inUpdate (index : Nat)
  /-- IN_READ (R74): Returns an ingress SRTP record. -/
  | inRead (index : Nat)
  /-- OUT_INIT (R74): Writes an egress SRTP record and zeroes its hardware words. -/
  | outInit (index : Nat)
  /-- OUT_UPDATE (R74): Replaces word 0 of an egress SRTP record. -/
  | outUpdate (index : Nat)
  /-- OUT_READ (R74): Returns an egress SRTP record. -/
  | outRead (index : Nat)
  /-- FORWARDING_DECISION (R98): At header-complete the forwarding engine checks the generation, updates the talker table, decides carts and hands the packet to the replicators. -/
  | forwardingDecision (pkt : Nat)
  /-- SUBSCRIPTION_DECISION (R120): The replicator issues one subscription, which is clipped, acted on, released, accepted and copied. -/
  | subscriptionDecision (walker : Nat)
  /-- RATE_HINT (R130): A rate hint is sent at most once per 100 ms after a subscription count changes. -/
  | rateHint (scid : Nat)
  /-- TALKER_SWEEP (R106): Every 1.024 s the sweep frees idle talker slots of every enabled conference. -/
  | talkerSweep
  /-- SRC_WRITE (R131): Writes the software fields of a forwarding source record. -/
  | srcWrite (index : Nat)
  /-- SRC_READ (R131): Returns a forwarding source record. -/
  | srcRead (index : Nat)
  /-- SUB_ADD (R131): Initialises a subscription record and links it to a sublist of its leader. -/
  | subAdd (index : Nat)
  /-- SUB_UPDATE (R131): Replaces word 0 of a subscription. -/
  | subUpdate (index : Nat)
  /-- SUB_REMOVE (R133): Unlinks a subscription and clears VALID. -/
  | subRemove (index : Nat)
  /-- SUB_REMOVE_DONE (R133): GO of SUB_REMOVE clears once every packet in replication has passed the sublist. -/
  | subRemoveDone
  /-- SUB_READ (R131): Returns a subscription record and its leader. -/
  | subRead (index : Nat)
  /-- RB_LOAD (R118): Checks and loads a rule block image. -/
  | rbLoad (index : Nat)
  /-- RB_READ (R131): Returns a rule block image. -/
  | rbRead (index : Nat)
  /-- CONF_WRITE (R131): Replaces a conference record and frees slots at or above the new N. -/
  | confWrite (index : Nat)
  /-- CONF_READ (R131): Returns a conference record and its slots. -/
  | confRead (index : Nat)
  /-- TALKER_CLEAR (R131): Frees every slot of a conference's talker table. -/
  | talkerClear (index : Nat)
  /-- CAR_INIT (R137): Writes a carriage record, fills the shaper and clears its statistics. -/
  | carInit (cgid : Nat)
  /-- CAR_UPDATE (R143): Replaces a carriage record with the shaper rules for rate, burst and debt limit. -/
  | carUpdate (cgid : Nat)
  /-- CAR_READ (R137): Returns a carriage record. -/
  | carRead (cgid : Nat)
  /-- CAR_STATS (R137): Returns a carriage's enqueue and drop statistics. -/
  | carStats (cgid : Nat)
  /-- TOKEN_RESET (R143): Sets a carriage's tokens to BURST and clears its debt. -/
  | tokenReset (cgid : Nat)
  /-- SHAPER_SCRUB (R145): Every 1,024 CLK_FWD cycles the scrub refills one shaped carriage. -/
  | shaperScrub
  /-- HELD_PACKET_DROP (R153): While occupancy is at a threshold, one held packet of that class is dropped per cycle with its cart. -/
  | heldPacketDrop
  /-- TRANSMIT_SELECTION (R148): At a frame boundary or when idle, the port picks a queue by strict priority and deficit round robin and starts its head frame. -/
  | transmitSelection (port : Nat)
  /-- FRAME_TRANSMIT_END (R493): A frame's FCS is sent once both verdicts are final, the frame leaves its queue depth, and counters move. -/
  | frameTransmitEnd (port : Nat)
  /-- LOAD (R156): Copies a gate control list into a pending list and computes its start. -/
  | load (port : Nat)
  /-- DISABLE (R159): Discards the pending list, ends the list in force and opens every gate. -/
  | disable (port : Nat)
  /-- GCL_START (R158): At its start time the pending gate list comes into force. -/
  | gclStart (port : Nat)
  /-- GCL_ENTRY_CHANGE (R158): When an entry's interval or the cycle ends, the next entry's gates take effect. -/
  | gclEntryChange (port : Nat)
  /-- TX_RING_FRAME (R162): The part takes a transmit-ring frame into the packet buffer and enqueues it. -/
  | txRingFrame (ring : Nat)
  /-- CART_ACCEPT (R170): The dispatcher accepts one held hardware cart per 8 cycles in round-robin order and gives it a sequence number. -/
  | cartAccept
  /-- WD_SUB_GO (R171): A software submission is accepted or refused BUSY, BAD_CART or DISABLED. -/
  | wdSubGo (hart : Nat)
  /-- DISPATCH (R182): Every 8 cycles the dispatcher starts, resumes or pre-empts for the best candidate. -/
  | dispatch
  /-- PREEMPT_SAVE (R236): The victim core yields at a bundle boundary and saves its state, and the cart becomes SUSPENDED. -/
  | preemptSave (core : Nat)
  /-- CART_RETIRE (R193): An ended cart retires under its coach's mode, posts its completion item and frees its entry. -/
  | cartRetire (seq : Nat)
  /-- AGE_NOTICE (R195): A cart reaching age 2^30 raises the AGE notice. -/
  | ageNotice (seq : Nat)
  /-- CART_EXPIRE (R195): A waiting or parked cart reaching the expiry age ends EXPIRED. -/
  | cartExpire (seq : Nat)
  /-- COACH_WRITE (R198): Replaces a coach's mode, hold and MAXPAR. -/
  | coachWrite (index : Nat)
  /-- COACH_READ (R198): Returns a coach's record and counts. -/
  | coachRead (index : Nat)
  /-- COACH_CANCEL (R199): Ends every waiting and ready cart of a coach as CANCELLED. -/
  | coachCancel (index : Nat)
  /-- FLT_READ (R198): Returns a fault list entry. -/
  | fltRead (index : Nat)
  /-- FLT_REARM (R189): Makes a parked cart ARMED. -/
  | fltRearm (index : Nat)
  /-- FLT_CANCEL (R190): Ends a parked or armed cart CANCELLED and frees its slot. -/
  | fltCancel (index : Nat)
  /-- WD_POOL_CFG_WRITE (R185): A write to a pool's CFG or MASK is accepted only while no cart of the pool is ready or running. -/
  | wdPoolCfgWrite (pool : Nat) (mask : Bool) (value : Word)
  /-- SIDE_MISMATCH (R201): Differing dispatcher outputs hold the outputs and retire the flagged side, or raise a Fatal error. -/
  | sideMismatch (flagA flagB : Bool)
  /-- SWITCHOVER_RELEASE (R201): After 48 cycles the surviving side's outputs are released and dispatch resumes. -/
  | switchoverRelease
  /-- SWAP (R203): Starts a 48-cycle gap that makes the standby side active. -/
  | swap
  /-- SWAP_DONE (R203): The swap gap ends, the count increments and SWAP_DONE is raised. -/
  | swapDone
  /-- STANDARD_BUNDLE (R241): A standard bundle issues one compute operation and two moves. -/
  | standardBundle (core : Nat)
  /-- STAGED_BUNDLE (R243): A staged bundle issues its slots each guarded by a stage flag. -/
  | stagedBundle (core : Nat)
  /-- LDI (R261): Loads a 32-bit immediate into a g register. -/
  | ldi (core : Nat)
  /-- LDIP (R261): Loads a 24-bit immediate into a pointer-unit register. -/
  | ldip (core : Nat)
  /-- ADDIL (R261): Adds a 32-bit immediate. -/
  | addil (core : Nat)
  /-- CMPIL (R261): Sets flags of a register minus a 32-bit immediate. -/
  | cmpil (core : Nat)
  /-- CONTROL_NOP (R262): Control bundle no-operation. -/
  | controlNop (core : Nat)
  /-- BR (R262): Branches unconditionally. -/
  | br (core : Nat)
  /-- BRC (R263): Branches when the condition holds. -/
  | brc (core : Nat)
  /-- CALL (R262): Saves the return index and branches. -/
  | call (core : Nat)
  /-- JR (R262): Branches to a register target. -/
  | jr (core : Nat)
  /-- LOOP (R266): Starts a hardware loop with count, stages and rotation. -/
  | loop (core : Nat)
  /-- EXIT (R225): Ends the cart OK or ERROR once its DMA channels are idle. -/
  | exit (core : Nat)
  /-- DMA (R230): Issues a descriptor on a channel, stalling until the channel is idle. -/
  | dma (core : Nat)
  /-- DWAIT (R230): Waits for a channel and writes its status. -/
  | dwait (core : Nat)
  /-- SUBMIT (R226): Sends a cart to the pod submit port and writes its sequence number when accepted. -/
  | submit (core : Nat)
  /-- HBM_RD (R232): A DMA transfer reads HBM into local memory. -/
  | hbmRd (core ch : Nat)
  /-- HBM_WR (R232): A DMA transfer writes local memory to HBM. -/
  | hbmWr (core ch : Nat)
  /-- PKT_RD (R233): A DMA transfer reads a stored frame, optionally releasing its cells. -/
  | pktRd (core ch : Nat)
  /-- PKT_FREE (R232): Releases a packet's cells. -/
  | pktFree (core ch : Nat)
  /-- INJECT (R233): Places a local RTP packet in an injection queue. -/
  | inject (core ch : Nat)
  /-- SMP_WR (R232): Writes local memory to Voxotte sample memory. -/
  | smpWr (core ch : Nat)
  /-- SMP_RD (R232): Reads Voxotte sample memory into local memory. -/
  | smpRd (core ch : Nat)
  /-- POD_MEM_DATA_ACCESS (R239): Reads or writes 8 bytes of a pod memory and advances the address. -/
  | podMemDataAccess (hart pod : Nat) (write : Bool) (value : Word)
  /-- MIX_TICK (R270): At each ms of the time base an engine starts its block if idle. -/
  | mixTick (eng : Nat)
  /-- BLOCK_END (R298): A block ends and the engine starts the latest due block, skipping any passed. -/
  | blockEnd (eng : Nat)
  /-- MIX_NOP (R284): Mix no-operation. -/
  | mixNop (eng : Nat)
  /-- END (R284): Ends the block's program. -/
  | mixEnd (eng : Nat)
  /-- RD (R275): Reads a block from a ring under the sequence lock, zero if stale. -/
  | rd (eng : Nat)
  /-- WR (R274): Writes a work register as a block of a ring. -/
  | wr (eng : Nat)
  /-- WRA (R284): Writes a narrowed accumulator as a block. -/
  | wra (eng : Nat)
  /-- SPL (R287): Queues a narrowed accumulator as a spool slot. -/
  | spl (eng : Nat)
  /-- SPLW (R287): Queues a work register as a spool slot. -/
  | splw (eng : Nat)
  /-- MIX_ACLR (R284): Clears a mix accumulator. -/
  | mixAclr (eng : Nat)
  /-- MIX_AMOV (R284): Copies a mix accumulator. -/
  | mixAmov (eng : Nat)
  /-- MIX_AADD (R284): Adds mix accumulators. -/
  | mixAadd (eng : Nat)
  /-- MIX_ASUB (R284): Subtracts mix accumulators. -/
  | mixAsub (eng : Nat)
  /-- MIX_MAC (R277): Adds sample times gain into an accumulator. -/
  | mixMac (eng : Nat)
  /-- MIX_MSU (R280): Subtracts sample times gain exactly. -/
  | mixMsu (eng : Nat)
  /-- MACR (R279): Adds with a ramped gain. -/
  | macr (eng : Nat)
  /-- MSUR (R279): Subtracts with a ramped gain. -/
  | msur (eng : Nat)
  /-- ATW (R278): Narrows an accumulator to a work register. -/
  | atw (eng : Nat)
  /-- WMOV (R284): Copies a work register. -/
  | wmov (eng : Nat)
  /-- WCLR (R284): Clears a work register. -/
  | wclr (eng : Nat)
  /-- BDN (R281): Decimates a block through a bridge. -/
  | bdn (eng : Nat)
  /-- BUP (R281): Interpolates a block through a bridge. -/
  | bup (eng : Nat)
  /-- CART (R289): Fires a cart template into the cart queue at its phase, or drops it if full. -/
  | cart (eng : Nat)
  /-- SPOOL_SLOT_WRITE (R287): A queued spool slot is written to HBM in order. -/
  | spoolSlotWrite (eng : Nat)
  /-- MIX_ENG_LOAD_DATA_WRITE (R293): Stores one word of the idle program slot and advances LOAD_ADDR. -/
  | mixEngLoadDataWrite (eng : Nat) (value : Word)
  /-- ARM (R294): Checks the idle image and arms a swap at a block. -/
  | arm (eng : Nat)
  /-- DISARM (R294): Discards a pending image. -/
  | disarm (eng : Nat)
  /-- PARAMETER_WRITE (R297): A parameter gain write takes effect at the next block. -/
  | parameterWrite (eng index : Nat) (value : Word)
  /-- MIX_ENG_CTL_WRITE (R300): Enables or disables an engine at block granularity. -/
  | mixEngCtlWrite (eng : Nat) (value : Word)
  /-- MIX_SMEM_DATA_ACCESS (R274): Reads or writes a sample memory word and advances the address. -/
  | mixSmemDataAccess (hart : Nat) (write : Bool) (value : Word)
  /-- PACKET (R309): A decode engine depacketizes a packet cart, assembles frames and releases the cells. -/
  | packet (eng : Nat)
  /-- OPEN (R318): Checks and opens a decode stream. -/
  | decOpen (eng : Nat)
  /-- FLUSH (R318): Abandons frames in assembly of a decode stream. -/
  | decFlush (eng : Nat)
  /-- CLOSE (R318): Abandons assembly and closes a decode stream. -/
  | decClose (eng : Nat)
  /-- DECODE_AU (R318): Decodes one complete frame from a raw buffer. -/
  | decodeAu (eng : Nat)
  /-- LADDER_OPEN (R320): Checks and opens a ladder and forces a key frame. -/
  | ladderOpen (eng : Nat)
  /-- ENCODE (R321): Starts encoding one ladder frame from its source picture. -/
  | encode (eng : Nat)
  /-- ENCODE_SRC_TIMEOUT (R321): A following encode that has not got its whole source in FOLLOW_MS ends SRC_TIMEOUT. -/
  | encodeSrcTimeout (eng : Nat)
  /-- ENCODE_FRAME_ACCEPT (R322): After all rungs are encoded the source is reread and the frame is injected or discarded as torn. -/
  | encodeFrameAccept (eng : Nat)
  /-- LADDER_CLOSE (R320): Closes a ladder. -/
  | ladderClose (eng : Nat)
  /-- HINT_ENTRY_MOVE (R323): The home engine moves an arrived hint into the ladder's hint entry. -/
  | hintEntryMove (eng ladder : Nat)
  /-- VENC_KF_CMD_WRITE (R323): Sets KF_PEND bits of a ladder's hint entry. -/
  | vencKfCmdWrite (value : Word)
  /-- CMP_OPEN (R332): Checks and opens a layout. -/
  | cmpOpen (eng : Nat)
  /-- COMPOSE (R342): Composes one layout frame and writes it band by band to both destinations. -/
  | compose (eng : Nat)
  /-- CMP_CLOSE (R332): Closes a layout. -/
  | cmpClose (eng : Nat)
  /-- CMP_COEF_DATA_WRITE (R350): Writes a coefficient word in every engine unless a cart runs. -/
  | cmpCoefDataWrite (value : Word)
  /-- HBM_CTL_WRITE (R352): Setting EN puts HBM in service if every enabled pseudo-channel is online. -/
  | hbmCtlWrite (value : Word)
  /-- HBM_REQUEST (R356): A pseudo-channel serves a request by urgency, row state and age. -/
  | hbmRequest (pc : Nat) (arriving : List HbmReq)
  /-- PATROL_SCRUB (R361): The scrub reads and corrects granules over each HOURS period. -/
  | patrolScrub (corrected : Bool)
  /-- REFRESH (R364): The controller issues an all-bank refresh when due. -/
  | refresh (pc : Nat)
  /-- READ_TRAIN (R365): Compares the stack's training pattern per lane. -/
  | readTrain (pc laneErr : Nat) (caErr : Bool)
  /-- WRITE_PATTERN (R365): Writes a pattern over a region. -/
  | writePattern (pc : Nat) (caErr : Bool)
  /-- READ_COMPARE (R365): Reads a region and compares it per lane. -/
  | readCompare (pc laneErr : Nat) (caErr : Bool)
  /-- APPLY_REPAIR (R365): Programs lane repairs into controller and stack. -/
  | applyRepair (pc : Nat)
  /-- RETRAIN (R367): Puts a pseudo-channel in RETRAINING and holds its accesses. -/
  | retrain (pc : Nat)
  /-- ONLINE (R365): Puts a pseudo-channel in service. -/
  | online (pc : Nat)
  /-- OFFLINE (R368): Takes a pseudo-channel out of service and raises a Contained error. -/
  | offline (pc : Nat)
  /-- INV_ALL (R374): Removes every cached translation. -/
  | invAll
  /-- INV_DOM (R374): Removes every cached translation of a domain. -/
  | invDom (domain : Nat)
  /-- INV_RANGE (R374): Removes cached translations of a range of a domain. -/
  | invRange (domain : Nat)
  /-- INVALIDATE_DONE (R374): GO clears once accesses using removed entries are performed. -/
  | invalidateDone
  /-- IOM_FQ_POP (R376): Removes the oldest fault record. -/
  | iomFqPop (domain : Nat) (value : Word)
  /-- START (R378): Starts a DMA channel transfer or refuses it. -/
  | start (ch : Nat)
  /-- RESUME (R378): Continues a stopped DMA transfer from BYTES_DONE. -/
  | resume (ch : Nat)
  /-- ABORT (R378): Stops a running DMA transfer after its chunk. -/
  | abort (ch : Nat)
  /-- DMA_CHUNK (R379): A channel translates and moves one chunk, or stops. -/
  | dmaChunk (ch : Nat)
  /-- RATE_LOCK_UPDATE (R382): Every 1 ms a hardware-sourced time base steps RATE_ADJ toward its reference. -/
  | rateLockUpdate (tb edges : Nat) (measured : Int)
  /-- SET_NOW (R385): Sets a time base once, now. -/
  | setNow (tb : Nat)
  /-- SET_AT_PPS0 (R385): Arms a one-time setting at the next PPS_IN0 edge. -/
  | setAtPps0 (tb : Nat)
  /-- SET_AT_PPS1 (R385): Arms a one-time setting at the next PPS_IN1 edge. -/
  | setAtPps1 (tb : Nat)
  /-- TIM_TB_SLEW_OFF_WRITE (R387): Names an offset that the time base absorbs by rate. -/
  | timTbSlewOffWrite (tb : Nat) (value : Word)
  /-- SLEW_DONE (R387): The slew remainder reaches zero and SLEW_DONE is posted. -/
  | slewDone (tb : Nat)
  /-- TIM_TB_NOW_SEC_READ (R388): Latches a time base for the hart and returns seconds. -/
  | timTbNowSecRead (hart tb : Nat)
  /-- TIM_TB_NOW_NS_READ (R388): Returns the latched nanoseconds, or latches afresh. -/
  | timTbNowNsRead (hart tb : Nat)
  /-- TIM_XSNAP (R389): Latches all eight time bases in one cycle. -/
  | timXsnap
  /-- TIM_TXQ_POP (R393): Removes the oldest transmit stamp entry. -/
  | timTxqPop (port : Nat) (value : Word)
  /-- INPUT_EDGE (R397): An accepted input edge is stamped and counted. -/
  | inputEdge (input : Nat) (rising : Bool) (quarter : Nat)
  /-- PPS_LOST (R398): A PPS input with no edge for 2 s becomes LOST. -/
  | ppsLost (input : Nat)
  /-- OUTPUT_RISE (R399): An output goes high at its scheduled time. -/
  | outputRise (output : Nat)
  /-- OUTPUT_FALL (R399): An output goes low WIDTH_NS later. -/
  | outputFall (output : Nat)
  /-- TIM_OUT_CFG_WRITE (R399): Enables an output or refuses it with CFG_ERR. -/
  | timOutCfgWrite (output : Nat) (value : Word)
  /-- MACHINE_TIMER_INTERRUPT (R405): CTL_MTIME reaching a hart's compare raises MTIP. -/
  | machineTimerInterrupt (hart : Nat)
  /-- EVENT_ITEM_POST (R409): An item becomes visible when its last word arrives and sets PEND. -/
  | eventItemPost (src : Nat)
  /-- EVQ_HEAD_READ (R411): Takes the oldest item into the hart's latch, or stalls on an empty queue. -/
  | evqHeadRead (hart : Nat) (priv : Priv) (queue mie swip : Nat)
  /-- EVQ_READ_WAKE (R412): A stalled read ends with the empty word on a pending interrupt or EN 0. -/
  | evqReadWake (hart mie swip : Nat)
  /-- EVQ_FLUSH (R415): Discards every item and partial item of a queue. -/
  | evqFlush (queue : Nat) (partway : List Nat)
  /-- CTL_EVQ_CFG_WRITE (R406): Configures a queue; enabling it makes it empty. -/
  | ctlEvqCfgWrite (queue : Nat) (value : Word)
  /-- MGT_FRAME_RECEIVE (R417): A management frame is filtered and steered to the root of trust or the ring. -/
  | mgtFrameReceive (bytes : List Byte) (fcsOk : Bool)
  /-- MGT_TX_FRAME (R418): The management port transmits a frame from its ring. -/
  | mgtTxFrame
  /-- MDIO_ADDRESS (R416): Sends a Clause 45 address frame. -/
  | mdioAddress
  /-- MDIO_WRITE (R416): Sends a Clause 45 write frame. -/
  | mdioWrite
  /-- MDIO_READ_INC (R416): Sends a post-increment read frame. -/
  | mdioReadInc (data : Nat)
  /-- MDIO_READ (R416): Sends a read frame. -/
  | mdioRead (data : Nat)
  /-- CTL_RYU_DOORBELL (R419): Marks a Ryutal channel pending and interrupts FW_HART. -/
  | ctlRyuDoorbell (value : Word)
  /-- VERSION (R423): Returns Ryutal and firmware versions. -/
  | version (channel : Nat)
  /-- FEAT_GET (R423): Returns offered and accepted features. -/
  | featGet (channel : Nat)
  /-- FEAT_SET (R424): Locks the accepted feature set once. -/
  | featSet (channel : Nat)
  /-- THERMAL_READ (R423): Returns junction and HBM temperatures. -/
  | thermalRead (channel stack0 stack1 : Nat)
  /-- HBM_INFO (R423): Returns HBM masks and training margins. -/
  | hbmInfo (channel : Nat) (margins : List Nat)
  /-- CHANNEL_MASK_SET (R423): Writes the channel mask for the next boot. -/
  | channelMaskSet (channel : Nat)
  /-- ERR_EVENTS_CFG (R423): Enables error-log event items. -/
  | errEventsCfg (channel : Nat)
  /-- TRACE_READ (R423): Returns bytes of the trace log. -/
  | traceRead (channel : Nat)
  /-- AUTO_SWAP (R424): Firmware writes SWAP once an hour when the feature is accepted. -/
  | autoSwap
  /-- ERR_EVENT_POST (R459): Firmware posts an item for each error record it takes. -/
  | errEventPost
  /-- ROOT_OF_TRUST_BOOT (R432): After reset the root of trust tests, derives keys, measures, reads the configuration and verifies firmware. -/
  | rootOfTrustBoot (selfTestOk : Bool)
  /-- SEC_MBX_DB_M (R439): Rings the M-half mailbox doorbell. -/
  | secMbxDbM (hart : Nat) (priv : Priv) (value : Word)
  /-- SEC_MBX_DB_S (R439): Rings the S-half mailbox doorbell. -/
  | secMbxDbS (value : Word)
  /-- REPORT (R446): Signs and returns an attestation report. -/
  | report (half : Bool)
  /-- READ_MEAS (R440): Returns measurement registers and counts. -/
  | readMeas (half : Bool)
  /-- EXTEND (R436): Extends a permitted measurement register. -/
  | extend (half : Bool)
  /-- GET_CERT (R440): Returns the device certificate. -/
  | getCert (half : Bool)
  /-- VERIFY (R431): Verifies an operating system header and extends MEAS3. -/
  | verify (half : Bool)
  /-- LOCK (R441): Sets LOCKED. -/
  | lock (half : Bool)
  /-- CFG_WRITE (R442): Writes the unused boot configuration copy. -/
  | cfgWrite (half : Bool)
  /-- SVN_COMMIT (R441): Blows SVN fuse bits. -/
  | svnCommit (half : Bool)
  /-- WRAP (R448): Wraps data under a measurement-bound key. -/
  | wrap (half : Bool)
  /-- UNWRAP (R448): Unwraps a sealed blob. -/
  | unwrap (half : Bool)
  /-- NETWORK_REQUEST (R445): A UDP REPORT or CERT request is queued, served and answered. -/
  | networkRequest
  /-- SEC_CHALLENGE (R450): Shifts out a fresh unlock challenge. -/
  | secChallenge
  /-- SEC_UNLOCK (R450): Checks the token, zeroises secrets and opens debug. -/
  | secUnlock (token : List Byte)
  /-- ERROR_DETECTION (R455): A detected error makes a record that fills its class slot or log. -/
  | errorDetection (subsys code inst : Nat) (info : Word)
  /-- FATAL_RESET_TIMER (R460): FATAL_RESET_MS after the first Fatal a full reset begins. -/
  | fatalResetTimer
  /-- WEDGED (R452): A register access unanswered in 100 µs completes with an error response. -/
  | wedged (hart : Nat) (kind : AccessKind) (addr : Nat)
  /-- CLOCK_LOSS (R452): Loss of the core reference or a PLL lock raises CLK_LOSS. -/
  | clockLoss (reference : Bool)
  /-- SLOT_FULL_CLEAR (R456): Writing 1 to SLOT_FULL empties a class slot. -/
  | slotFullClear (value : Word)
  /-- ERR_LOG_POP (R457): Removes the oldest secondary log record. -/
  | errLogPop (value : Word)
  /-- ERR_INJECT (R462): Makes an injected error record. -/
  | errInject (value : Word)
  /-- ERR_TRACE_WR3 (R464): Commits a software trace entry. -/
  | errTraceWr3 (priv : Priv) (value : Word)
  /-- ERR_TRACE_RD_DATA (R463): Returns a trace word and advances the address. -/
  | errTraceRdData (hart : Nat)
  /-- THERMAL_READING (R469): Every 1 ms the hottest sensor adjusts DUTY and may trip. -/
  | thermalReading (readings : List Int)
  /-- ERR_THERM_CFG_WRITE (R469): Sets thermal thresholds or refuses with CFG_ERR. -/
  | errThermCfgWrite (value : Word)
  /-- CTL_RESET (R465): A write with the right key starts a full reset. -/
  | ctlReset (value : Word)
  /-- RESET_N_ASSERT (R466): Asserting RESET_N puts outputs in reset state and HBM in self-refresh. -/
  | resetNAssert
  /-- RESET_N_RELEASE (R466): Releasing RESET_N takes the reference clocks and locks PLLs. -/
  | resetNRelease
  /-- FULL_RESET_RELEASE (R466): 2 ms after step 3 harts fetch from boot ROM and the root of trust starts. -/
  | fullResetRelease
  /-- RAIL_UNDERVOLTAGE (R482): A monitored rail below 90% holds or starts a full reset. -/
  | railUndervoltage (rail : Nat)
  /-- MONITORED_RAIL_RETURN (R482): VDD_CORE, VDD_PLL and AVDD_SD all return above 90% of nominal, and the self-held full reset proceeds. -/
  | monitoredRailReturn
  /-- REFCLK100_RETURN (R466): The 100 MHz core reference becomes present during reset, so the PLLs lock and step 4 of full reset occurs. -/
  | refclk100Return
  /-- BLOCK_LOCK (R383): The receive PCS of a SerDes group gains or loses block lock on its link. -/
  | blockLock (group : Nat) (locked : Bool)
  /-- MGT_LINK_CHANGE (R416): The management port link comes up or goes down, and auto-negotiation sets LINK, SPEED and DUPLEX of CTL_MGT_STATUS. -/
  | mgtLinkChange (up : Bool) (speed : Nat) (duplex : Bool)
  /-- TRST_N_CHANGE (R477): TRST_N goes low, holding the TAP in Test-Logic-Reset and making boundary scan and debug unlock unavailable, or goes high and releases it. -/
  | trstNChange (low : Bool)
  /-- MIX_ENG_LOAD_DATA_READ (R293): A read of MIX_ENG_LOAD_DATA returns the idle-slot word at LOAD_ADDR and advances LOAD_ADDR by one. -/
  | mixEngLoadDataRead (hart eng : Nat)
  /-- CMP_COEF_DATA_READ (R350): A read of CMP_COEF_DATA returns the coefficient word at ADDR and advances ADDR by one modulo 3,072. -/
  | cmpCoefDataRead (hart : Nat)
  deriving DecidableEq, Repr

end Sys2Proof
end

