-- ==== Sys2Proof/Decode.lean ====
section
/-! DEFINITION. The commands that a word spells. The table gives its rows no bits: a command comes to the block as a
register access, a pin, a frame or an event of the part, never as a coded word (log 56). -/

namespace Sys2Proof

/-- The command of a word of nbits bits: none, since no row of the table has bits. -/
def decodeTableWord (_nbits _w : Nat) : Option Instr := none

end Sys2Proof
end

