-- ==== Sys2Proof/Machine/Bits.lean ====
section
/-! DEFINITION. Bit fields, signed readings and byte orders: the helpers every other file uses. -/

namespace Sys2Proof.Machine

/-- Bits lo to lo+len-1 of a natural number. -/
def bitsOf (n lo len : Nat) : Nat := (n >>> lo) % 2 ^ len

/-- Bits lo to lo+len-1 of a word. -/
@[irreducible] def fld (w : Word) (lo len : Nat) : Nat := bitsOf w.toNat lo len

/-- A natural number with bits lo to lo+len-1 replaced by v modulo 2^len. -/
def setBits (n lo len v : Nat) : Nat :=
  n % 2 ^ lo + ((v % 2 ^ len) <<< lo) + ((n >>> (lo + len)) <<< (lo + len))

/-- A word with bits lo to lo+len-1 replaced by v modulo 2^len. -/
@[irreducible] def setFld (w : Word) (lo len v : Nat) : Word := BitVec.ofNat 64 (setBits w.toNat lo len v)

/-- One bit of a natural number. -/
def bitAt (n i : Nat) : Bool := (n >>> i) % 2 = 1

/-- A word from a natural number, modulo 2^64. -/
def wd (n : Nat) : Word := BitVec.ofNat 64 n

/-- A truth value as a bit. -/
def b2n (b : Bool) : Nat := if b then 1 else 0

/-- The signed reading of the low len bits. -/
def sext (n len : Nat) : Int :=
  if n % 2 ^ len < 2 ^ (len - 1) then (n % 2 ^ len : Nat) else (n % 2 ^ len : Nat) - (2 ^ len : Nat)

/-- The low len bits of an integer, two's complement. -/
def wrapInt (z : Int) (len : Nat) : Nat := (z % (2 ^ len : Nat)).toNat

/-- An integer limited to lo … hi. -/
def clampInt (z lo hi : Int) : Int := if z < lo then lo else if hi < z then hi else z

/-- A natural number limited to lo … hi. -/
def clampNat (n lo hi : Nat) : Nat := if n < lo then lo else if hi < n then hi else n

/-- len bytes of n, lowest first (00 R13). -/
def leBytes : Nat → Nat → List Byte
  | 0, _ => []
  | len + 1, n => BitVec.ofNat 8 n :: leBytes len (n / 256)

/-- The number that bytes spell, lowest first (00 R13). -/
def ofLe : List Byte → Nat
  | [] => 0
  | b :: bs => b.toNat + 256 * ofLe bs

/-- len bytes of n in network order (00 R14). -/
def beBytes (len n : Nat) : List Byte := (leBytes len n).reverse

/-- The number that bytes spell in network order (00 R14). -/
def ofBe (bs : List Byte) : Nat := ofLe bs.reverse

/-- len bytes of a list from an offset, zero past its end. -/
def slice (bs : List Byte) (off len : Nat) : List Byte :=
  let t := (bs.drop off).take len
  t ++ List.replicate (len - t.length) 0

/-- The big-endian number in len bytes at an offset. -/
def beAt (bs : List Byte) (off len : Nat) : Nat := ofBe (slice bs off len)

/-- The byte at an offset as a number, zero past the end. -/
def byteAt (bs : List Byte) (off : Nat) : Nat := (bs.getD off 0).toNat

/-- A list with the bytes at an offset replaced; bytes past the end are not added. -/
def splice (bs : List Byte) (off : Nat) (new : List Byte) : List Byte :=
  bs.take off ++ new.take (bs.length - off) ++ bs.drop (off + new.length)

/-- The least n of a range that meets a test. -/
def firstBelow (n : Nat) (p : Nat → Bool) : Option Nat := (List.range n).find? p

/-- Ceiling division. -/
def ceilDiv (a b : Nat) : Nat := (a + b - 1) / b

/-- The number of one bits among the low n. -/
def popcount : Nat → Nat → Nat
  | 0, _ => 0
  | n + 1, v => v % 2 + popcount n (v / 2)

/-- The floor of the base-2 logarithm of a number below 2^n; 0 for 0. -/
def log2Below : Nat → Nat → Nat
  | 0, _ => 0
  | n + 1, v => if v < 2 then 0 else 1 + log2Below n (v / 2)

/-- Bitwise and of naturals that are below 2^64. -/
def nand64 (a b : Nat) : Nat := ((wd a) &&& (wd b)).toNat

/-- Split a list into its first element that meets a test and the list without it. -/
def takeFirst {α : Type} (p : α → Bool) : List α → Option (α × List α)
  | [] => none
  | x :: xs =>
    if p x then some (x, xs)
    else match takeFirst p xs with
      | none => none
      | some (y, ys) => some (y, x :: ys)

/-- A list with its element at an index replaced. -/
def setAt {α : Type} (xs : List α) (i : Nat) (v : α) : List α := xs.set i v

/-- Words as little-endian bytes, word 0 lowest (00 R13). -/
def wordBytes : List Word → List Byte
  | [] => []
  | w :: ws => leBytes 8 w.toNat ++ wordBytes ws

/-- n words from little-endian bytes; missing bytes are zero. -/
def bytesWords : Nat → List Byte → List Word
  | 0, _ => []
  | n + 1, bs => wd (ofLe (slice bs 0 8)) :: bytesWords n (bs.drop 8)

/-- One bit step of the reflected CRC-32 of IEEE 802.3. -/
def crcBit (c : BitVec 32) : BitVec 32 :=
  if c.getLsbD 0 then (c >>> 1) ^^^ 0xEDB88320#32 else c >>> 1

/-- One byte step of the CRC-32. -/
def crcByte (c : BitVec 32) (b : Byte) : BitVec 32 :=
  crcBit (crcBit (crcBit (crcBit (crcBit (crcBit (crcBit (crcBit (c ^^^ b.setWidth 32))))))))

/-- CRC-32 of IEEE 802.3 over bytes. -/
def crc32 (bs : List Byte) : Nat := (bs.foldl crcByte 0xFFFFFFFF#32 ^^^ 0xFFFFFFFF#32).toNat

/-- A frame padded with zeros to 60 bytes before its FCS (05 R149) (log 104). -/
def padFrame (bs : List Byte) : List Byte := bs ++ List.replicate (60 - bs.length) 0

/-- A frame as it leaves the MAC: padding, then its FCS, inverted where it ends in error (05 R149, R493). -/
def wireBytes (bs : List Byte) (good : Bool) : List Byte :=
  let fcs := leBytes 4 (crc32 (padFrame bs))
  padFrame bs ++ if good then fcs else fcs.map (~~~ ·)

/-- a is later than b as 32-bit sequence numbers compare: 1 to 2^31 − 1 ahead modulo 2^32. -/
def seqAfter (a b : Nat) : Bool :=
  let d := (a + 2 ^ 32 - b % 2 ^ 32) % 2 ^ 32
  decide (0 < d ∧ d < 2 ^ 31)

/-- Ones'-complement sum of 16-bit big-endian words, folded. -/
def onesSum : List Byte → Nat
  | a :: b :: bs => a.toNat * 256 + b.toNat + onesSum bs
  | [a] => a.toNat * 256
  | [] => 0

/-- A sum folded to 16 bits with end-around carry. -/
def fold16 (n : Nat) : Nat :=
  let f := fun m => m % 65536 + m / 65536
  f (f (f n))

/-- The Internet checksum of bytes. -/
def inetSum (bs : List Byte) : Nat := 65535 - fold16 (onesSum bs)

end Sys2Proof.Machine
end

