-- ==== Sys2Proof/Machine/RegMap.lean ====
section
/-! DEFINITION. The register map: every register the spec gives a block window, its physical address, its
instances, the access code of each field (00 R8) and the reset value of each field. Written from the register
tables of spec/01 to spec/17; each register's line names the rule that describes it. -/

namespace Sys2Proof.Machine

/-- The registers of the part, by the name the spec gives each (00 R4). -/
inductive Reg where
  | PRT_GRP_CFG
  | PRT_GRP_RX_OVF_CNT
  | PRT_PORT_CFG
  | PRT_RX_OCT_CNT
  | PRT_RX_FRM_CNT
  | PRT_RX_RUNT_CNT
  | PRT_RX_OVERSIZE_CNT
  | PRT_RX_FCS_CNT
  | PRT_RX_PAUSE_CNT
  | PRT_RX_FEC_CORR_CNT
  | PRT_RX_FEC_UNCORR_CNT
  | PRT_TX_FRM_CNT
  | PRT_TX_OCT_CNT
  | PRT_TX_ABORT_CNT
  | ING_PORT_CFG
  | ING_PORT_MISS_CNT
  | ING_PORT_PARSE_DROP_CNT
  | ING_POL_OVH
  | ING_RING_MAP
  | ING_CTX_CMD
  | ING_CTX_STATUS
  | ING_CTX_DATA
  | ING_RING_BASE
  | ING_RING_CFG
  | ING_RING_HEAD
  | ING_RING_TAIL
  | ING_RING_DISCARD_CNT
  | ING_RING_NOBUF_CNT
  | SRT_CMD
  | SRT_STATUS
  | SRT_DATA
  | SRT_LIFE_MARGIN
  | SRT_NOTICE_CFG
  | SRT_IN_PKT_CNT
  | SRT_IN_AUTH_FAIL_CNT
  | SRT_IN_REPLAY_CNT
  | SRT_IN_NOKEY_CNT
  | SRT_IN_EXPIRED_CNT
  | SRT_OUT_PKT_CNT
  | SRT_OUT_OCT_CNT
  | SRT_OUT_NOKEY_CNT
  | SRT_OUT_EXPIRED_CNT
  | SRT_OUT_OVERSIZE_CNT
  | SRT_OUT_ABORT_CNT
  | SRT_OUT_MISMATCH_CNT
  | FWD_CMD
  | FWD_STATUS
  | FWD_DATA
  | FWD_FB_CFG
  | FWD_STEER_A
  | FWD_STEER_B
  | FWD_XMAP_LO
  | FWD_XMAP_HI
  | FWD_CPROF
  | FWD_IN_PKT_CNT
  | FWD_STALE_CNT
  | FWD_SCREEN_DROP_CNT
  | FWD_NODEST_CNT
  | FWD_CART_CNT
  | FWD_WQ_HOLD_CNT
  | FWD_WQ_DROP_CNT
  | FWD_KF_REQ_CNT
  | FWD_COPY_CNT
  | FWD_SEL_DROP_CNT
  | FWD_LATE_DROP_CNT
  | FWD_DOWN_CNT
  | FWD_UP_CNT
  | FWD_REPL_OVF_CNT
  | TM_CMD
  | TM_STATUS
  | TM_DATA
  | TM_LEN_PROF
  | TM_BUF_THR
  | TM_BUF_OCC
  | TM_BUF_PEAK
  | TM_BUF_DROP_CNT
  | TM_BUF_EXH_CNT
  | TM_PIPE_SHP_DROP_CNT
  | TM_PIPE_MISROUTE_CNT
  | TM_TXR_BASE
  | TM_TXR_CFG
  | TM_TXR_HEAD
  | TM_TXR_TAIL
  | TM_TXR_DROP_CNT
  | TM_PORT_CFG
  | TM_PQ_CFG
  | TM_Q_DEPTH
  | TM_Q_TX_FRM_CNT
  | TM_Q_TX_OCT_CNT
  | TM_Q_DROP_CNT
  | TM_PORT_TXDIS_CNT
  | TM_PORT_GATE_DROP_CNT
  | TM_PORT_GATE_OVR_CNT
  | TM_GCL_CMD
  | TM_GCL_BASE_SEC
  | TM_GCL_BASE_NS
  | TM_GCL_CFG
  | TM_GCL_STATUS
  | TM_GCL_START_SEC
  | TM_GCL_START_NS
  | TM_GCL_ENTRY
  | WD_CFG
  | WD_STORE_FREE
  | WD_SEQ_NEXT
  | WD_CMD
  | WD_STATUS
  | WD_DATA
  | WD_LOCK_STATUS
  | WD_LOCK_CMD
  | WD_POOL_CFG
  | WD_POOL_MASK
  | WD_POOL_WGT
  | WD_ACCEPT_CNT
  | WD_DISPATCH_CNT
  | WD_RESUME_CNT
  | WD_PREEMPT_CNT
  | WD_FAULT_CNT
  | WD_CANCEL_CNT
  | WD_EXPIRE_CNT
  | WD_SW_BUSY_CNT
  | WD_HW_HOLD_CNT
  | WD_HW_BAD_CNT
  | WD_MISMATCH_CNT
  | WD_SWAP_CNT
  | WD_SUB_DATA
  | WD_SUB_GO
  | WD_SUB_RESULT
  | PEA_CORE_CFG
  | PEA_CORE_STATE
  | PEA_CORE_BUSY_CNT
  | PEA_CORE_STALL_CNT
  | PEA_CORE_EXC_CNT
  | PEA_CORE_ECC_CNT
  | PEA_POD_CFG
  | PEA_POD_MEM_ADDR
  | PEA_POD_MEM_DATA
  | PEA_POD_MEM_STATUS
  | PEA_POD_DMA_OCT_CNT
  | PEA_POD_SUBMIT_HOLD_CNT
  | PEA_POD_INJ_HOLD_CNT
  | PEA_POD_BANK_STALL_CNT
  | MIX_CFG
  | MIX_BLOCK
  | MIX_SMEM_ADDR
  | MIX_SMEM_DATA
  | MIX_ENG_CTL
  | MIX_ENG_STATUS
  | MIX_ENG_LOAD_ADDR
  | MIX_ENG_LOAD_DATA
  | MIX_ENG_SWAP_IDX
  | MIX_ENG_CMD
  | MIX_ENG_CMD_STATUS
  | MIX_ENG_START_BLK
  | MIX_ENG_BLK_CNT
  | MIX_ENG_OVR_CNT
  | MIX_ENG_SKIP_CNT
  | MIX_ENG_STALE_CNT
  | MIX_ENG_SAT_CNT
  | MIX_ENG_CART_CNT
  | MIX_ENG_CART_DROP_CNT
  | MIX_ENG_SPL_DROP_CNT
  | MIX_ENG_SPL_FAULT_CNT
  | MIX_ENG_STALL_CNT
  | MIX_ENG_CYC_MAX
  | MIX_ENG_PARAM
  | VDEC_CFG
  | VDEC_STBL
  | VDEC_ENG_STATUS
  | VDEC_ENG_PKT_CNT
  | VDEC_ENG_PUB_CNT
  | VDEC_ENG_PIX_CNT
  | VDEC_ENG_LOST_CNT
  | VDEC_ENG_LATE_CNT
  | VDEC_ENG_ERR_CNT
  | VENC_CFG
  | VENC_LTBL
  | VENC_KF_CMD
  | VENC_ENG_STATUS
  | VENC_ENG_FRM_CNT
  | VENC_ENG_PIX_CNT
  | VENC_ENG_PKT_CNT
  | VENC_ENG_DISC_CNT
  | VENC_ENG_HOLD_CNT
  | VENC_HINT
  | CMP_CFG
  | CMP_LTBL
  | CMP_COEF_ADDR
  | CMP_COEF_DATA
  | CMP_COEF_STATUS
  | CMP_ENG_STATUS
  | CMP_ENG_FRM_CNT
  | CMP_ENG_PIX_CNT
  | CMP_ENG_NOTREADY_CNT
  | CMP_ENG_TORN_CNT
  | CMP_ENG_SIGFAIL_CNT
  | CMP_ENG_WITHHELD_CNT
  | CMP_ENG_ERR_CNT
  | CMP_ENG_CYC_MAX
  | HBM_CTL
  | HBM_PC_MASK
  | HBM_STATUS
  | HBM_PC_OFFLINE
  | HBM_BOOT_FAIL
  | HBM_PORT_CFG
  | HBM_REF_CFG
  | HBM_SCRUB_CFG
  | HBM_TRN_CMD
  | HBM_TRN_CFG
  | HBM_TRN_STATUS
  | HBM_PORT_RD_CNT
  | HBM_PORT_WR_CNT
  | HBM_PORT_LATE_CNT
  | HBM_PORT_HOLD_CNT
  | HBM_PC_STATE
  | HBM_PC_REPAIR
  | HBM_PC_RD_CNT
  | HBM_PC_WR_CNT
  | HBM_PC_CE_CNT
  | HBM_PC_UE_CNT
  | HBM_PC_RETRAIN_CNT
  | HBM_PC_REF_OWED_MAX
  | HBM_PC_DLY
  | HBM_DMA_SRC
  | HBM_DMA_DST
  | HBM_DMA_LEN
  | HBM_DMA_CFG
  | HBM_DMA_CMD
  | HBM_DMA_STATUS
  | IOM_CMD
  | IOM_CMD_IOVA
  | IOM_CMD_PAGES
  | IOM_WALK_CNT
  | IOM_FAULT_CNT
  | IOM_DOM_CFG
  | IOM_FQ_COUNT
  | IOM_FQ_LOST_CNT
  | IOM_FQ_POP
  | IOM_FQ_REC
  | TIM_XSNAP
  | TIM_XSNAP_SEC
  | TIM_XSNAP_NS
  | TIM_TB_CFG
  | TIM_TB_RATE
  | TIM_TB_SET_SEC
  | TIM_TB_SET_NS
  | TIM_TB_CMD
  | TIM_TB_STATUS
  | TIM_TB_NOW_SEC
  | TIM_TB_NOW_NS
  | TIM_TB_SLEW_OFF
  | TIM_TB_SLEW_RATE
  | TIM_TB_SRC_LOST_CNT
  | TIM_IN_CFG
  | TIM_IN_LAST_SEC
  | TIM_IN_LAST_NS
  | TIM_IN_EVT_CNT
  | TIM_IN_IGN_CNT
  | TIM_IN_STATUS
  | TIM_OUT_CFG
  | TIM_OUT_START_SEC
  | TIM_OUT_START_NS
  | TIM_OUT_PERIOD
  | TIM_PORT_CORR
  | TIM_TXQ_CFG
  | TIM_TXQ_STATUS
  | TIM_TXQ_HEAD0
  | TIM_TXQ_HEAD1
  | TIM_TXQ_POP
  | TIM_TXQ_OVF_CNT
  | TIM_ONESTEP_SKIP_CNT
  | ERR_CFG
  | ERR_STATUS
  | ERR_SLOT_W
  | ERR_LOG_COUNT
  | ERR_LOG_POP
  | ERR_LOG_HEAD_W
  | ERR_LOG_OVF_CNT
  | ERR_CLASS_CNT
  | ERR_INJECT
  | ERR_INJECT_INFO
  | ERR_TRACE_COUNT
  | ERR_TRACE_LOST_CNT
  | ERR_TRACE_RD_ADDR
  | ERR_TRACE_RD_DATA
  | ERR_TRACE_WR
  | ERR_THERM_CFG
  | ERR_THERM_STATUS
  | ERR_THERM_CNT
  | ERR_LIFE_ACC
  | CTL_ID
  | CTL_MSIP
  | CTL_MTIMECMP
  | CTL_MTIME
  | CTL_EXT_M
  | CTL_EXT_S
  | CTL_MGT_CFG
  | CTL_MGT_STATUS
  | CTL_MGT_MAC
  | CTL_MGT_RX_BASE
  | CTL_MGT_RX_CFG
  | CTL_MGT_RX_HEAD
  | CTL_MGT_RX_TAIL
  | CTL_MGT_TX_BASE
  | CTL_MGT_TX_CFG
  | CTL_MGT_TX_HEAD
  | CTL_MGT_TX_TAIL
  | CTL_MGT_RX_FRM_CNT
  | CTL_MGT_RX_OVF_CNT
  | CTL_MGT_RX_ERR_CNT
  | CTL_MGT_RX_DISCARD_CNT
  | CTL_MGT_TX_FRM_CNT
  | CTL_MDIO_CMD
  | CTL_MDIO_DATA
  | CTL_MDIO_CFG
  | CTL_RYU_CFG
  | CTL_RYU_PEND
  | CTL_RESET
  | CTL_RYU_DOORBELL
  | CTL_EVQ_CFG
  | CTL_EVQ_STATUS
  | CTL_EVQ_HEAD
  | CTL_EVQ_CMD
  | CTL_EVQ_NOTICE
  | CTL_EVQ_ITEM_CNT
  | CTL_EVQ_LOST_CNT
  | CTL_EVQ_FLUSH_PARTIAL_CNT
  | CTL_EVQ_LATCH
  | SEC_STATUS
  | SEC_BOOT_MASK
  | SEC_NET_V4
  | SEC_NET_V6_LO
  | SEC_NET_V6_HI
  | SEC_NET_V6_EN
  | SEC_MBX_DB_M
  | SEC_NET_CFG
  | SEC_MBX_DB_S
  | SEC_REPORT_CNT
  | SEC_NET_REQ_CNT
  | SEC_NET_DROP_CNT
  | SEC_NET_BAD_CNT
  | SEC_TURNIP_BLK_CNT
  deriving DecidableEq, Repr

/-- One register of the map: physical address of instance 0; (stride, count) of each index, outermost first; the
bits of each access code; the reset value where all instances share one. -/
structure RegRow where
  base : Nat
  dims : List (Nat × Nat)
  rw   : Nat
  w1c  : Nat
  rc   : Nat
  reset : Nat
  deriving DecidableEq, Repr

/-- The row of each register. Bits in none of the masks are read only, write only or reserved, and a generic write
leaves them (00 R7, R8). -/
def Reg.row : Reg → RegRow
  | .PRT_GRP_CFG => ⟨0x20000000, [(0x80000, 32)], 0x37, 0x0, 0x0, 0x0⟩ -- 02:R33
  | .PRT_GRP_RX_OVF_CNT => ⟨0x20000010, [(0x80000, 32)], 0x0, 0x0, 0x0, 0x0⟩ -- 02:R38
  | .PRT_PORT_CFG => ⟨0x20010000, [(0x80000, 32), (0x1000, 8)], 0xfffff, 0x0, 0x0, 0x17ba0⟩ -- 02:R34
  | .PRT_RX_OCT_CNT => ⟨0x20010100, [(0x80000, 32), (0x1000, 8)], 0x0, 0x0, 0x0, 0x0⟩ -- 02:R36
  | .PRT_RX_FRM_CNT => ⟨0x20010108, [(0x80000, 32), (0x1000, 8)], 0x0, 0x0, 0x0, 0x0⟩ -- 02:R36
  | .PRT_RX_RUNT_CNT => ⟨0x20010110, [(0x80000, 32), (0x1000, 8)], 0x0, 0x0, 0x0, 0x0⟩ -- 02:R36
  | .PRT_RX_OVERSIZE_CNT => ⟨0x20010118, [(0x80000, 32), (0x1000, 8)], 0x0, 0x0, 0x0, 0x0⟩ -- 02:R36
  | .PRT_RX_FCS_CNT => ⟨0x20010120, [(0x80000, 32), (0x1000, 8)], 0x0, 0x0, 0x0, 0x0⟩ -- 02:R36
  | .PRT_RX_PAUSE_CNT => ⟨0x20010128, [(0x80000, 32), (0x1000, 8)], 0x0, 0x0, 0x0, 0x0⟩ -- 02:R36
  | .PRT_RX_FEC_CORR_CNT => ⟨0x20010130, [(0x80000, 32), (0x1000, 8)], 0x0, 0x0, 0x0, 0x0⟩ -- 02:R36
  | .PRT_RX_FEC_UNCORR_CNT => ⟨0x20010138, [(0x80000, 32), (0x1000, 8)], 0x0, 0x0, 0x0, 0x0⟩ -- 02:R36
  | .PRT_TX_FRM_CNT => ⟨0x20010180, [(0x80000, 32), (0x1000, 8)], 0x0, 0x0, 0x0, 0x0⟩ -- 05:R493
  | .PRT_TX_OCT_CNT => ⟨0x20010188, [(0x80000, 32), (0x1000, 8)], 0x0, 0x0, 0x0, 0x0⟩ -- 05:R493
  | .PRT_TX_ABORT_CNT => ⟨0x20010190, [(0x80000, 32), (0x1000, 8)], 0x0, 0x0, 0x0, 0x0⟩ -- 05:R493
  | .ING_PORT_CFG => ⟨0x21000000, [(0x8, 256)], 0x7, 0x0, 0x0, 0x1⟩ -- 02:R43
  | .ING_PORT_MISS_CNT => ⟨0x21000800, [(0x8, 256)], 0x0, 0x0, 0x0, 0x0⟩ -- 02:R43
  | .ING_PORT_PARSE_DROP_CNT => ⟨0x21001000, [(0x8, 256)], 0x0, 0x0, 0x0, 0x0⟩ -- 02:R39
  | .ING_POL_OVH => ⟨0x21001800, [(0x8, 16)], 0x7f, 0x0, 0x0, 0x0⟩ -- 02:R55
  | .ING_RING_MAP => ⟨0x21001900, [(0x8, 16)], 0xf, 0x0, 0x0, 0x0⟩ -- 02:R61
  | .ING_CTX_CMD => ⟨0x21002000, [], 0xf000fffff, 0x0, 0x0, 0x0⟩ -- 02:R47
  | .ING_CTX_STATUS => ⟨0x21002008, [], 0x0, 0x0, 0x0, 0x0⟩ -- 02:R47
  | .ING_CTX_DATA => ⟨0x21002040, [(0x8, 16)], 0xffffffffffffffff, 0x0, 0x0, 0x0⟩ -- 02:R47
  | .ING_RING_BASE => ⟨0x21010000, [(0x100, 16)], 0xffffffffffff, 0x0, 0x0, 0x0⟩ -- 02:R59
  | .ING_RING_CFG => ⟨0x21010008, [(0x100, 16)], 0x3f03fff01f, 0x0, 0x0, 0x800c⟩ -- 02:R59
  | .ING_RING_HEAD => ⟨0x21010010, [(0x100, 16)], 0x0, 0x0, 0x0, 0x0⟩ -- 02:R60
  | .ING_RING_TAIL => ⟨0x21010018, [(0x100, 16)], 0xffff, 0x0, 0x0, 0x0⟩ -- 02:R60
  | .ING_RING_DISCARD_CNT => ⟨0x21010020, [(0x100, 16)], 0x0, 0x0, 0x0, 0x0⟩ -- 02:R63
  | .ING_RING_NOBUF_CNT => ⟨0x21010028, [(0x100, 16)], 0x0, 0x0, 0x0, 0x0⟩ -- 02:R62
  | .SRT_CMD => ⟨0x22000000, [], 0xf000fffff, 0x0, 0x0, 0x0⟩ -- 03:R74
  | .SRT_STATUS => ⟨0x22000008, [], 0x0, 0x0, 0x0, 0x0⟩ -- 03:R74
  | .SRT_DATA => ⟨0x22000040, [(0x8, 16)], 0xffffffffffffffff, 0x0, 0x0, 0x0⟩ -- 03:R74
  | .SRT_LIFE_MARGIN => ⟨0x22000100, [], 0xffffffffffff, 0x0, 0x0, 0x1000000⟩ -- 03:R80
  | .SRT_NOTICE_CFG => ⟨0x22000108, [], 0x1bf, 0x0, 0x0, 0x0⟩ -- 03:R92
  | .SRT_IN_PKT_CNT => ⟨0x22010000, [(0x100, 32)], 0x0, 0x0, 0x0, 0x0⟩ -- 03:R81
  | .SRT_IN_AUTH_FAIL_CNT => ⟨0x22010008, [(0x100, 32)], 0x0, 0x0, 0x0, 0x0⟩ -- 03:R81
  | .SRT_IN_REPLAY_CNT => ⟨0x22010010, [(0x100, 32)], 0x0, 0x0, 0x0, 0x0⟩ -- 03:R82
  | .SRT_IN_NOKEY_CNT => ⟨0x22010018, [(0x100, 32)], 0x0, 0x0, 0x0, 0x0⟩ -- 03:R71
  | .SRT_IN_EXPIRED_CNT => ⟨0x22010020, [(0x100, 32)], 0x0, 0x0, 0x0, 0x0⟩ -- 03:R80
  | .SRT_OUT_PKT_CNT => ⟨0x22012000, [(0x100, 32)], 0x0, 0x0, 0x0, 0x0⟩ -- 03:R494
  | .SRT_OUT_OCT_CNT => ⟨0x22012008, [(0x100, 32)], 0x0, 0x0, 0x0, 0x0⟩ -- 03:R494
  | .SRT_OUT_NOKEY_CNT => ⟨0x22012010, [(0x100, 32)], 0x0, 0x0, 0x0, 0x0⟩ -- 03:R71
  | .SRT_OUT_EXPIRED_CNT => ⟨0x22012018, [(0x100, 32)], 0x0, 0x0, 0x0, 0x0⟩ -- 03:R80
  | .SRT_OUT_OVERSIZE_CNT => ⟨0x22012020, [(0x100, 32)], 0x0, 0x0, 0x0, 0x0⟩ -- 03:R88
  | .SRT_OUT_ABORT_CNT => ⟨0x22012028, [(0x100, 32)], 0x0, 0x0, 0x0, 0x0⟩ -- 03:R84
  | .SRT_OUT_MISMATCH_CNT => ⟨0x22012030, [(0x100, 32)], 0x0, 0x0, 0x0, 0x0⟩ -- 03:R90
  | .FWD_CMD => ⟨0x23000000, [], 0xf000fffff, 0x0, 0x0, 0x0⟩ -- 04:R131
  | .FWD_STATUS => ⟨0x23000008, [], 0x0, 0x0, 0x0, 0x0⟩ -- 04:R131
  | .FWD_DATA => ⟨0x23000040, [(0x8, 16)], 0xffffffffffffffff, 0x0, 0x0, 0x0⟩ -- 04:R131
  | .FWD_FB_CFG => ⟨0x23000100, [], 0x7, 0x0, 0x0, 0x0⟩ -- 04:R128
  | .FWD_STEER_A => ⟨0x23001000, [(0x10, 16)], 0xffffffffffffc00, 0x0, 0x0, 0x2ee000bb832000⟩ -- 04:R117
  | .FWD_STEER_B => ⟨0x23001008, [(0x10, 16)], 0xffffffffffffffff, 0x0, 0x0, 0x7d0040001000040⟩ -- 04:R117
  | .FWD_XMAP_LO => ⟨0x23001200, [(0x10, 16)], 0xcfcfcfcfcfcfcf, 0x0, 0x0, 0x0⟩ -- 04:R124
  | .FWD_XMAP_HI => ⟨0x23001208, [(0x10, 16)], 0xcfcfcfcfcfcfcf, 0x0, 0x0, 0x0⟩ -- 04:R124
  | .FWD_CPROF => ⟨0x23001400, [(0x8, 16)], 0xfffffffffe000fff, 0x0, 0x0, 0x0⟩ -- 04:R108
  | .FWD_IN_PKT_CNT => ⟨0x23008000, [(0x100, 8)], 0x0, 0x0, 0x0, 0x0⟩ -- 04:R98
  | .FWD_STALE_CNT => ⟨0x23008008, [(0x100, 8)], 0x0, 0x0, 0x0, 0x0⟩ -- 04:R101
  | .FWD_SCREEN_DROP_CNT => ⟨0x23008010, [(0x100, 8)], 0x0, 0x0, 0x0, 0x0⟩ -- 04:R108
  | .FWD_NODEST_CNT => ⟨0x23008018, [(0x100, 8)], 0x0, 0x0, 0x0, 0x0⟩ -- 04:R102
  | .FWD_CART_CNT => ⟨0x23008020, [(0x100, 8)], 0x0, 0x0, 0x0, 0x0⟩ -- 04:R108
  | .FWD_WQ_HOLD_CNT => ⟨0x23008028, [(0x100, 8)], 0x0, 0x0, 0x0, 0x0⟩ -- 04:R110
  | .FWD_WQ_DROP_CNT => ⟨0x23008030, [(0x100, 8)], 0x0, 0x0, 0x0, 0x0⟩ -- 04:R110
  | .FWD_KF_REQ_CNT => ⟨0x23008038, [(0x100, 8)], 0x0, 0x0, 0x0, 0x0⟩ -- 04:R127
  | .FWD_COPY_CNT => ⟨0x23009000, [(0x100, 8)], 0x0, 0x0, 0x0, 0x0⟩ -- 04:R98
  | .FWD_SEL_DROP_CNT => ⟨0x23009008, [(0x100, 8)], 0x0, 0x0, 0x0, 0x0⟩ -- 04:R120
  | .FWD_LATE_DROP_CNT => ⟨0x23009010, [(0x100, 8)], 0x0, 0x0, 0x0, 0x0⟩ -- 04:R121
  | .FWD_DOWN_CNT => ⟨0x23009018, [(0x100, 8)], 0x0, 0x0, 0x0, 0x0⟩ -- 04:R119
  | .FWD_UP_CNT => ⟨0x23009020, [(0x100, 8)], 0x0, 0x0, 0x0, 0x0⟩ -- 04:R120
  | .FWD_REPL_OVF_CNT => ⟨0x23009028, [(0x100, 8)], 0x0, 0x0, 0x0, 0x0⟩ -- 04:R99
  | .TM_CMD => ⟨0x24000000, [], 0xf0001ffff, 0x0, 0x0, 0x0⟩ -- 05:R137
  | .TM_STATUS => ⟨0x24000008, [], 0x0, 0x0, 0x0, 0x0⟩ -- 05:R137
  | .TM_DATA => ⟨0x24000040, [(0x8, 16)], 0xffffffffffffffff, 0x0, 0x0, 0x0⟩ -- 05:R137
  | .TM_LEN_PROF => ⟨0x24000400, [(0x8, 16)], 0xff, 0x0, 0x0, 0x0⟩ -- 05:R139
  | .TM_BUF_THR => ⟨0x24000500, [(0x8, 4)], 0x7ffff, 0x0, 0x0, 0x0⟩ -- 05:R152
  | .TM_BUF_OCC => ⟨0x24000520, [], 0x0, 0x0, 0x0, 0x0⟩ -- 05:R152
  | .TM_BUF_PEAK => ⟨0x24000528, [], 0x0, 0x0, 0x7ffff, 0x0⟩ -- 05:R152
  | .TM_BUF_DROP_CNT => ⟨0x24000540, [(0x8, 4)], 0x0, 0x0, 0x0, 0x0⟩ -- 05:R152
  | .TM_BUF_EXH_CNT => ⟨0x24000560, [], 0x0, 0x0, 0x0, 0x0⟩ -- 05:R154
  | .TM_PIPE_SHP_DROP_CNT => ⟨0x24000600, [(0x20, 8)], 0x0, 0x0, 0x0, 0x0⟩ -- 05:R140
  | .TM_PIPE_MISROUTE_CNT => ⟨0x24000608, [(0x20, 8)], 0x0, 0x0, 0x0, 0x0⟩ -- 05:R141
  | .TM_TXR_BASE => ⟨0x24030000, [(0x100, 16)], 0xffffffffffff, 0x0, 0x0, 0x0⟩ -- 05:R161
  | .TM_TXR_CFG => ⟨0x24030008, [(0x100, 16)], 0x3f03f0c01f, 0x0, 0x0, 0xc⟩ -- 05:R161
  | .TM_TXR_HEAD => ⟨0x24030010, [(0x100, 16)], 0x0, 0x0, 0x0, 0x0⟩ -- 05:R161
  | .TM_TXR_TAIL => ⟨0x24030018, [(0x100, 16)], 0xffff, 0x0, 0x0, 0x0⟩ -- 05:R161
  | .TM_TXR_DROP_CNT => ⟨0x24030020, [(0x100, 16)], 0x0, 0x0, 0x0, 0x0⟩ -- 05:R163
  | .TM_PORT_CFG => ⟨0x24100000, [(0x1000, 256)], 0xf, 0x0, 0x0, 0x0⟩ -- 05:R148
  | .TM_PQ_CFG => ⟨0x24100040, [(0x1000, 256), (0x8, 8)], 0xfffffffff0000, 0x0, 0x0, 0x100006000000⟩ -- 05:R147
  | .TM_Q_DEPTH => ⟨0x24100100, [(0x1000, 256), (0x20, 8)], 0x0, 0x0, 0x0, 0x0⟩ -- 05:R147
  | .TM_Q_TX_FRM_CNT => ⟨0x24100108, [(0x1000, 256), (0x20, 8)], 0x0, 0x0, 0x0, 0x0⟩ -- 05:R147
  | .TM_Q_TX_OCT_CNT => ⟨0x24100110, [(0x1000, 256), (0x20, 8)], 0x0, 0x0, 0x0, 0x0⟩ -- 05:R147
  | .TM_Q_DROP_CNT => ⟨0x24100118, [(0x1000, 256), (0x20, 8)], 0x0, 0x0, 0x0, 0x0⟩ -- 05:R140
  | .TM_PORT_TXDIS_CNT => ⟨0x24100200, [(0x1000, 256)], 0x0, 0x0, 0x0, 0x0⟩ -- 05:R150
  | .TM_PORT_GATE_DROP_CNT => ⟨0x24100208, [(0x1000, 256)], 0x0, 0x0, 0x0, 0x0⟩ -- 05:R160
  | .TM_PORT_GATE_OVR_CNT => ⟨0x24100210, [(0x1000, 256)], 0x0, 0x0, 0x0, 0x0⟩ -- 05:R160
  | .TM_GCL_CMD => ⟨0x24100400, [(0x1000, 256)], 0x300000000, 0x0, 0x0, 0x0⟩ -- 05:R156
  | .TM_GCL_BASE_SEC => ⟨0x24100408, [(0x1000, 256)], 0xffffffffffff, 0x0, 0x0, 0x0⟩ -- 05:R156
  | .TM_GCL_BASE_NS => ⟨0x24100410, [(0x1000, 256)], 0x3fffffff, 0x0, 0x0, 0x0⟩ -- 05:R156
  | .TM_GCL_CFG => ⟨0x24100418, [(0x1000, 256)], 0xffffffffff, 0x0, 0x0, 0x0⟩ -- 05:R156
  | .TM_GCL_STATUS => ⟨0x24100420, [(0x1000, 256)], 0x0, 0x0, 0x0, 0x0⟩ -- 05:R156
  | .TM_GCL_START_SEC => ⟨0x24100428, [(0x1000, 256)], 0x0, 0x0, 0x0, 0x0⟩ -- 05:R156
  | .TM_GCL_START_NS => ⟨0x24100430, [(0x1000, 256)], 0x0, 0x0, 0x0, 0x0⟩ -- 05:R156
  | .TM_GCL_ENTRY => ⟨0x24100c00, [(0x1000, 256), (0x8, 128)], 0xffffffff, 0x0, 0x0, 0x0⟩ -- 05:R158
  | .WD_CFG => ⟨0x25000000, [], 0x3ffff03f1, 0x0, 0x0, 0x40000000⟩ -- 06:R171
  | .WD_STORE_FREE => ⟨0x25000008, [], 0x0, 0x0, 0x0, 0x4000⟩ -- 06:R171
  | .WD_SEQ_NEXT => ⟨0x25000010, [], 0x0, 0x0, 0x0, 0x0⟩ -- 06:R174
  | .WD_CMD => ⟨0x25000020, [], 0xf0000ffff, 0x0, 0x0, 0x0⟩ -- 06:R198
  | .WD_STATUS => ⟨0x25000028, [], 0x0, 0x0, 0x0, 0x0⟩ -- 06:R198
  | .WD_DATA => ⟨0x25000040, [(0x8, 4)], 0xffffffffffffffff, 0x0, 0x0, 0x0⟩ -- 06:R198
  | .WD_LOCK_STATUS => ⟨0x25000100, [], 0x0, 0x0, 0x0, 0x0⟩ -- 06:R201
  | .WD_LOCK_CMD => ⟨0x25000108, [], 0x0, 0x0, 0x0, 0x0⟩ -- 06:R203
  | .WD_POOL_CFG => ⟨0x25000400, [(0x10, 16)], 0x3, 0x0, 0x0, 0x0⟩ -- 06:R185
  | .WD_POOL_MASK => ⟨0x25000408, [(0x10, 16)], 0xffffffffffffffff, 0x0, 0x0, 0x0⟩ -- 06:R185
  | .WD_POOL_WGT => ⟨0x25000600, [(0x8, 16)], 0xffffffffffffffff, 0x0, 0x0, 0x101010101010101⟩ -- 06:R185
  | .WD_ACCEPT_CNT => ⟨0x25000800, [], 0x0, 0x0, 0x0, 0x0⟩ -- 06:R174
  | .WD_DISPATCH_CNT => ⟨0x25000808, [], 0x0, 0x0, 0x0, 0x0⟩ -- 06:R182
  | .WD_RESUME_CNT => ⟨0x25000810, [], 0x0, 0x0, 0x0, 0x0⟩ -- 06:R180
  | .WD_PREEMPT_CNT => ⟨0x25000818, [], 0x0, 0x0, 0x0, 0x0⟩ -- 06:R186
  | .WD_FAULT_CNT => ⟨0x25000820, [], 0x0, 0x0, 0x0, 0x0⟩ -- 06:R188
  | .WD_CANCEL_CNT => ⟨0x25000828, [], 0x0, 0x0, 0x0, 0x0⟩ -- 06:R199
  | .WD_EXPIRE_CNT => ⟨0x25000830, [], 0x0, 0x0, 0x0, 0x0⟩ -- 06:R195
  | .WD_SW_BUSY_CNT => ⟨0x25000838, [], 0x0, 0x0, 0x0, 0x0⟩ -- 06:R171
  | .WD_HW_HOLD_CNT => ⟨0x25000840, [], 0x0, 0x0, 0x0, 0x0⟩ -- 06:R169
  | .WD_HW_BAD_CNT => ⟨0x25000848, [], 0x0, 0x0, 0x0, 0x0⟩ -- 06:R173
  | .WD_MISMATCH_CNT => ⟨0x25000850, [], 0x0, 0x0, 0x0, 0x0⟩ -- 06:R201
  | .WD_SWAP_CNT => ⟨0x25000858, [], 0x0, 0x0, 0x0, 0x0⟩ -- 06:R203
  | .WD_SUB_DATA => ⟨0x25010000, [(0x100, 8), (0x8, 8)], 0xffffffffffffffff, 0x0, 0x0, 0x0⟩ -- 06:R197
  | .WD_SUB_GO => ⟨0x25010040, [(0x100, 8)], 0x0, 0x0, 0x0, 0x0⟩ -- 06:R197
  | .WD_SUB_RESULT => ⟨0x25010048, [(0x100, 8)], 0x0, 0x0, 0x0, 0x0⟩ -- 06:R197
  | .PEA_CORE_CFG => ⟨0x26000000, [(0x80000, 32), (0x1000, 16)], 0x1, 0x0, 0x0, 0x0⟩ -- 07:R237
  | .PEA_CORE_STATE => ⟨0x26000008, [(0x80000, 32), (0x1000, 16)], 0x0, 0x0, 0x0, 0x0⟩ -- 07:R237
  | .PEA_CORE_BUSY_CNT => ⟨0x26000010, [(0x80000, 32), (0x1000, 16)], 0x0, 0x0, 0x0, 0x0⟩ -- 07:R221
  | .PEA_CORE_STALL_CNT => ⟨0x26000018, [(0x80000, 32), (0x1000, 16)], 0x0, 0x0, 0x0, 0x0⟩ -- 07:R221
  | .PEA_CORE_EXC_CNT => ⟨0x26000020, [(0x80000, 32), (0x1000, 16)], 0x0, 0x0, 0x0, 0x0⟩ -- 07:R228
  | .PEA_CORE_ECC_CNT => ⟨0x26000028, [(0x80000, 32), (0x1000, 16)], 0x0, 0x0, 0x0, 0x0⟩ -- 07:R204
  | .PEA_POD_CFG => ⟨0x26040000, [(0x80000, 32)], 0x3f, 0x0, 0x0, 0x0⟩ -- 07:R238
  | .PEA_POD_MEM_ADDR => ⟨0x26040010, [(0x80000, 32)], 0xffff0f03000ffff8, 0x0, 0x0, 0x0⟩ -- 07:R239
  | .PEA_POD_MEM_DATA => ⟨0x26040018, [(0x80000, 32)], 0xffffffffffffffff, 0x0, 0x0, 0x0⟩ -- 07:R239
  | .PEA_POD_MEM_STATUS => ⟨0x26040020, [(0x80000, 32)], 0x0, 0x0, 0x0, 0x0⟩ -- 07:R239
  | .PEA_POD_DMA_OCT_CNT => ⟨0x26040100, [(0x80000, 32)], 0x0, 0x0, 0x0, 0x0⟩ -- 07:R232
  | .PEA_POD_SUBMIT_HOLD_CNT => ⟨0x26040108, [(0x80000, 32)], 0x0, 0x0, 0x0, 0x0⟩ -- 07:R226
  | .PEA_POD_INJ_HOLD_CNT => ⟨0x26040110, [(0x80000, 32)], 0x0, 0x0, 0x0, 0x0⟩ -- 07:R233
  | .PEA_POD_BANK_STALL_CNT => ⟨0x26040118, [(0x80000, 32)], 0x0, 0x0, 0x0, 0x0⟩ -- 07:R209
  | .MIX_CFG => ⟨0x27000000, [], 0xffff, 0x0, 0x0, 0x0⟩ -- 09:R299
  | .MIX_BLOCK => ⟨0x27000008, [], 0x0, 0x0, 0x0, 0x0⟩ -- 09:R269
  | .MIX_SMEM_ADDR => ⟨0x27000010, [], 0xfffff, 0x0, 0x0, 0x0⟩ -- 09:R274
  | .MIX_SMEM_DATA => ⟨0x27000018, [], 0xffffffff, 0x0, 0x0, 0x0⟩ -- 09:R274
  | .MIX_ENG_CTL => ⟨0x27010000, [(0x10000, 8)], 0x1, 0x0, 0x0, 0x0⟩ -- 09:R300
  | .MIX_ENG_STATUS => ⟨0x27010008, [(0x10000, 8)], 0x0, 0x0, 0x0, 0x0⟩ -- 09:R293
  | .MIX_ENG_LOAD_ADDR => ⟨0x27010010, [(0x10000, 8)], 0x7fff, 0x0, 0x0, 0x0⟩ -- 09:R293
  | .MIX_ENG_LOAD_DATA => ⟨0x27010018, [(0x10000, 8)], 0xffffffffffffffff, 0x0, 0x0, 0x0⟩ -- 09:R293
  | .MIX_ENG_SWAP_IDX => ⟨0x27010020, [(0x10000, 8)], 0xffffffffffffffff, 0x0, 0x0, 0x0⟩ -- 09:R294
  | .MIX_ENG_CMD => ⟨0x27010028, [(0x10000, 8)], 0xf00000000, 0x0, 0x0, 0x0⟩ -- 09:R294
  | .MIX_ENG_CMD_STATUS => ⟨0x27010030, [(0x10000, 8)], 0x0, 0x0, 0x0, 0x0⟩ -- 09:R294
  | .MIX_ENG_START_BLK => ⟨0x27010038, [(0x10000, 8)], 0x0, 0x0, 0x0, 0x0⟩ -- 09:R294
  | .MIX_ENG_BLK_CNT => ⟨0x27010100, [(0x10000, 8)], 0x0, 0x0, 0x0, 0x0⟩ -- 09:R298
  | .MIX_ENG_OVR_CNT => ⟨0x27010108, [(0x10000, 8)], 0x0, 0x0, 0x0, 0x0⟩ -- 09:R298
  | .MIX_ENG_SKIP_CNT => ⟨0x27010110, [(0x10000, 8)], 0x0, 0x0, 0x0, 0x0⟩ -- 09:R298
  | .MIX_ENG_STALE_CNT => ⟨0x27010118, [(0x10000, 8)], 0x0, 0x0, 0x0, 0x0⟩ -- 09:R275
  | .MIX_ENG_SAT_CNT => ⟨0x27010120, [(0x10000, 8)], 0x0, 0x0, 0x0, 0x0⟩ -- 09:R277
  | .MIX_ENG_CART_CNT => ⟨0x27010128, [(0x10000, 8)], 0x0, 0x0, 0x0, 0x0⟩ -- 09:R289
  | .MIX_ENG_CART_DROP_CNT => ⟨0x27010130, [(0x10000, 8)], 0x0, 0x0, 0x0, 0x0⟩ -- 09:R289
  | .MIX_ENG_SPL_DROP_CNT => ⟨0x27010138, [(0x10000, 8)], 0x0, 0x0, 0x0, 0x0⟩ -- 09:R287
  | .MIX_ENG_SPL_FAULT_CNT => ⟨0x27010140, [(0x10000, 8)], 0x0, 0x0, 0x0, 0x0⟩ -- 09:R288
  | .MIX_ENG_STALL_CNT => ⟨0x27010148, [(0x10000, 8)], 0x0, 0x0, 0x0, 0x0⟩ -- 09:R286
  | .MIX_ENG_CYC_MAX => ⟨0x27010150, [(0x10000, 8)], 0x0, 0x0, 0x1fffff, 0x0⟩ -- 09:R286
  | .MIX_ENG_PARAM => ⟨0x27018000, [(0x10000, 8), (0x8, 4096)], 0xffff, 0x0, 0x0, 0x0⟩ -- 09:R297
  | .VDEC_CFG => ⟨0x28000000, [], 0xfff, 0x0, 0x0, 0x0⟩ -- 10:R328
  | .VDEC_STBL => ⟨0x28000008, [], 0x1fffffffffffff, 0x0, 0x0, 0x0⟩ -- 10:R328
  | .VDEC_ENG_STATUS => ⟨0x28010000, [(0x100, 64)], 0x0, 0x0, 0x0, 0x0⟩ -- 10:R328
  | .VDEC_ENG_PKT_CNT => ⟨0x28010008, [(0x100, 64)], 0x0, 0x0, 0x0, 0x0⟩ -- 10:R309
  | .VDEC_ENG_PUB_CNT => ⟨0x28010010, [(0x100, 64)], 0x0, 0x0, 0x0, 0x0⟩ -- 10:R308
  | .VDEC_ENG_PIX_CNT => ⟨0x28010018, [(0x100, 64)], 0x0, 0x0, 0x0, 0x0⟩ -- 10:R308
  | .VDEC_ENG_LOST_CNT => ⟨0x28010020, [(0x100, 64)], 0x0, 0x0, 0x0, 0x0⟩ -- 10:R314
  | .VDEC_ENG_LATE_CNT => ⟨0x28010028, [(0x100, 64)], 0x0, 0x0, 0x0, 0x0⟩ -- 10:R312
  | .VDEC_ENG_ERR_CNT => ⟨0x28010030, [(0x100, 64)], 0x0, 0x0, 0x0, 0x0⟩ -- 10:R316
  | .VENC_CFG => ⟨0x29000000, [], 0x3f, 0x0, 0x0, 0x0⟩ -- 10:R328
  | .VENC_LTBL => ⟨0x29000008, [], 0xffffffffffff, 0x0, 0x0, 0x0⟩ -- 10:R328
  | .VENC_KF_CMD => ⟨0x29000010, [], 0x0, 0x0, 0x0, 0x0⟩ -- 10:R323
  | .VENC_ENG_STATUS => ⟨0x29010000, [(0x1000, 32)], 0x0, 0x0, 0x0, 0x0⟩ -- 10:R328
  | .VENC_ENG_FRM_CNT => ⟨0x29010008, [(0x1000, 32)], 0x0, 0x0, 0x0, 0x0⟩ -- 10:R322
  | .VENC_ENG_PIX_CNT => ⟨0x29010010, [(0x1000, 32)], 0x0, 0x0, 0x0, 0x0⟩ -- 10:R322
  | .VENC_ENG_PKT_CNT => ⟨0x29010018, [(0x1000, 32)], 0x0, 0x0, 0x0, 0x0⟩ -- 10:R326
  | .VENC_ENG_DISC_CNT => ⟨0x29010020, [(0x1000, 32)], 0x0, 0x0, 0x0, 0x0⟩ -- 10:R322
  | .VENC_ENG_HOLD_CNT => ⟨0x29010028, [(0x1000, 32)], 0x0, 0x0, 0x0, 0x0⟩ -- 10:R326
  | .VENC_HINT => ⟨0x29010800, [(0x1000, 32), (0x8, 256)], 0x0, 0x0, 0x0, 0x0⟩ -- 10:R323
  | .CMP_CFG => ⟨0x2a000000, [], 0x3f, 0x0, 0x0, 0x0⟩ -- 11:R350
  | .CMP_LTBL => ⟨0x2a000008, [], 0x1fffffffffffff, 0x0, 0x0, 0x0⟩ -- 11:R350
  | .CMP_COEF_ADDR => ⟨0x2a000010, [], 0xfff, 0x0, 0x0, 0x0⟩ -- 11:R350
  | .CMP_COEF_DATA => ⟨0x2a000018, [], 0xffffffffffffffff, 0x0, 0x0, 0x0⟩ -- 11:R350
  | .CMP_COEF_STATUS => ⟨0x2a000020, [], 0x0, 0x1, 0x0, 0x0⟩ -- 11:R350
  | .CMP_ENG_STATUS => ⟨0x2a010000, [(0x100, 16)], 0x0, 0x0, 0x0, 0x0⟩ -- 11:R350
  | .CMP_ENG_FRM_CNT => ⟨0x2a010008, [(0x100, 16)], 0x0, 0x0, 0x0, 0x0⟩ -- 11:R342
  | .CMP_ENG_PIX_CNT => ⟨0x2a010010, [(0x100, 16)], 0x0, 0x0, 0x0, 0x0⟩ -- 11:R342
  | .CMP_ENG_NOTREADY_CNT => ⟨0x2a010018, [(0x100, 16)], 0x0, 0x0, 0x0, 0x0⟩ -- 11:R335
  | .CMP_ENG_TORN_CNT => ⟨0x2a010020, [(0x100, 16)], 0x0, 0x0, 0x0, 0x0⟩ -- 11:R336
  | .CMP_ENG_SIGFAIL_CNT => ⟨0x2a010028, [(0x100, 16)], 0x0, 0x0, 0x0, 0x0⟩ -- 11:R346
  | .CMP_ENG_WITHHELD_CNT => ⟨0x2a010030, [(0x100, 16)], 0x0, 0x0, 0x0, 0x0⟩ -- 11:R347
  | .CMP_ENG_ERR_CNT => ⟨0x2a010038, [(0x100, 16)], 0x0, 0x0, 0x0, 0x0⟩ -- 11:R344
  | .CMP_ENG_CYC_MAX => ⟨0x2a010040, [(0x100, 16)], 0x0, 0x0, 0xffffffff, 0x0⟩ -- 11:R349
  | .HBM_CTL => ⟨0x2b000000, [], 0x1, 0x0, 0x0, 0x0⟩ -- 12:R352
  | .HBM_PC_MASK => ⟨0x2b000008, [], 0xffffffffffffffff, 0x0, 0x0, 0x0⟩ -- 12:R352
  | .HBM_STATUS => ⟨0x2b000010, [], 0x0, 0x0, 0x0, 0x0⟩ -- 12:R352
  | .HBM_PC_OFFLINE => ⟨0x2b000018, [], 0x0, 0x0, 0x0, 0x0⟩ -- 12:R368
  | .HBM_BOOT_FAIL => ⟨0x2b000020, [], 0x0, 0x0, 0x0, 0x0⟩ -- 12:R369
  | .HBM_PORT_CFG => ⟨0x2b000100, [(0x8, 12)], 0x3030000ffff, 0x0, 0x0, 0x0⟩ -- 12:R354
  | .HBM_REF_CFG => ⟨0x2b000200, [], 0xf, 0x0, 0x0, 0x4⟩ -- 12:R364
  | .HBM_SCRUB_CFG => ⟨0x2b000208, [], 0xffff, 0x0, 0x0, 0x18⟩ -- 12:R361
  | .HBM_TRN_CMD => ⟨0x2b000400, [], 0xf0000003f, 0x0, 0x0, 0x0⟩ -- 12:R365
  | .HBM_TRN_CFG => ⟨0x2b000408, [], 0xffffffffffffffff, 0x0, 0x0, 0x0⟩ -- 12:R365
  | .HBM_TRN_STATUS => ⟨0x2b000410, [], 0x0, 0x0, 0x0, 0x0⟩ -- 12:R365
  | .HBM_PORT_RD_CNT => ⟨0x2b000800, [(0x20, 12)], 0x0, 0x0, 0x0, 0x0⟩ -- 12:R355
  | .HBM_PORT_WR_CNT => ⟨0x2b000808, [(0x20, 12)], 0x0, 0x0, 0x0, 0x0⟩ -- 12:R355
  | .HBM_PORT_LATE_CNT => ⟨0x2b000810, [(0x20, 12)], 0x0, 0x0, 0x0, 0x0⟩ -- 12:R355
  | .HBM_PORT_HOLD_CNT => ⟨0x2b000818, [(0x20, 12)], 0x0, 0x0, 0x0, 0x0⟩ -- 12:R354
  | .HBM_PC_STATE => ⟨0x2b010000, [(0x400, 64)], 0x0, 0x0, 0x0, 0x0⟩ -- 12:R353
  | .HBM_PC_REPAIR => ⟨0x2b010008, [(0x400, 64)], 0xbfbf, 0x0, 0x0, 0x0⟩ -- 12:R365
  | .HBM_PC_RD_CNT => ⟨0x2b010020, [(0x400, 64)], 0x0, 0x0, 0x0, 0x0⟩ -- 12:R361
  | .HBM_PC_WR_CNT => ⟨0x2b010028, [(0x400, 64)], 0x0, 0x0, 0x0, 0x0⟩ -- 12:R361
  | .HBM_PC_CE_CNT => ⟨0x2b010030, [(0x400, 64)], 0x0, 0x0, 0x0, 0x0⟩ -- 12:R361
  | .HBM_PC_UE_CNT => ⟨0x2b010038, [(0x400, 64)], 0x0, 0x0, 0x0, 0x0⟩ -- 12:R362
  | .HBM_PC_RETRAIN_CNT => ⟨0x2b010040, [(0x400, 64)], 0x0, 0x0, 0x0, 0x0⟩ -- 12:R367
  | .HBM_PC_REF_OWED_MAX => ⟨0x2b010048, [(0x400, 64)], 0x0, 0x0, 0xf, 0x0⟩ -- 12:R364
  | .HBM_PC_DLY => ⟨0x2b010200, [(0x400, 64), (0x8, 38)], 0x3fffff, 0x0, 0x0, 0x208080⟩ -- 12:R365
  | .HBM_DMA_SRC => ⟨0x2b020000, [(0x40, 16)], 0xffffffffffffffff, 0x0, 0x0, 0x0⟩ -- 12:R378
  | .HBM_DMA_DST => ⟨0x2b020008, [(0x40, 16)], 0xffffffffffff, 0x0, 0x0, 0x0⟩ -- 12:R378
  | .HBM_DMA_LEN => ⟨0x2b020010, [(0x40, 16)], 0xfffffffff, 0x0, 0x0, 0x0⟩ -- 12:R378
  | .HBM_DMA_CFG => ⟨0x2b020018, [(0x40, 16)], 0xfffb, 0x0, 0x0, 0x0⟩ -- 12:R378
  | .HBM_DMA_CMD => ⟨0x2b020020, [(0x40, 16)], 0x0, 0x0, 0x0, 0x0⟩ -- 12:R378
  | .HBM_DMA_STATUS => ⟨0x2b020028, [(0x40, 16)], 0x0, 0x0, 0x0, 0x0⟩ -- 12:R378
  | .IOM_CMD => ⟨0x2c000000, [], 0xf0000003f, 0x0, 0x0, 0x0⟩ -- 12:R374
  | .IOM_CMD_IOVA => ⟨0x2c000008, [], 0xfffffffff000, 0x0, 0x0, 0x0⟩ -- 12:R374
  | .IOM_CMD_PAGES => ⟨0x2c000010, [], 0xfffffffff, 0x0, 0x0, 0x0⟩ -- 12:R374
  | .IOM_WALK_CNT => ⟨0x2c000100, [], 0x0, 0x0, 0x0, 0x0⟩ -- 12:R372
  | .IOM_FAULT_CNT => ⟨0x2c000108, [], 0x0, 0x0, 0x0, 0x0⟩ -- 12:R375
  | .IOM_DOM_CFG => ⟨0x2c010000, [(0x100, 64)], 0x80003ffffffff3f1, 0x0, 0x0, 0x0⟩ -- 12:R372
  | .IOM_FQ_COUNT => ⟨0x2c010008, [(0x100, 64)], 0x0, 0x0, 0x0, 0x0⟩ -- 12:R376
  | .IOM_FQ_LOST_CNT => ⟨0x2c010010, [(0x100, 64)], 0x0, 0x0, 0x0, 0x0⟩ -- 12:R376
  | .IOM_FQ_POP => ⟨0x2c010018, [(0x100, 64)], 0x0, 0x0, 0x0, 0x0⟩ -- 12:R376
  | .IOM_FQ_REC => ⟨0x2c010020, [(0x100, 64), (0x8, 4)], 0x0, 0x0, 0x0, 0x0⟩ -- 12:R376
  | .TIM_XSNAP => ⟨0x2d000000, [], 0x0, 0x0, 0x0, 0x0⟩ -- 13:R389
  | .TIM_XSNAP_SEC => ⟨0x2d000100, [(0x10, 8)], 0x0, 0x0, 0x0, 0x0⟩ -- 13:R389
  | .TIM_XSNAP_NS => ⟨0x2d000108, [(0x10, 8)], 0x0, 0x0, 0x0, 0x0⟩ -- 13:R389
  | .TIM_TB_CFG => ⟨0x2d001000, [(0x100, 8)], 0x7ff77f, 0x0, 0x0, 0x6000⟩ -- 13:R384
  | .TIM_TB_RATE => ⟨0x2d001008, [(0x100, 8)], 0xffffffffff, 0x0, 0x0, 0x0⟩ -- 13:R384
  | .TIM_TB_SET_SEC => ⟨0x2d001010, [(0x100, 8)], 0xffffffffffff, 0x0, 0x0, 0x0⟩ -- 13:R385
  | .TIM_TB_SET_NS => ⟨0x2d001018, [(0x100, 8)], 0xffffffffffff, 0x0, 0x0, 0x0⟩ -- 13:R385
  | .TIM_TB_CMD => ⟨0x2d001020, [(0x100, 8)], 0xf00000000, 0x0, 0x0, 0x0⟩ -- 13:R385
  | .TIM_TB_STATUS => ⟨0x2d001028, [(0x100, 8)], 0x0, 0x0, 0x0, 0x0⟩ -- 13:R385
  | .TIM_TB_NOW_SEC => ⟨0x2d001030, [(0x100, 8)], 0x0, 0x0, 0x0, 0x0⟩ -- 13:R388
  | .TIM_TB_NOW_NS => ⟨0x2d001038, [(0x100, 8)], 0x0, 0x0, 0x0, 0x0⟩ -- 13:R388
  | .TIM_TB_SLEW_OFF => ⟨0x2d001040, [(0x100, 8)], 0xffffffffffff, 0x0, 0x0, 0x0⟩ -- 13:R387
  | .TIM_TB_SLEW_RATE => ⟨0x2d001048, [(0x100, 8)], 0x7fffffffff, 0x0, 0x0, 0x100000000⟩ -- 13:R387
  | .TIM_TB_SRC_LOST_CNT => ⟨0x2d001050, [(0x100, 8)], 0x0, 0x0, 0x0, 0x0⟩ -- 13:R383
  | .TIM_IN_CFG => ⟨0x2d004000, [(0x40, 18)], 0xffc3ffffffff, 0x0, 0x0, 0x100000000⟩ -- 13:R397
  | .TIM_IN_LAST_SEC => ⟨0x2d004008, [(0x40, 18)], 0x0, 0x0, 0x0, 0x0⟩ -- 13:R397
  | .TIM_IN_LAST_NS => ⟨0x2d004010, [(0x40, 18)], 0x0, 0x0, 0x0, 0x0⟩ -- 13:R397
  | .TIM_IN_EVT_CNT => ⟨0x2d004018, [(0x40, 18)], 0x0, 0x0, 0x0, 0x0⟩ -- 13:R397
  | .TIM_IN_IGN_CNT => ⟨0x2d004020, [(0x40, 18)], 0x0, 0x0, 0x0, 0x0⟩ -- 13:R397
  | .TIM_IN_STATUS => ⟨0x2d004028, [(0x40, 18)], 0x0, 0x0, 0x0, 0x0⟩ -- 13:R398
  | .TIM_OUT_CFG => ⟨0x2d006000, [(0x40, 3)], 0xffffffff, 0x0, 0x0, 0x0⟩ -- 13:R399
  | .TIM_OUT_START_SEC => ⟨0x2d006008, [(0x40, 3)], 0xffffffffffff, 0x0, 0x0, 0x0⟩ -- 13:R399
  | .TIM_OUT_START_NS => ⟨0x2d006010, [(0x40, 3)], 0x3fffffff, 0x0, 0x0, 0x0⟩ -- 13:R399
  | .TIM_OUT_PERIOD => ⟨0x2d006018, [(0x40, 3)], 0xffffffffffff, 0x0, 0x0, 0x0⟩ -- 13:R399
  | .TIM_PORT_CORR => ⟨0x2d010000, [(0x40, 256)], 0xffffffffffffffff, 0x0, 0x0, 0x0⟩ -- 13:R390
  | .TIM_TXQ_CFG => ⟨0x2d010008, [(0x40, 256)], 0xbf, 0x0, 0x0, 0x0⟩ -- 13:R391
  | .TIM_TXQ_STATUS => ⟨0x2d010010, [(0x40, 256)], 0x0, 0x0, 0x0, 0x0⟩ -- 13:R391
  | .TIM_TXQ_HEAD0 => ⟨0x2d010018, [(0x40, 256)], 0x0, 0x0, 0x0, 0x0⟩ -- 13:R391
  | .TIM_TXQ_HEAD1 => ⟨0x2d010020, [(0x40, 256)], 0x0, 0x0, 0x0, 0x0⟩ -- 13:R391
  | .TIM_TXQ_POP => ⟨0x2d010028, [(0x40, 256)], 0x0, 0x0, 0x0, 0x0⟩ -- 13:R393
  | .TIM_TXQ_OVF_CNT => ⟨0x2d010030, [(0x40, 256)], 0x0, 0x0, 0x0, 0x0⟩ -- 13:R393
  | .TIM_ONESTEP_SKIP_CNT => ⟨0x2d010038, [(0x40, 256)], 0x0, 0x0, 0x0, 0x0⟩ -- 13:R395
  | .ERR_CFG => ⟨0x2e000000, [], 0xffff00000707, 0x0, 0x0, 0x0⟩ -- 16:R458
  | .ERR_STATUS => ⟨0x2e000008, [], 0x0, 0x7, 0x0, 0x0⟩ -- 16:R456
  | .ERR_SLOT_W => ⟨0x2e000100, [(0x20, 4), (0x8, 4)], 0x0, 0x0, 0x0, 0x0⟩ -- 16:R455
  | .ERR_LOG_COUNT => ⟨0x2e000200, [(0x8, 4)], 0x0, 0x0, 0x0, 0x0⟩ -- 16:R457
  | .ERR_LOG_POP => ⟨0x2e000220, [], 0x0, 0x0, 0x0, 0x0⟩ -- 16:R457
  | .ERR_LOG_HEAD_W => ⟨0x2e000300, [(0x20, 4), (0x8, 4)], 0x0, 0x0, 0x0, 0x0⟩ -- 16:R457
  | .ERR_LOG_OVF_CNT => ⟨0x2e000400, [(0x8, 4)], 0x0, 0x0, 0x0, 0x0⟩ -- 16:R457
  | .ERR_CLASS_CNT => ⟨0x2e000420, [(0x8, 4)], 0x0, 0x0, 0x0, 0x0⟩ -- 16:R455
  | .ERR_INJECT => ⟨0x2e000500, [], 0xfff000000ffff, 0x0, 0x0, 0x0⟩ -- 16:R462
  | .ERR_INJECT_INFO => ⟨0x2e000508, [], 0xffffffffffffffff, 0x0, 0x0, 0x0⟩ -- 16:R462
  | .ERR_TRACE_COUNT => ⟨0x2e000600, [], 0x0, 0x0, 0x0, 0x0⟩ -- 16:R464
  | .ERR_TRACE_LOST_CNT => ⟨0x2e000608, [], 0x0, 0x0, 0x0, 0x0⟩ -- 16:R464
  | .ERR_TRACE_RD_ADDR => ⟨0x2e000610, [], 0x1ffff, 0x0, 0x0, 0x0⟩ -- 16:R464
  | .ERR_TRACE_RD_DATA => ⟨0x2e000618, [], 0x0, 0x0, 0x0, 0x0⟩ -- 16:R463
  | .ERR_TRACE_WR => ⟨0x2e000620, [(0x8, 4)], 0xffffffffffffffff, 0x0, 0x0, 0x0⟩ -- 16:R464
  | .ERR_THERM_CFG => ⟨0x2e000700, [], 0xffffff0f, 0x0, 0x0, 0x706c6702⟩ -- 16:R469
  | .ERR_THERM_STATUS => ⟨0x2e000708, [], 0x0, 0x0, 0x0, 0x800⟩ -- 16:R469
  | .ERR_THERM_CNT => ⟨0x2e000710, [], 0x0, 0x0, 0x0, 0x0⟩ -- 16:R469
  | .ERR_LIFE_ACC => ⟨0x2e000718, [], 0x0, 0x0, 0x0, 0x0⟩ -- 16:R470
  | .CTL_ID => ⟨0x2f000000, [], 0x0, 0x0, 0x0, 0x92560000⟩ -- 14:R405
  | .CTL_MSIP => ⟨0x2f001000, [(0x8, 8)], 0x1, 0x0, 0x0, 0x0⟩ -- 14:R405
  | .CTL_MTIMECMP => ⟨0x2f002000, [(0x8, 8)], 0xffffffffffffffff, 0x0, 0x0, 0xffffffffffffffff⟩ -- 14:R405
  | .CTL_MTIME => ⟨0x2f003000, [], 0x0, 0x0, 0x0, 0x0⟩ -- 14:R405
  | .CTL_EXT_M => ⟨0x2f004000, [(0x10, 8)], 0x0, 0x0, 0x0, 0x0⟩ -- 14:R405
  | .CTL_EXT_S => ⟨0x2f004008, [(0x10, 8)], 0x0, 0x0, 0x0, 0x0⟩ -- 14:R405
  | .CTL_MGT_CFG => ⟨0x2f030000, [], 0xfc0f, 0x0, 0x0, 0x4⟩ -- 14:R418
  | .CTL_MGT_STATUS => ⟨0x2f030008, [], 0x0, 0x0, 0x0, 0x0⟩ -- 14:R416
  | .CTL_MGT_MAC => ⟨0x2f030010, [], 0xffffffffffff, 0x0, 0x0, 0x0⟩ -- 14:R417
  | .CTL_MGT_RX_BASE => ⟨0x2f030100, [], 0x3ffffffff000, 0x0, 0x0, 0x0⟩ -- 14:R418
  | .CTL_MGT_RX_CFG => ⟨0x2f030108, [], 0xff01f, 0x0, 0x0, 0x800c⟩ -- 14:R418
  | .CTL_MGT_RX_HEAD => ⟨0x2f030110, [], 0x0, 0x0, 0x0, 0x0⟩ -- 14:R418
  | .CTL_MGT_RX_TAIL => ⟨0x2f030118, [], 0xffff, 0x0, 0x0, 0x0⟩ -- 14:R418
  | .CTL_MGT_TX_BASE => ⟨0x2f030200, [], 0x3ffffffff000, 0x0, 0x0, 0x0⟩ -- 14:R418
  | .CTL_MGT_TX_CFG => ⟨0x2f030208, [], 0x1f, 0x0, 0x0, 0xc⟩ -- 14:R418
  | .CTL_MGT_TX_HEAD => ⟨0x2f030210, [], 0x0, 0x0, 0x0, 0x0⟩ -- 14:R418
  | .CTL_MGT_TX_TAIL => ⟨0x2f030218, [], 0xffff, 0x0, 0x0, 0x0⟩ -- 14:R418
  | .CTL_MGT_RX_FRM_CNT => ⟨0x2f030300, [], 0x0, 0x0, 0x0, 0x0⟩ -- 14:R418
  | .CTL_MGT_RX_OVF_CNT => ⟨0x2f030308, [], 0x0, 0x0, 0x0, 0x0⟩ -- 14:R418
  | .CTL_MGT_RX_ERR_CNT => ⟨0x2f030310, [], 0x0, 0x0, 0x0, 0x0⟩ -- 14:R418
  | .CTL_MGT_RX_DISCARD_CNT => ⟨0x2f030318, [], 0x0, 0x0, 0x0, 0x0⟩ -- 14:R418
  | .CTL_MGT_TX_FRM_CNT => ⟨0x2f030320, [], 0x0, 0x0, 0x0, 0x0⟩ -- 14:R418
  | .CTL_MDIO_CMD => ⟨0x2f030400, [], 0x31f1fffff, 0x0, 0x0, 0x0⟩ -- 14:R416
  | .CTL_MDIO_DATA => ⟨0x2f030408, [], 0x0, 0x0, 0x0, 0x0⟩ -- 14:R416
  | .CTL_MDIO_CFG => ⟨0x2f030410, [], 0xff, 0x0, 0x0, 0x18⟩ -- 14:R416
  | .CTL_RYU_CFG => ⟨0x2f040000, [], 0x7, 0x0, 0x0, 0x0⟩ -- 14:R419
  | .CTL_RYU_PEND => ⟨0x2f040008, [], 0x0, 0xff, 0x0, 0x0⟩ -- 14:R419
  | .CTL_RESET => ⟨0x2f040010, [], 0x0, 0x0, 0x0, 0x0⟩ -- 16:R465
  | .CTL_RYU_DOORBELL => ⟨0x2f041000, [], 0x0, 0x0, 0x0, 0x0⟩ -- 14:R419
  | .CTL_EVQ_CFG => ⟨0x2f100000, [(0x1000, 64)], 0xffc03ffffffffff0, 0x0, 0x0, 0x1000000000000000⟩ -- 14:R406
  | .CTL_EVQ_STATUS => ⟨0x2f100008, [(0x1000, 64)], 0x0, 0x0, 0x0, 0x0⟩ -- 14:R409
  | .CTL_EVQ_HEAD => ⟨0x2f100010, [(0x1000, 64)], 0x0, 0x0, 0x0, 0x0⟩ -- 14:R411
  | .CTL_EVQ_CMD => ⟨0x2f100018, [(0x1000, 64)], 0x0, 0x0, 0x0, 0x0⟩ -- 14:R415
  | .CTL_EVQ_NOTICE => ⟨0x2f100020, [(0x1000, 64)], 0x0, 0x1, 0x0, 0x0⟩ -- 14:R414
  | .CTL_EVQ_ITEM_CNT => ⟨0x2f100028, [(0x1000, 64)], 0x0, 0x0, 0x0, 0x0⟩ -- 14:R409
  | .CTL_EVQ_LOST_CNT => ⟨0x2f100030, [(0x1000, 64)], 0x0, 0x0, 0x0, 0x0⟩ -- 14:R410
  | .CTL_EVQ_FLUSH_PARTIAL_CNT => ⟨0x2f100038, [(0x1000, 64)], 0x0, 0x0, 0x0, 0x0⟩ -- 14:R415
  | .CTL_EVQ_LATCH => ⟨0x2f100100, [(0x1000, 64), (0x8, 32)], 0x0, 0x0, 0x0, 0x0⟩ -- 14:R411
  | .SEC_STATUS => ⟨0x30000000, [], 0x0, 0x0, 0x0, 0x0⟩ -- 15:R432
  | .SEC_BOOT_MASK => ⟨0x30000008, [], 0x0, 0x0, 0x0, 0x0⟩ -- 15:R432
  | .SEC_NET_V4 => ⟨0x30000010, [], 0x0, 0x0, 0x0, 0x0⟩ -- 15:R444
  | .SEC_NET_V6_LO => ⟨0x30000018, [], 0x0, 0x0, 0x0, 0x0⟩ -- 15:R444
  | .SEC_NET_V6_HI => ⟨0x30000020, [], 0x0, 0x0, 0x0, 0x0⟩ -- 15:R444
  | .SEC_NET_V6_EN => ⟨0x30000028, [], 0x0, 0x0, 0x0, 0x0⟩ -- 15:R444
  | .SEC_MBX_DB_M => ⟨0x30001000, [], 0x0, 0x0, 0x0, 0x0⟩ -- 15:R439
  | .SEC_NET_CFG => ⟨0x30001008, [], 0xffffffff, 0x0, 0x0, 0x2710⟩ -- 15:R443
  | .SEC_MBX_DB_S => ⟨0x30002000, [], 0x0, 0x0, 0x0, 0x0⟩ -- 15:R439
  | .SEC_REPORT_CNT => ⟨0x30003000, [], 0x0, 0x0, 0x0, 0x0⟩ -- 15:R446
  | .SEC_NET_REQ_CNT => ⟨0x30003008, [], 0x0, 0x0, 0x0, 0x0⟩ -- 15:R443
  | .SEC_NET_DROP_CNT => ⟨0x30003010, [], 0x0, 0x0, 0x0, 0x0⟩ -- 15:R443
  | .SEC_NET_BAD_CNT => ⟨0x30003018, [], 0x0, 0x0, 0x0, 0x0⟩ -- 15:R444
  | .SEC_TURNIP_BLK_CNT => ⟨0x30003020, [], 0x0, 0x0, 0x0, 0x0⟩ -- 15:R449

/-- Every register, in address order of its block. -/
def Reg.part0 : List Reg :=
  [.PRT_GRP_CFG, .PRT_GRP_RX_OVF_CNT, .PRT_PORT_CFG, .PRT_RX_OCT_CNT, .PRT_RX_FRM_CNT, .PRT_RX_RUNT_CNT, .PRT_RX_OVERSIZE_CNT, .PRT_RX_FCS_CNT, .PRT_RX_PAUSE_CNT, .PRT_RX_FEC_CORR_CNT, .PRT_RX_FEC_UNCORR_CNT, .PRT_TX_FRM_CNT, .PRT_TX_OCT_CNT, .PRT_TX_ABORT_CNT, .ING_PORT_CFG, .ING_PORT_MISS_CNT, .ING_PORT_PARSE_DROP_CNT, .ING_POL_OVH, .ING_RING_MAP, .ING_CTX_CMD, .ING_CTX_STATUS, .ING_CTX_DATA, .ING_RING_BASE, .ING_RING_CFG, .ING_RING_HEAD, .ING_RING_TAIL, .ING_RING_DISCARD_CNT, .ING_RING_NOBUF_CNT, .SRT_CMD, .SRT_STATUS, .SRT_DATA, .SRT_LIFE_MARGIN, .SRT_NOTICE_CFG, .SRT_IN_PKT_CNT, .SRT_IN_AUTH_FAIL_CNT, .SRT_IN_REPLAY_CNT, .SRT_IN_NOKEY_CNT, .SRT_IN_EXPIRED_CNT, .SRT_OUT_PKT_CNT, .SRT_OUT_OCT_CNT, .SRT_OUT_NOKEY_CNT, .SRT_OUT_EXPIRED_CNT, .SRT_OUT_OVERSIZE_CNT, .SRT_OUT_ABORT_CNT, .SRT_OUT_MISMATCH_CNT, .FWD_CMD, .FWD_STATUS, .FWD_DATA]
def Reg.part1 : List Reg :=
  [.FWD_FB_CFG, .FWD_STEER_A, .FWD_STEER_B, .FWD_XMAP_LO, .FWD_XMAP_HI, .FWD_CPROF, .FWD_IN_PKT_CNT, .FWD_STALE_CNT, .FWD_SCREEN_DROP_CNT, .FWD_NODEST_CNT, .FWD_CART_CNT, .FWD_WQ_HOLD_CNT, .FWD_WQ_DROP_CNT, .FWD_KF_REQ_CNT, .FWD_COPY_CNT, .FWD_SEL_DROP_CNT, .FWD_LATE_DROP_CNT, .FWD_DOWN_CNT, .FWD_UP_CNT, .FWD_REPL_OVF_CNT, .TM_CMD, .TM_STATUS, .TM_DATA, .TM_LEN_PROF, .TM_BUF_THR, .TM_BUF_OCC, .TM_BUF_PEAK, .TM_BUF_DROP_CNT, .TM_BUF_EXH_CNT, .TM_PIPE_SHP_DROP_CNT, .TM_PIPE_MISROUTE_CNT, .TM_TXR_BASE, .TM_TXR_CFG, .TM_TXR_HEAD, .TM_TXR_TAIL, .TM_TXR_DROP_CNT, .TM_PORT_CFG, .TM_PQ_CFG, .TM_Q_DEPTH, .TM_Q_TX_FRM_CNT, .TM_Q_TX_OCT_CNT, .TM_Q_DROP_CNT, .TM_PORT_TXDIS_CNT, .TM_PORT_GATE_DROP_CNT, .TM_PORT_GATE_OVR_CNT, .TM_GCL_CMD, .TM_GCL_BASE_SEC, .TM_GCL_BASE_NS]
def Reg.part2 : List Reg :=
  [.TM_GCL_CFG, .TM_GCL_STATUS, .TM_GCL_START_SEC, .TM_GCL_START_NS, .TM_GCL_ENTRY, .WD_CFG, .WD_STORE_FREE, .WD_SEQ_NEXT, .WD_CMD, .WD_STATUS, .WD_DATA, .WD_LOCK_STATUS, .WD_LOCK_CMD, .WD_POOL_CFG, .WD_POOL_MASK, .WD_POOL_WGT, .WD_ACCEPT_CNT, .WD_DISPATCH_CNT, .WD_RESUME_CNT, .WD_PREEMPT_CNT, .WD_FAULT_CNT, .WD_CANCEL_CNT, .WD_EXPIRE_CNT, .WD_SW_BUSY_CNT, .WD_HW_HOLD_CNT, .WD_HW_BAD_CNT, .WD_MISMATCH_CNT, .WD_SWAP_CNT, .WD_SUB_DATA, .WD_SUB_GO, .WD_SUB_RESULT, .PEA_CORE_CFG, .PEA_CORE_STATE, .PEA_CORE_BUSY_CNT, .PEA_CORE_STALL_CNT, .PEA_CORE_EXC_CNT, .PEA_CORE_ECC_CNT, .PEA_POD_CFG, .PEA_POD_MEM_ADDR, .PEA_POD_MEM_DATA, .PEA_POD_MEM_STATUS, .PEA_POD_DMA_OCT_CNT, .PEA_POD_SUBMIT_HOLD_CNT, .PEA_POD_INJ_HOLD_CNT, .PEA_POD_BANK_STALL_CNT, .MIX_CFG, .MIX_BLOCK, .MIX_SMEM_ADDR]
def Reg.part3 : List Reg :=
  [.MIX_SMEM_DATA, .MIX_ENG_CTL, .MIX_ENG_STATUS, .MIX_ENG_LOAD_ADDR, .MIX_ENG_LOAD_DATA, .MIX_ENG_SWAP_IDX, .MIX_ENG_CMD, .MIX_ENG_CMD_STATUS, .MIX_ENG_START_BLK, .MIX_ENG_BLK_CNT, .MIX_ENG_OVR_CNT, .MIX_ENG_SKIP_CNT, .MIX_ENG_STALE_CNT, .MIX_ENG_SAT_CNT, .MIX_ENG_CART_CNT, .MIX_ENG_CART_DROP_CNT, .MIX_ENG_SPL_DROP_CNT, .MIX_ENG_SPL_FAULT_CNT, .MIX_ENG_STALL_CNT, .MIX_ENG_CYC_MAX, .MIX_ENG_PARAM, .VDEC_CFG, .VDEC_STBL, .VDEC_ENG_STATUS, .VDEC_ENG_PKT_CNT, .VDEC_ENG_PUB_CNT, .VDEC_ENG_PIX_CNT, .VDEC_ENG_LOST_CNT, .VDEC_ENG_LATE_CNT, .VDEC_ENG_ERR_CNT, .VENC_CFG, .VENC_LTBL, .VENC_KF_CMD, .VENC_ENG_STATUS, .VENC_ENG_FRM_CNT, .VENC_ENG_PIX_CNT, .VENC_ENG_PKT_CNT, .VENC_ENG_DISC_CNT, .VENC_ENG_HOLD_CNT, .VENC_HINT, .CMP_CFG, .CMP_LTBL, .CMP_COEF_ADDR, .CMP_COEF_DATA, .CMP_COEF_STATUS, .CMP_ENG_STATUS, .CMP_ENG_FRM_CNT, .CMP_ENG_PIX_CNT]
def Reg.part4 : List Reg :=
  [.CMP_ENG_NOTREADY_CNT, .CMP_ENG_TORN_CNT, .CMP_ENG_SIGFAIL_CNT, .CMP_ENG_WITHHELD_CNT, .CMP_ENG_ERR_CNT, .CMP_ENG_CYC_MAX, .HBM_CTL, .HBM_PC_MASK, .HBM_STATUS, .HBM_PC_OFFLINE, .HBM_BOOT_FAIL, .HBM_PORT_CFG, .HBM_REF_CFG, .HBM_SCRUB_CFG, .HBM_TRN_CMD, .HBM_TRN_CFG, .HBM_TRN_STATUS, .HBM_PORT_RD_CNT, .HBM_PORT_WR_CNT, .HBM_PORT_LATE_CNT, .HBM_PORT_HOLD_CNT, .HBM_PC_STATE, .HBM_PC_REPAIR, .HBM_PC_RD_CNT, .HBM_PC_WR_CNT, .HBM_PC_CE_CNT, .HBM_PC_UE_CNT, .HBM_PC_RETRAIN_CNT, .HBM_PC_REF_OWED_MAX, .HBM_PC_DLY, .HBM_DMA_SRC, .HBM_DMA_DST, .HBM_DMA_LEN, .HBM_DMA_CFG, .HBM_DMA_CMD, .HBM_DMA_STATUS, .IOM_CMD, .IOM_CMD_IOVA, .IOM_CMD_PAGES, .IOM_WALK_CNT, .IOM_FAULT_CNT, .IOM_DOM_CFG, .IOM_FQ_COUNT, .IOM_FQ_LOST_CNT, .IOM_FQ_POP, .IOM_FQ_REC, .TIM_XSNAP, .TIM_XSNAP_SEC]
def Reg.part5 : List Reg :=
  [.TIM_XSNAP_NS, .TIM_TB_CFG, .TIM_TB_RATE, .TIM_TB_SET_SEC, .TIM_TB_SET_NS, .TIM_TB_CMD, .TIM_TB_STATUS, .TIM_TB_NOW_SEC, .TIM_TB_NOW_NS, .TIM_TB_SLEW_OFF, .TIM_TB_SLEW_RATE, .TIM_TB_SRC_LOST_CNT, .TIM_IN_CFG, .TIM_IN_LAST_SEC, .TIM_IN_LAST_NS, .TIM_IN_EVT_CNT, .TIM_IN_IGN_CNT, .TIM_IN_STATUS, .TIM_OUT_CFG, .TIM_OUT_START_SEC, .TIM_OUT_START_NS, .TIM_OUT_PERIOD, .TIM_PORT_CORR, .TIM_TXQ_CFG, .TIM_TXQ_STATUS, .TIM_TXQ_HEAD0, .TIM_TXQ_HEAD1, .TIM_TXQ_POP, .TIM_TXQ_OVF_CNT, .TIM_ONESTEP_SKIP_CNT, .ERR_CFG, .ERR_STATUS, .ERR_SLOT_W, .ERR_LOG_COUNT, .ERR_LOG_POP, .ERR_LOG_HEAD_W, .ERR_LOG_OVF_CNT, .ERR_CLASS_CNT, .ERR_INJECT, .ERR_INJECT_INFO, .ERR_TRACE_COUNT, .ERR_TRACE_LOST_CNT, .ERR_TRACE_RD_ADDR, .ERR_TRACE_RD_DATA, .ERR_TRACE_WR, .ERR_THERM_CFG, .ERR_THERM_STATUS, .ERR_THERM_CNT]
def Reg.part6 : List Reg :=
  [.ERR_LIFE_ACC, .CTL_ID, .CTL_MSIP, .CTL_MTIMECMP, .CTL_MTIME, .CTL_EXT_M, .CTL_EXT_S, .CTL_MGT_CFG, .CTL_MGT_STATUS, .CTL_MGT_MAC, .CTL_MGT_RX_BASE, .CTL_MGT_RX_CFG, .CTL_MGT_RX_HEAD, .CTL_MGT_RX_TAIL, .CTL_MGT_TX_BASE, .CTL_MGT_TX_CFG, .CTL_MGT_TX_HEAD, .CTL_MGT_TX_TAIL, .CTL_MGT_RX_FRM_CNT, .CTL_MGT_RX_OVF_CNT, .CTL_MGT_RX_ERR_CNT, .CTL_MGT_RX_DISCARD_CNT, .CTL_MGT_TX_FRM_CNT, .CTL_MDIO_CMD, .CTL_MDIO_DATA, .CTL_MDIO_CFG, .CTL_RYU_CFG, .CTL_RYU_PEND, .CTL_RESET, .CTL_RYU_DOORBELL, .CTL_EVQ_CFG, .CTL_EVQ_STATUS, .CTL_EVQ_HEAD, .CTL_EVQ_CMD, .CTL_EVQ_NOTICE, .CTL_EVQ_ITEM_CNT, .CTL_EVQ_LOST_CNT, .CTL_EVQ_FLUSH_PARTIAL_CNT, .CTL_EVQ_LATCH, .SEC_STATUS, .SEC_BOOT_MASK, .SEC_NET_V4, .SEC_NET_V6_LO, .SEC_NET_V6_HI, .SEC_NET_V6_EN, .SEC_MBX_DB_M, .SEC_NET_CFG, .SEC_MBX_DB_S]
def Reg.part7 : List Reg :=
  [.SEC_REPORT_CNT, .SEC_NET_REQ_CNT, .SEC_NET_DROP_CNT, .SEC_NET_BAD_CNT, .SEC_TURNIP_BLK_CNT]
def Reg.all : List Reg :=
  Reg.part0 ++ Reg.part1 ++ Reg.part2 ++ Reg.part3 ++ Reg.part4 ++ Reg.part5 ++ Reg.part6 ++ Reg.part7

/-- A named field of a register: its lowest bit and its length in bits. -/
structure RFld where
  reg : Reg
  lo  : Nat
  len : Nat
  deriving DecidableEq, Repr

namespace F

abbrev PRT_GRP_CFG.CFG_ERR : RFld := ⟨.PRT_GRP_CFG, 63, 1⟩
abbrev PRT_GRP_CFG.LANE_RATE : RFld := ⟨.PRT_GRP_CFG, 4, 2⟩
abbrev PRT_GRP_CFG.WIDTH : RFld := ⟨.PRT_GRP_CFG, 0, 3⟩
abbrev PRT_GRP_RX_OVF_CNT.CNT : RFld := ⟨.PRT_GRP_RX_OVF_CNT, 0, 48⟩
abbrev PRT_PORT_CFG.MAX_LEN : RFld := ⟨.PRT_PORT_CFG, 6, 14⟩
abbrev PRT_PORT_CFG.FEC_EN : RFld := ⟨.PRT_PORT_CFG, 5, 1⟩
abbrev PRT_PORT_CFG.TB : RFld := ⟨.PRT_PORT_CFG, 2, 3⟩
abbrev PRT_PORT_CFG.TX_EN : RFld := ⟨.PRT_PORT_CFG, 1, 1⟩
abbrev PRT_PORT_CFG.RX_EN : RFld := ⟨.PRT_PORT_CFG, 0, 1⟩
abbrev PRT_RX_OCT_CNT.CNT : RFld := ⟨.PRT_RX_OCT_CNT, 0, 64⟩
abbrev PRT_RX_FRM_CNT.CNT : RFld := ⟨.PRT_RX_FRM_CNT, 0, 64⟩
abbrev PRT_RX_RUNT_CNT.CNT : RFld := ⟨.PRT_RX_RUNT_CNT, 0, 48⟩
abbrev PRT_RX_OVERSIZE_CNT.CNT : RFld := ⟨.PRT_RX_OVERSIZE_CNT, 0, 48⟩
abbrev PRT_RX_FCS_CNT.CNT : RFld := ⟨.PRT_RX_FCS_CNT, 0, 48⟩
abbrev PRT_RX_PAUSE_CNT.CNT : RFld := ⟨.PRT_RX_PAUSE_CNT, 0, 48⟩
abbrev PRT_RX_FEC_CORR_CNT.CNT : RFld := ⟨.PRT_RX_FEC_CORR_CNT, 0, 48⟩
abbrev PRT_RX_FEC_UNCORR_CNT.CNT : RFld := ⟨.PRT_RX_FEC_UNCORR_CNT, 0, 48⟩
abbrev PRT_TX_FRM_CNT.CNT : RFld := ⟨.PRT_TX_FRM_CNT, 0, 64⟩
abbrev PRT_TX_OCT_CNT.CNT : RFld := ⟨.PRT_TX_OCT_CNT, 0, 64⟩
abbrev PRT_TX_ABORT_CNT.CNT : RFld := ⟨.PRT_TX_ABORT_CNT, 0, 48⟩
abbrev ING_PORT_CFG.DCLASS_DEF : RFld := ⟨.ING_PORT_CFG, 1, 2⟩
abbrev ING_PORT_CFG.MISS_ACT : RFld := ⟨.ING_PORT_CFG, 0, 1⟩
abbrev ING_PORT_MISS_CNT.CNT : RFld := ⟨.ING_PORT_MISS_CNT, 0, 48⟩
abbrev ING_PORT_PARSE_DROP_CNT.CNT : RFld := ⟨.ING_PORT_PARSE_DROP_CNT, 0, 48⟩
abbrev ING_POL_OVH.OVH : RFld := ⟨.ING_POL_OVH, 0, 7⟩
abbrev ING_RING_MAP.RING : RFld := ⟨.ING_RING_MAP, 0, 4⟩
abbrev ING_CTX_CMD.GO : RFld := ⟨.ING_CTX_CMD, 63, 1⟩
abbrev ING_CTX_CMD.OP : RFld := ⟨.ING_CTX_CMD, 32, 4⟩
abbrev ING_CTX_CMD.SCID : RFld := ⟨.ING_CTX_CMD, 0, 20⟩
abbrev ING_CTX_STATUS.DUP_SCID : RFld := ⟨.ING_CTX_STATUS, 8, 20⟩
abbrev ING_CTX_STATUS.RESULT : RFld := ⟨.ING_CTX_STATUS, 0, 4⟩
abbrev ING_CTX_DATA.DATA : RFld := ⟨.ING_CTX_DATA, 0, 64⟩
abbrev ING_RING_BASE.IOVA : RFld := ⟨.ING_RING_BASE, 0, 48⟩
abbrev ING_RING_CFG.DOMAIN : RFld := ⟨.ING_RING_CFG, 32, 6⟩
abbrev ING_RING_CFG.EVQ : RFld := ⟨.ING_RING_CFG, 20, 6⟩
abbrev ING_RING_CFG.BUFSZ : RFld := ⟨.ING_RING_CFG, 12, 8⟩
abbrev ING_RING_CFG.LOG2_SIZE : RFld := ⟨.ING_RING_CFG, 1, 4⟩
abbrev ING_RING_CFG.EN : RFld := ⟨.ING_RING_CFG, 0, 1⟩
abbrev ING_RING_HEAD.HEAD : RFld := ⟨.ING_RING_HEAD, 0, 16⟩
abbrev ING_RING_TAIL.TAIL : RFld := ⟨.ING_RING_TAIL, 0, 16⟩
abbrev ING_RING_DISCARD_CNT.CNT : RFld := ⟨.ING_RING_DISCARD_CNT, 0, 48⟩
abbrev ING_RING_NOBUF_CNT.CNT : RFld := ⟨.ING_RING_NOBUF_CNT, 0, 48⟩
abbrev SRT_CMD.GO : RFld := ⟨.SRT_CMD, 63, 1⟩
abbrev SRT_CMD.OP : RFld := ⟨.SRT_CMD, 32, 4⟩
abbrev SRT_CMD.INDEX : RFld := ⟨.SRT_CMD, 0, 20⟩
abbrev SRT_STATUS.RESULT : RFld := ⟨.SRT_STATUS, 0, 4⟩
abbrev SRT_DATA.DATA : RFld := ⟨.SRT_DATA, 0, 64⟩
abbrev SRT_LIFE_MARGIN.MARGIN : RFld := ⟨.SRT_LIFE_MARGIN, 0, 48⟩
abbrev SRT_NOTICE_CFG.SWITCH_EN : RFld := ⟨.SRT_NOTICE_CFG, 8, 1⟩
abbrev SRT_NOTICE_CFG.LIFE_EN : RFld := ⟨.SRT_NOTICE_CFG, 7, 1⟩
abbrev SRT_NOTICE_CFG.EVQ : RFld := ⟨.SRT_NOTICE_CFG, 0, 6⟩
abbrev SRT_IN_PKT_CNT.CNT : RFld := ⟨.SRT_IN_PKT_CNT, 0, 64⟩
abbrev SRT_IN_AUTH_FAIL_CNT.CNT : RFld := ⟨.SRT_IN_AUTH_FAIL_CNT, 0, 48⟩
abbrev SRT_IN_REPLAY_CNT.CNT : RFld := ⟨.SRT_IN_REPLAY_CNT, 0, 48⟩
abbrev SRT_IN_NOKEY_CNT.CNT : RFld := ⟨.SRT_IN_NOKEY_CNT, 0, 48⟩
abbrev SRT_IN_EXPIRED_CNT.CNT : RFld := ⟨.SRT_IN_EXPIRED_CNT, 0, 48⟩
abbrev SRT_OUT_PKT_CNT.CNT : RFld := ⟨.SRT_OUT_PKT_CNT, 0, 64⟩
abbrev SRT_OUT_OCT_CNT.CNT : RFld := ⟨.SRT_OUT_OCT_CNT, 0, 64⟩
abbrev SRT_OUT_NOKEY_CNT.CNT : RFld := ⟨.SRT_OUT_NOKEY_CNT, 0, 48⟩
abbrev SRT_OUT_EXPIRED_CNT.CNT : RFld := ⟨.SRT_OUT_EXPIRED_CNT, 0, 48⟩
abbrev SRT_OUT_OVERSIZE_CNT.CNT : RFld := ⟨.SRT_OUT_OVERSIZE_CNT, 0, 48⟩
abbrev SRT_OUT_ABORT_CNT.CNT : RFld := ⟨.SRT_OUT_ABORT_CNT, 0, 48⟩
abbrev SRT_OUT_MISMATCH_CNT.CNT : RFld := ⟨.SRT_OUT_MISMATCH_CNT, 0, 48⟩
abbrev FWD_CMD.GO : RFld := ⟨.FWD_CMD, 63, 1⟩
abbrev FWD_CMD.OP : RFld := ⟨.FWD_CMD, 32, 4⟩
abbrev FWD_CMD.INDEX : RFld := ⟨.FWD_CMD, 0, 20⟩
abbrev FWD_STATUS.RESULT : RFld := ⟨.FWD_STATUS, 0, 4⟩
abbrev FWD_DATA.DATA : RFld := ⟨.FWD_DATA, 0, 64⟩
abbrev FWD_FB_CFG.QUEUE : RFld := ⟨.FWD_FB_CFG, 0, 3⟩
abbrev FWD_STEER_A.DEBT_T2 : RFld := ⟨.FWD_STEER_A, 40, 20⟩
abbrev FWD_STEER_A.DEBT_T1 : RFld := ⟨.FWD_STEER_A, 20, 20⟩
abbrev FWD_STEER_A.DOWN_GAP_MS : RFld := ⟨.FWD_STEER_A, 10, 10⟩
abbrev FWD_STEER_B.HOLD_MS : RFld := ⟨.FWD_STEER_B, 48, 16⟩
abbrev FWD_STEER_B.DEPTH_D3 : RFld := ⟨.FWD_STEER_B, 32, 16⟩
abbrev FWD_STEER_B.DEPTH_D2 : RFld := ⟨.FWD_STEER_B, 16, 16⟩
abbrev FWD_STEER_B.DEPTH_D1 : RFld := ⟨.FWD_STEER_B, 0, 16⟩
abbrev FWD_XMAP_LO.ENTRY : RFld := ⟨.FWD_XMAP_LO, 0, 56⟩
abbrev FWD_XMAP_HI.ENTRY : RFld := ⟨.FWD_XMAP_HI, 0, 56⟩
abbrev FWD_CPROF.POD_MASK : RFld := ⟨.FWD_CPROF, 32, 32⟩
abbrev FWD_CPROF.PRIO : RFld := ⟨.FWD_CPROF, 28, 4⟩
abbrev FWD_CPROF.WGRP : RFld := ⟨.FWD_CPROF, 25, 3⟩
abbrev FWD_CPROF.ENTRY : RFld := ⟨.FWD_CPROF, 0, 12⟩
abbrev FWD_IN_PKT_CNT.CNT : RFld := ⟨.FWD_IN_PKT_CNT, 0, 64⟩
abbrev FWD_STALE_CNT.CNT : RFld := ⟨.FWD_STALE_CNT, 0, 48⟩
abbrev FWD_SCREEN_DROP_CNT.CNT : RFld := ⟨.FWD_SCREEN_DROP_CNT, 0, 48⟩
abbrev FWD_NODEST_CNT.CNT : RFld := ⟨.FWD_NODEST_CNT, 0, 48⟩
abbrev FWD_CART_CNT.CNT : RFld := ⟨.FWD_CART_CNT, 0, 64⟩
abbrev FWD_WQ_HOLD_CNT.CNT : RFld := ⟨.FWD_WQ_HOLD_CNT, 0, 48⟩
abbrev FWD_WQ_DROP_CNT.CNT : RFld := ⟨.FWD_WQ_DROP_CNT, 0, 48⟩
abbrev FWD_KF_REQ_CNT.CNT : RFld := ⟨.FWD_KF_REQ_CNT, 0, 48⟩
abbrev FWD_COPY_CNT.CNT : RFld := ⟨.FWD_COPY_CNT, 0, 64⟩
abbrev FWD_SEL_DROP_CNT.CNT : RFld := ⟨.FWD_SEL_DROP_CNT, 0, 48⟩
abbrev FWD_LATE_DROP_CNT.CNT : RFld := ⟨.FWD_LATE_DROP_CNT, 0, 48⟩
abbrev FWD_DOWN_CNT.CNT : RFld := ⟨.FWD_DOWN_CNT, 0, 48⟩
abbrev FWD_UP_CNT.CNT : RFld := ⟨.FWD_UP_CNT, 0, 48⟩
abbrev FWD_REPL_OVF_CNT.CNT : RFld := ⟨.FWD_REPL_OVF_CNT, 0, 48⟩
abbrev TM_CMD.GO : RFld := ⟨.TM_CMD, 63, 1⟩
abbrev TM_CMD.OP : RFld := ⟨.TM_CMD, 32, 4⟩
abbrev TM_CMD.CGID : RFld := ⟨.TM_CMD, 0, 17⟩
abbrev TM_STATUS.RESULT : RFld := ⟨.TM_STATUS, 0, 4⟩
abbrev TM_DATA.DATA : RFld := ⟨.TM_DATA, 0, 64⟩
abbrev TM_LEN_PROF.OVH : RFld := ⟨.TM_LEN_PROF, 0, 8⟩
abbrev TM_BUF_THR.THR : RFld := ⟨.TM_BUF_THR, 0, 19⟩
abbrev TM_BUF_OCC.OCC : RFld := ⟨.TM_BUF_OCC, 0, 19⟩
abbrev TM_BUF_PEAK.PEAK : RFld := ⟨.TM_BUF_PEAK, 0, 19⟩
abbrev TM_BUF_DROP_CNT.CNT : RFld := ⟨.TM_BUF_DROP_CNT, 0, 48⟩
abbrev TM_BUF_EXH_CNT.CNT : RFld := ⟨.TM_BUF_EXH_CNT, 0, 48⟩
abbrev TM_PIPE_SHP_DROP_CNT.CNT : RFld := ⟨.TM_PIPE_SHP_DROP_CNT, 0, 48⟩
abbrev TM_PIPE_MISROUTE_CNT.CNT : RFld := ⟨.TM_PIPE_MISROUTE_CNT, 0, 48⟩
abbrev TM_TXR_BASE.IOVA : RFld := ⟨.TM_TXR_BASE, 0, 48⟩
abbrev TM_TXR_CFG.DOMAIN : RFld := ⟨.TM_TXR_CFG, 32, 6⟩
abbrev TM_TXR_CFG.EVQ : RFld := ⟨.TM_TXR_CFG, 20, 6⟩
abbrev TM_TXR_CFG.DCLASS : RFld := ⟨.TM_TXR_CFG, 14, 2⟩
abbrev TM_TXR_CFG.LOG2_SIZE : RFld := ⟨.TM_TXR_CFG, 1, 4⟩
abbrev TM_TXR_CFG.EN : RFld := ⟨.TM_TXR_CFG, 0, 1⟩
abbrev TM_TXR_HEAD.HEAD : RFld := ⟨.TM_TXR_HEAD, 0, 16⟩
abbrev TM_TXR_TAIL.TAIL : RFld := ⟨.TM_TXR_TAIL, 0, 16⟩
abbrev TM_TXR_DROP_CNT.CNT : RFld := ⟨.TM_TXR_DROP_CNT, 0, 48⟩
abbrev TM_PORT_CFG.LPROF : RFld := ⟨.TM_PORT_CFG, 0, 4⟩
abbrev TM_PQ_CFG.QMAX : RFld := ⟨.TM_PQ_CFG, 32, 20⟩
abbrev TM_PQ_CFG.QUANTUM : RFld := ⟨.TM_PQ_CFG, 16, 16⟩
abbrev TM_Q_DEPTH.DEPTH : RFld := ⟨.TM_Q_DEPTH, 0, 20⟩
abbrev TM_Q_TX_FRM_CNT.CNT : RFld := ⟨.TM_Q_TX_FRM_CNT, 0, 64⟩
abbrev TM_Q_TX_OCT_CNT.CNT : RFld := ⟨.TM_Q_TX_OCT_CNT, 0, 64⟩
abbrev TM_Q_DROP_CNT.CNT : RFld := ⟨.TM_Q_DROP_CNT, 0, 48⟩
abbrev TM_PORT_TXDIS_CNT.CNT : RFld := ⟨.TM_PORT_TXDIS_CNT, 0, 48⟩
abbrev TM_PORT_GATE_DROP_CNT.CNT : RFld := ⟨.TM_PORT_GATE_DROP_CNT, 0, 48⟩
abbrev TM_PORT_GATE_OVR_CNT.CNT : RFld := ⟨.TM_PORT_GATE_OVR_CNT, 0, 48⟩
abbrev TM_GCL_CMD.GO : RFld := ⟨.TM_GCL_CMD, 63, 1⟩
abbrev TM_GCL_CMD.OP : RFld := ⟨.TM_GCL_CMD, 32, 2⟩
abbrev TM_GCL_BASE_SEC.SEC : RFld := ⟨.TM_GCL_BASE_SEC, 0, 48⟩
abbrev TM_GCL_BASE_NS.NS : RFld := ⟨.TM_GCL_BASE_NS, 0, 30⟩
abbrev TM_GCL_CFG.LEN : RFld := ⟨.TM_GCL_CFG, 32, 8⟩
abbrev TM_GCL_CFG.CYCLE : RFld := ⟨.TM_GCL_CFG, 0, 32⟩
abbrev TM_GCL_STATUS.PENDING : RFld := ⟨.TM_GCL_STATUS, 63, 1⟩
abbrev TM_GCL_STATUS.ACTIVE : RFld := ⟨.TM_GCL_STATUS, 62, 1⟩
abbrev TM_GCL_STATUS.LATE : RFld := ⟨.TM_GCL_STATUS, 61, 1⟩
abbrev TM_GCL_STATUS.REFUSED : RFld := ⟨.TM_GCL_STATUS, 60, 1⟩
abbrev TM_GCL_STATUS.CUR : RFld := ⟨.TM_GCL_STATUS, 0, 7⟩
abbrev TM_GCL_START_SEC.SEC : RFld := ⟨.TM_GCL_START_SEC, 0, 48⟩
abbrev TM_GCL_START_NS.NS : RFld := ⟨.TM_GCL_START_NS, 0, 30⟩
abbrev TM_GCL_ENTRY.GATES : RFld := ⟨.TM_GCL_ENTRY, 24, 8⟩
abbrev TM_GCL_ENTRY.INTERVAL : RFld := ⟨.TM_GCL_ENTRY, 0, 24⟩
abbrev WD_CFG.SW_RSV : RFld := ⟨.WD_CFG, 20, 14⟩
abbrev WD_CFG.PRE_LEVEL : RFld := ⟨.WD_CFG, 16, 4⟩
abbrev WD_CFG.EVQ : RFld := ⟨.WD_CFG, 4, 6⟩
abbrev WD_CFG.EN : RFld := ⟨.WD_CFG, 0, 1⟩
abbrev WD_STORE_FREE.FREE : RFld := ⟨.WD_STORE_FREE, 0, 15⟩
abbrev WD_SEQ_NEXT.SEQ : RFld := ⟨.WD_SEQ_NEXT, 0, 32⟩
abbrev WD_CMD.GO : RFld := ⟨.WD_CMD, 63, 1⟩
abbrev WD_CMD.OP : RFld := ⟨.WD_CMD, 32, 4⟩
abbrev WD_CMD.INDEX : RFld := ⟨.WD_CMD, 0, 16⟩
abbrev WD_STATUS.RESULT : RFld := ⟨.WD_STATUS, 0, 4⟩
abbrev WD_DATA.DATA : RFld := ⟨.WD_DATA, 0, 64⟩
abbrev WD_LOCK_STATUS.GAP : RFld := ⟨.WD_LOCK_STATUS, 5, 1⟩
abbrev WD_LOCK_STATUS.B_OFF : RFld := ⟨.WD_LOCK_STATUS, 4, 1⟩
abbrev WD_LOCK_STATUS.A_OFF : RFld := ⟨.WD_LOCK_STATUS, 3, 1⟩
abbrev WD_LOCK_STATUS.ACTIVE : RFld := ⟨.WD_LOCK_STATUS, 0, 1⟩
abbrev WD_LOCK_CMD.SWAP : RFld := ⟨.WD_LOCK_CMD, 0, 1⟩
abbrev WD_POOL_CFG.CFG_ERR : RFld := ⟨.WD_POOL_CFG, 63, 1⟩
abbrev WD_POOL_CFG.KIND : RFld := ⟨.WD_POOL_CFG, 0, 2⟩
abbrev WD_POOL_MASK.MASK : RFld := ⟨.WD_POOL_MASK, 0, 64⟩
abbrev WD_POOL_WGT.WGT : RFld := ⟨.WD_POOL_WGT, 0, 64⟩
abbrev WD_ACCEPT_CNT.CNT : RFld := ⟨.WD_ACCEPT_CNT, 0, 64⟩
abbrev WD_DISPATCH_CNT.CNT : RFld := ⟨.WD_DISPATCH_CNT, 0, 64⟩
abbrev WD_RESUME_CNT.CNT : RFld := ⟨.WD_RESUME_CNT, 0, 48⟩
abbrev WD_PREEMPT_CNT.CNT : RFld := ⟨.WD_PREEMPT_CNT, 0, 48⟩
abbrev WD_FAULT_CNT.CNT : RFld := ⟨.WD_FAULT_CNT, 0, 48⟩
abbrev WD_CANCEL_CNT.CNT : RFld := ⟨.WD_CANCEL_CNT, 0, 48⟩
abbrev WD_EXPIRE_CNT.CNT : RFld := ⟨.WD_EXPIRE_CNT, 0, 48⟩
abbrev WD_SW_BUSY_CNT.CNT : RFld := ⟨.WD_SW_BUSY_CNT, 0, 48⟩
abbrev WD_HW_HOLD_CNT.CNT : RFld := ⟨.WD_HW_HOLD_CNT, 0, 48⟩
abbrev WD_HW_BAD_CNT.CNT : RFld := ⟨.WD_HW_BAD_CNT, 0, 48⟩
abbrev WD_MISMATCH_CNT.CNT : RFld := ⟨.WD_MISMATCH_CNT, 0, 48⟩
abbrev WD_SWAP_CNT.CNT : RFld := ⟨.WD_SWAP_CNT, 0, 48⟩
abbrev WD_SUB_DATA.DATA : RFld := ⟨.WD_SUB_DATA, 0, 64⟩
abbrev WD_SUB_GO.GO : RFld := ⟨.WD_SUB_GO, 0, 1⟩
abbrev WD_SUB_RESULT.SEQ : RFld := ⟨.WD_SUB_RESULT, 32, 32⟩
abbrev WD_SUB_RESULT.RESULT : RFld := ⟨.WD_SUB_RESULT, 0, 4⟩
abbrev PEA_CORE_CFG.EN : RFld := ⟨.PEA_CORE_CFG, 0, 1⟩
abbrev PEA_CORE_STATE.SEQ : RFld := ⟨.PEA_CORE_STATE, 32, 32⟩
abbrev PEA_CORE_STATE.PC : RFld := ⟨.PEA_CORE_STATE, 20, 12⟩
abbrev PEA_CORE_STATE.HALF : RFld := ⟨.PEA_CORE_STATE, 7, 1⟩
abbrev PEA_CORE_STATE.S1_HALF : RFld := ⟨.PEA_CORE_STATE, 6, 1⟩
abbrev PEA_CORE_STATE.S0_HALF : RFld := ⟨.PEA_CORE_STATE, 5, 1⟩
abbrev PEA_CORE_STATE.SLOT_FULL : RFld := ⟨.PEA_CORE_STATE, 3, 2⟩
abbrev PEA_CORE_STATE.RUN : RFld := ⟨.PEA_CORE_STATE, 0, 3⟩
abbrev PEA_CORE_BUSY_CNT.CNT : RFld := ⟨.PEA_CORE_BUSY_CNT, 0, 64⟩
abbrev PEA_CORE_STALL_CNT.CNT : RFld := ⟨.PEA_CORE_STALL_CNT, 0, 48⟩
abbrev PEA_CORE_EXC_CNT.CNT : RFld := ⟨.PEA_CORE_EXC_CNT, 0, 48⟩
abbrev PEA_CORE_ECC_CNT.CNT : RFld := ⟨.PEA_CORE_ECC_CNT, 0, 48⟩
abbrev PEA_POD_CFG.DOMAIN : RFld := ⟨.PEA_POD_CFG, 0, 6⟩
abbrev PEA_POD_MEM_ADDR.CORE_MASK : RFld := ⟨.PEA_POD_MEM_ADDR, 48, 16⟩
abbrev PEA_POD_MEM_ADDR.CORE : RFld := ⟨.PEA_POD_MEM_ADDR, 40, 4⟩
abbrev PEA_POD_MEM_ADDR.SPACE : RFld := ⟨.PEA_POD_MEM_ADDR, 32, 2⟩
abbrev PEA_POD_MEM_ADDR.ADDR : RFld := ⟨.PEA_POD_MEM_ADDR, 0, 20⟩
abbrev PEA_POD_MEM_DATA.DATA : RFld := ⟨.PEA_POD_MEM_DATA, 0, 64⟩
abbrev PEA_POD_MEM_STATUS.MEM_ERR : RFld := ⟨.PEA_POD_MEM_STATUS, 0, 1⟩
abbrev PEA_POD_DMA_OCT_CNT.CNT : RFld := ⟨.PEA_POD_DMA_OCT_CNT, 0, 64⟩
abbrev PEA_POD_SUBMIT_HOLD_CNT.CNT : RFld := ⟨.PEA_POD_SUBMIT_HOLD_CNT, 0, 48⟩
abbrev PEA_POD_INJ_HOLD_CNT.CNT : RFld := ⟨.PEA_POD_INJ_HOLD_CNT, 0, 48⟩
abbrev PEA_POD_BANK_STALL_CNT.CNT : RFld := ⟨.PEA_POD_BANK_STALL_CNT, 0, 48⟩
abbrev MIX_CFG.EVQ : RFld := ⟨.MIX_CFG, 10, 6⟩
abbrev MIX_CFG.DOMAIN : RFld := ⟨.MIX_CFG, 4, 6⟩
abbrev MIX_CFG.TB : RFld := ⟨.MIX_CFG, 1, 3⟩
abbrev MIX_CFG.EN : RFld := ⟨.MIX_CFG, 0, 1⟩
abbrev MIX_BLOCK.BLOCK : RFld := ⟨.MIX_BLOCK, 0, 64⟩
abbrev MIX_SMEM_ADDR.ADDR : RFld := ⟨.MIX_SMEM_ADDR, 0, 20⟩
abbrev MIX_SMEM_DATA.DATA : RFld := ⟨.MIX_SMEM_DATA, 0, 32⟩
abbrev MIX_ENG_CTL.EN : RFld := ⟨.MIX_ENG_CTL, 0, 1⟩
abbrev MIX_ENG_STATUS.LOAD_ERR : RFld := ⟨.MIX_ENG_STATUS, 4, 1⟩
abbrev MIX_ENG_STATUS.PEND : RFld := ⟨.MIX_ENG_STATUS, 3, 1⟩
abbrev MIX_ENG_STATUS.ACT_VALID : RFld := ⟨.MIX_ENG_STATUS, 2, 1⟩
abbrev MIX_ENG_STATUS.ACT_SLOT : RFld := ⟨.MIX_ENG_STATUS, 1, 1⟩
abbrev MIX_ENG_STATUS.RUNNING : RFld := ⟨.MIX_ENG_STATUS, 0, 1⟩
abbrev MIX_ENG_LOAD_ADDR.ADDR : RFld := ⟨.MIX_ENG_LOAD_ADDR, 0, 15⟩
abbrev MIX_ENG_LOAD_DATA.DATA : RFld := ⟨.MIX_ENG_LOAD_DATA, 0, 64⟩
abbrev MIX_ENG_SWAP_IDX.IDX : RFld := ⟨.MIX_ENG_SWAP_IDX, 0, 64⟩
abbrev MIX_ENG_CMD.GO : RFld := ⟨.MIX_ENG_CMD, 63, 1⟩
abbrev MIX_ENG_CMD.OP : RFld := ⟨.MIX_ENG_CMD, 32, 4⟩
abbrev MIX_ENG_CMD_STATUS.ERR_WORD : RFld := ⟨.MIX_ENG_CMD_STATUS, 34, 15⟩
abbrev MIX_ENG_CMD_STATUS.RESULT : RFld := ⟨.MIX_ENG_CMD_STATUS, 0, 4⟩
abbrev MIX_ENG_START_BLK.BLK : RFld := ⟨.MIX_ENG_START_BLK, 0, 64⟩
abbrev MIX_ENG_BLK_CNT.CNT : RFld := ⟨.MIX_ENG_BLK_CNT, 0, 64⟩
abbrev MIX_ENG_OVR_CNT.CNT : RFld := ⟨.MIX_ENG_OVR_CNT, 0, 48⟩
abbrev MIX_ENG_SKIP_CNT.CNT : RFld := ⟨.MIX_ENG_SKIP_CNT, 0, 48⟩
abbrev MIX_ENG_STALE_CNT.CNT : RFld := ⟨.MIX_ENG_STALE_CNT, 0, 48⟩
abbrev MIX_ENG_SAT_CNT.CNT : RFld := ⟨.MIX_ENG_SAT_CNT, 0, 48⟩
abbrev MIX_ENG_CART_CNT.CNT : RFld := ⟨.MIX_ENG_CART_CNT, 0, 48⟩
abbrev MIX_ENG_CART_DROP_CNT.CNT : RFld := ⟨.MIX_ENG_CART_DROP_CNT, 0, 48⟩
abbrev MIX_ENG_SPL_DROP_CNT.CNT : RFld := ⟨.MIX_ENG_SPL_DROP_CNT, 0, 48⟩
abbrev MIX_ENG_SPL_FAULT_CNT.CNT : RFld := ⟨.MIX_ENG_SPL_FAULT_CNT, 0, 48⟩
abbrev MIX_ENG_STALL_CNT.CNT : RFld := ⟨.MIX_ENG_STALL_CNT, 0, 48⟩
abbrev MIX_ENG_CYC_MAX.MAX : RFld := ⟨.MIX_ENG_CYC_MAX, 0, 21⟩
abbrev MIX_ENG_PARAM.GAIN : RFld := ⟨.MIX_ENG_PARAM, 0, 16⟩
abbrev VDEC_CFG.EVQ : RFld := ⟨.VDEC_CFG, 6, 6⟩
abbrev VDEC_CFG.DOMAIN : RFld := ⟨.VDEC_CFG, 0, 6⟩
abbrev VDEC_STBL.LOG2_N : RFld := ⟨.VDEC_STBL, 48, 5⟩
abbrev VDEC_STBL.BASE : RFld := ⟨.VDEC_STBL, 0, 48⟩
abbrev VDEC_ENG_STATUS.SEQ : RFld := ⟨.VDEC_ENG_STATUS, 32, 32⟩
abbrev VDEC_ENG_STATUS.STREAM : RFld := ⟨.VDEC_ENG_STATUS, 12, 20⟩
abbrev VDEC_ENG_STATUS.BUSY : RFld := ⟨.VDEC_ENG_STATUS, 0, 1⟩
abbrev VDEC_ENG_PKT_CNT.CNT : RFld := ⟨.VDEC_ENG_PKT_CNT, 0, 64⟩
abbrev VDEC_ENG_PUB_CNT.CNT : RFld := ⟨.VDEC_ENG_PUB_CNT, 0, 64⟩
abbrev VDEC_ENG_PIX_CNT.CNT : RFld := ⟨.VDEC_ENG_PIX_CNT, 0, 64⟩
abbrev VDEC_ENG_LOST_CNT.CNT : RFld := ⟨.VDEC_ENG_LOST_CNT, 0, 48⟩
abbrev VDEC_ENG_LATE_CNT.CNT : RFld := ⟨.VDEC_ENG_LATE_CNT, 0, 48⟩
abbrev VDEC_ENG_ERR_CNT.CNT : RFld := ⟨.VDEC_ENG_ERR_CNT, 0, 48⟩
abbrev VENC_CFG.DOMAIN : RFld := ⟨.VENC_CFG, 0, 6⟩
abbrev VENC_LTBL.BASE : RFld := ⟨.VENC_LTBL, 0, 48⟩
abbrev VENC_KF_CMD.HOME : RFld := ⟨.VENC_KF_CMD, 16, 5⟩
abbrev VENC_KF_CMD.LADDER : RFld := ⟨.VENC_KF_CMD, 8, 8⟩
abbrev VENC_KF_CMD.MASK : RFld := ⟨.VENC_KF_CMD, 0, 3⟩
abbrev VENC_ENG_STATUS.SEQ : RFld := ⟨.VENC_ENG_STATUS, 32, 32⟩
abbrev VENC_ENG_STATUS.HOME : RFld := ⟨.VENC_ENG_STATUS, 16, 5⟩
abbrev VENC_ENG_STATUS.LADDER : RFld := ⟨.VENC_ENG_STATUS, 8, 8⟩
abbrev VENC_ENG_STATUS.WAIT_SRC : RFld := ⟨.VENC_ENG_STATUS, 1, 1⟩
abbrev VENC_ENG_STATUS.BUSY : RFld := ⟨.VENC_ENG_STATUS, 0, 1⟩
abbrev VENC_ENG_FRM_CNT.CNT : RFld := ⟨.VENC_ENG_FRM_CNT, 0, 64⟩
abbrev VENC_ENG_PIX_CNT.CNT : RFld := ⟨.VENC_ENG_PIX_CNT, 0, 64⟩
abbrev VENC_ENG_PKT_CNT.CNT : RFld := ⟨.VENC_ENG_PKT_CNT, 0, 64⟩
abbrev VENC_ENG_DISC_CNT.CNT : RFld := ⟨.VENC_ENG_DISC_CNT, 0, 48⟩
abbrev VENC_ENG_HOLD_CNT.CNT : RFld := ⟨.VENC_ENG_HOLD_CNT, 0, 48⟩
abbrev VENC_HINT.CNT_2 : RFld := ⟨.VENC_HINT, 48, 16⟩
abbrev VENC_HINT.CNT_1 : RFld := ⟨.VENC_HINT, 32, 16⟩
abbrev VENC_HINT.CNT_0 : RFld := ⟨.VENC_HINT, 16, 16⟩
abbrev VENC_HINT.KF_PEND : RFld := ⟨.VENC_HINT, 0, 3⟩
abbrev CMP_CFG.DOMAIN : RFld := ⟨.CMP_CFG, 0, 6⟩
abbrev CMP_LTBL.LOG2_N : RFld := ⟨.CMP_LTBL, 48, 5⟩
abbrev CMP_LTBL.BASE : RFld := ⟨.CMP_LTBL, 0, 48⟩
abbrev CMP_COEF_ADDR.ADDR : RFld := ⟨.CMP_COEF_ADDR, 0, 12⟩
abbrev CMP_COEF_DATA.DATA : RFld := ⟨.CMP_COEF_DATA, 0, 64⟩
abbrev CMP_COEF_STATUS.COEF_ERR : RFld := ⟨.CMP_COEF_STATUS, 0, 1⟩
abbrev CMP_ENG_STATUS.SEQ : RFld := ⟨.CMP_ENG_STATUS, 32, 32⟩
abbrev CMP_ENG_STATUS.LAYOUT : RFld := ⟨.CMP_ENG_STATUS, 16, 14⟩
abbrev CMP_ENG_STATUS.BUSY : RFld := ⟨.CMP_ENG_STATUS, 0, 1⟩
abbrev CMP_ENG_FRM_CNT.CNT : RFld := ⟨.CMP_ENG_FRM_CNT, 0, 64⟩
abbrev CMP_ENG_PIX_CNT.CNT : RFld := ⟨.CMP_ENG_PIX_CNT, 0, 64⟩
abbrev CMP_ENG_NOTREADY_CNT.CNT : RFld := ⟨.CMP_ENG_NOTREADY_CNT, 0, 48⟩
abbrev CMP_ENG_TORN_CNT.CNT : RFld := ⟨.CMP_ENG_TORN_CNT, 0, 48⟩
abbrev CMP_ENG_SIGFAIL_CNT.CNT : RFld := ⟨.CMP_ENG_SIGFAIL_CNT, 0, 48⟩
abbrev CMP_ENG_WITHHELD_CNT.CNT : RFld := ⟨.CMP_ENG_WITHHELD_CNT, 0, 48⟩
abbrev CMP_ENG_ERR_CNT.CNT : RFld := ⟨.CMP_ENG_ERR_CNT, 0, 48⟩
abbrev CMP_ENG_CYC_MAX.MAX : RFld := ⟨.CMP_ENG_CYC_MAX, 0, 32⟩
abbrev HBM_CTL.EN : RFld := ⟨.HBM_CTL, 0, 1⟩
abbrev HBM_PC_MASK.MASK : RFld := ⟨.HBM_PC_MASK, 0, 64⟩
abbrev HBM_STATUS.NPC : RFld := ⟨.HBM_STATUS, 0, 7⟩
abbrev HBM_PC_OFFLINE.OFF : RFld := ⟨.HBM_PC_OFFLINE, 0, 64⟩
abbrev HBM_BOOT_FAIL.FAIL : RFld := ⟨.HBM_BOOT_FAIL, 0, 64⟩
abbrev HBM_PORT_CFG.ORDER : RFld := ⟨.HBM_PORT_CFG, 40, 2⟩
abbrev HBM_PORT_CFG.PRIO : RFld := ⟨.HBM_PORT_CFG, 32, 2⟩
abbrev HBM_PORT_CFG.TARGET_NS : RFld := ⟨.HBM_PORT_CFG, 0, 16⟩
abbrev HBM_REF_CFG.POSTPONE_MAX : RFld := ⟨.HBM_REF_CFG, 0, 4⟩
abbrev HBM_SCRUB_CFG.HOURS : RFld := ⟨.HBM_SCRUB_CFG, 0, 16⟩
abbrev HBM_TRN_CMD.GO : RFld := ⟨.HBM_TRN_CMD, 63, 1⟩
abbrev HBM_TRN_CMD.OP : RFld := ⟨.HBM_TRN_CMD, 32, 4⟩
abbrev HBM_TRN_CMD.PC : RFld := ⟨.HBM_TRN_CMD, 0, 6⟩
abbrev HBM_TRN_CFG.SEED : RFld := ⟨.HBM_TRN_CFG, 32, 32⟩
abbrev HBM_TRN_CFG.PAT : RFld := ⟨.HBM_TRN_CFG, 30, 2⟩
abbrev HBM_TRN_CFG.OFFSET : RFld := ⟨.HBM_TRN_CFG, 8, 22⟩
abbrev HBM_TRN_CFG.LEN : RFld := ⟨.HBM_TRN_CFG, 0, 8⟩
abbrev HBM_TRN_STATUS.CA_ERR : RFld := ⟨.HBM_TRN_STATUS, 63, 1⟩
abbrev HBM_TRN_STATUS.RESULT : RFld := ⟨.HBM_TRN_STATUS, 38, 4⟩
abbrev HBM_TRN_STATUS.LANE_ERR : RFld := ⟨.HBM_TRN_STATUS, 0, 38⟩
abbrev HBM_PORT_RD_CNT.CNT : RFld := ⟨.HBM_PORT_RD_CNT, 0, 64⟩
abbrev HBM_PORT_WR_CNT.CNT : RFld := ⟨.HBM_PORT_WR_CNT, 0, 64⟩
abbrev HBM_PORT_LATE_CNT.CNT : RFld := ⟨.HBM_PORT_LATE_CNT, 0, 48⟩
abbrev HBM_PORT_HOLD_CNT.CNT : RFld := ⟨.HBM_PORT_HOLD_CNT, 0, 48⟩
abbrev HBM_PC_STATE.STATE : RFld := ⟨.HBM_PC_STATE, 0, 3⟩
abbrev HBM_PC_REPAIR.EN1 : RFld := ⟨.HBM_PC_REPAIR, 15, 1⟩
abbrev HBM_PC_REPAIR.LANE1 : RFld := ⟨.HBM_PC_REPAIR, 8, 6⟩
abbrev HBM_PC_REPAIR.EN0 : RFld := ⟨.HBM_PC_REPAIR, 7, 1⟩
abbrev HBM_PC_REPAIR.LANE0 : RFld := ⟨.HBM_PC_REPAIR, 0, 6⟩
abbrev HBM_PC_RD_CNT.CNT : RFld := ⟨.HBM_PC_RD_CNT, 0, 64⟩
abbrev HBM_PC_WR_CNT.CNT : RFld := ⟨.HBM_PC_WR_CNT, 0, 64⟩
abbrev HBM_PC_CE_CNT.CNT : RFld := ⟨.HBM_PC_CE_CNT, 0, 48⟩
abbrev HBM_PC_UE_CNT.CNT : RFld := ⟨.HBM_PC_UE_CNT, 0, 48⟩
abbrev HBM_PC_RETRAIN_CNT.CNT : RFld := ⟨.HBM_PC_RETRAIN_CNT, 0, 48⟩
abbrev HBM_PC_REF_OWED_MAX.MAX : RFld := ⟨.HBM_PC_REF_OWED_MAX, 0, 4⟩
abbrev HBM_PC_DLY.VREF : RFld := ⟨.HBM_PC_DLY, 16, 6⟩
abbrev HBM_PC_DLY.WR : RFld := ⟨.HBM_PC_DLY, 8, 8⟩
abbrev HBM_PC_DLY.RD : RFld := ⟨.HBM_PC_DLY, 0, 8⟩
abbrev HBM_DMA_SRC.SRC : RFld := ⟨.HBM_DMA_SRC, 0, 64⟩
abbrev HBM_DMA_DST.DST : RFld := ⟨.HBM_DMA_DST, 0, 48⟩
abbrev HBM_DMA_LEN.LEN : RFld := ⟨.HBM_DMA_LEN, 0, 36⟩
abbrev HBM_DMA_CFG.EVQ : RFld := ⟨.HBM_DMA_CFG, 10, 6⟩
abbrev HBM_DMA_CFG.NOTIFY : RFld := ⟨.HBM_DMA_CFG, 9, 1⟩
abbrev HBM_DMA_CFG.DOMAIN : RFld := ⟨.HBM_DMA_CFG, 3, 6⟩
abbrev HBM_DMA_CFG.OP : RFld := ⟨.HBM_DMA_CFG, 0, 2⟩
abbrev HBM_DMA_CMD.ABORT : RFld := ⟨.HBM_DMA_CMD, 2, 1⟩
abbrev HBM_DMA_CMD.RESUME : RFld := ⟨.HBM_DMA_CMD, 1, 1⟩
abbrev HBM_DMA_CMD.START : RFld := ⟨.HBM_DMA_CMD, 0, 1⟩
abbrev HBM_DMA_STATUS.STATE : RFld := ⟨.HBM_DMA_STATUS, 60, 3⟩
abbrev HBM_DMA_STATUS.BYTES_DONE : RFld := ⟨.HBM_DMA_STATUS, 0, 36⟩
abbrev IOM_CMD.GO : RFld := ⟨.IOM_CMD, 63, 1⟩
abbrev IOM_CMD.OP : RFld := ⟨.IOM_CMD, 32, 4⟩
abbrev IOM_CMD.DOMAIN : RFld := ⟨.IOM_CMD, 0, 6⟩
abbrev IOM_CMD_IOVA.IOVA : RFld := ⟨.IOM_CMD_IOVA, 12, 36⟩
abbrev IOM_CMD_PAGES.PAGES : RFld := ⟨.IOM_CMD_PAGES, 0, 36⟩
abbrev IOM_WALK_CNT.CNT : RFld := ⟨.IOM_WALK_CNT, 0, 64⟩
abbrev IOM_FAULT_CNT.CNT : RFld := ⟨.IOM_FAULT_CNT, 0, 48⟩
abbrev IOM_DOM_CFG.EN : RFld := ⟨.IOM_DOM_CFG, 63, 1⟩
abbrev IOM_DOM_CFG.ROOT : RFld := ⟨.IOM_DOM_CFG, 12, 34⟩
abbrev IOM_DOM_CFG.EVQ : RFld := ⟨.IOM_DOM_CFG, 4, 6⟩
abbrev IOM_DOM_CFG.NOTICE_EN : RFld := ⟨.IOM_DOM_CFG, 0, 1⟩
abbrev IOM_FQ_COUNT.COUNT : RFld := ⟨.IOM_FQ_COUNT, 0, 7⟩
abbrev IOM_FQ_LOST_CNT.CNT : RFld := ⟨.IOM_FQ_LOST_CNT, 0, 48⟩
abbrev IOM_FQ_POP.POP : RFld := ⟨.IOM_FQ_POP, 0, 1⟩
abbrev IOM_FQ_REC.REC : RFld := ⟨.IOM_FQ_REC, 0, 64⟩
abbrev TIM_XSNAP.GO : RFld := ⟨.TIM_XSNAP, 0, 1⟩
abbrev TIM_XSNAP_SEC.SEC : RFld := ⟨.TIM_XSNAP_SEC, 0, 48⟩
abbrev TIM_XSNAP_NS.NS : RFld := ⟨.TIM_XSNAP_NS, 16, 32⟩
abbrev TIM_XSNAP_NS.FRAC : RFld := ⟨.TIM_XSNAP_NS, 0, 16⟩
abbrev TIM_TB_CFG.EVQ : RFld := ⟨.TIM_TB_CFG, 17, 6⟩
abbrev TIM_TB_CFG.NOTICE_EN : RFld := ⟨.TIM_TB_CFG, 16, 1⟩
abbrev TIM_TB_CFG.K : RFld := ⟨.TIM_TB_CFG, 12, 4⟩
abbrev TIM_TB_CFG.FOLLOW : RFld := ⟨.TIM_TB_CFG, 8, 3⟩
abbrev TIM_TB_CFG.SRC : RFld := ⟨.TIM_TB_CFG, 5, 2⟩
abbrev TIM_TB_CFG.GRP : RFld := ⟨.TIM_TB_CFG, 0, 5⟩
abbrev TIM_TB_RATE.RATE_ADJ : RFld := ⟨.TIM_TB_RATE, 0, 40⟩
abbrev TIM_TB_SET_SEC.SEC : RFld := ⟨.TIM_TB_SET_SEC, 0, 48⟩
abbrev TIM_TB_SET_NS.NS : RFld := ⟨.TIM_TB_SET_NS, 16, 32⟩
abbrev TIM_TB_SET_NS.FRAC : RFld := ⟨.TIM_TB_SET_NS, 0, 16⟩
abbrev TIM_TB_CMD.GO : RFld := ⟨.TIM_TB_CMD, 63, 1⟩
abbrev TIM_TB_CMD.OP : RFld := ⟨.TIM_TB_CMD, 32, 4⟩
abbrev TIM_TB_STATUS.SET_DONE : RFld := ⟨.TIM_TB_STATUS, 63, 1⟩
abbrev TIM_TB_STATUS.LOCKED : RFld := ⟨.TIM_TB_STATUS, 62, 1⟩
abbrev TIM_TB_STATUS.SRC_LOST : RFld := ⟨.TIM_TB_STATUS, 61, 1⟩
abbrev TIM_TB_STATUS.SLEWING : RFld := ⟨.TIM_TB_STATUS, 60, 1⟩
abbrev TIM_TB_STATUS.RESULT : RFld := ⟨.TIM_TB_STATUS, 0, 4⟩
abbrev TIM_TB_NOW_SEC.SEC : RFld := ⟨.TIM_TB_NOW_SEC, 0, 48⟩
abbrev TIM_TB_NOW_NS.NS : RFld := ⟨.TIM_TB_NOW_NS, 16, 32⟩
abbrev TIM_TB_NOW_NS.FRAC : RFld := ⟨.TIM_TB_NOW_NS, 0, 16⟩
abbrev TIM_TB_SLEW_OFF.OFF : RFld := ⟨.TIM_TB_SLEW_OFF, 0, 48⟩
abbrev TIM_TB_SLEW_RATE.RATE : RFld := ⟨.TIM_TB_SLEW_RATE, 0, 39⟩
abbrev TIM_TB_SRC_LOST_CNT.CNT : RFld := ⟨.TIM_TB_SRC_LOST_CNT, 0, 48⟩
abbrev TIM_IN_CFG.EVQ : RFld := ⟨.TIM_IN_CFG, 42, 6⟩
abbrev TIM_IN_CFG.NOTICE_EN : RFld := ⟨.TIM_IN_CFG, 41, 1⟩
abbrev TIM_IN_CFG.TB : RFld := ⟨.TIM_IN_CFG, 38, 3⟩
abbrev TIM_IN_CFG.EDGE : RFld := ⟨.TIM_IN_CFG, 32, 2⟩
abbrev TIM_IN_CFG.MIN_NS : RFld := ⟨.TIM_IN_CFG, 0, 32⟩
abbrev TIM_IN_LAST_SEC.SEC : RFld := ⟨.TIM_IN_LAST_SEC, 0, 48⟩
abbrev TIM_IN_LAST_NS.NS : RFld := ⟨.TIM_IN_LAST_NS, 16, 32⟩
abbrev TIM_IN_LAST_NS.FRAC : RFld := ⟨.TIM_IN_LAST_NS, 0, 16⟩
abbrev TIM_IN_EVT_CNT.CNT : RFld := ⟨.TIM_IN_EVT_CNT, 0, 48⟩
abbrev TIM_IN_IGN_CNT.CNT : RFld := ⟨.TIM_IN_IGN_CNT, 0, 48⟩
abbrev TIM_IN_STATUS.LEVEL : RFld := ⟨.TIM_IN_STATUS, 1, 1⟩
abbrev TIM_IN_STATUS.LOST : RFld := ⟨.TIM_IN_STATUS, 0, 1⟩
abbrev TIM_OUT_CFG.CFG_ERR : RFld := ⟨.TIM_OUT_CFG, 63, 1⟩
abbrev TIM_OUT_CFG.WIDTH_NS : RFld := ⟨.TIM_OUT_CFG, 4, 28⟩
abbrev TIM_OUT_CFG.TB : RFld := ⟨.TIM_OUT_CFG, 1, 3⟩
abbrev TIM_OUT_CFG.EN : RFld := ⟨.TIM_OUT_CFG, 0, 1⟩
abbrev TIM_OUT_START_SEC.SEC : RFld := ⟨.TIM_OUT_START_SEC, 0, 48⟩
abbrev TIM_OUT_START_NS.NS : RFld := ⟨.TIM_OUT_START_NS, 0, 30⟩
abbrev TIM_OUT_PERIOD.NS : RFld := ⟨.TIM_OUT_PERIOD, 16, 32⟩
abbrev TIM_OUT_PERIOD.FRAC : RFld := ⟨.TIM_OUT_PERIOD, 0, 16⟩
abbrev TIM_PORT_CORR.RX_CORR : RFld := ⟨.TIM_PORT_CORR, 32, 32⟩
abbrev TIM_PORT_CORR.TX_CORR : RFld := ⟨.TIM_PORT_CORR, 0, 32⟩
abbrev TIM_TXQ_CFG.NOTICE_EN : RFld := ⟨.TIM_TXQ_CFG, 7, 1⟩
abbrev TIM_TXQ_CFG.EVQ : RFld := ⟨.TIM_TXQ_CFG, 0, 6⟩
abbrev TIM_TXQ_STATUS.COUNT : RFld := ⟨.TIM_TXQ_STATUS, 0, 5⟩
abbrev TIM_TXQ_HEAD0.W : RFld := ⟨.TIM_TXQ_HEAD0, 0, 64⟩
abbrev TIM_TXQ_HEAD1.W : RFld := ⟨.TIM_TXQ_HEAD1, 0, 64⟩
abbrev TIM_TXQ_POP.POP : RFld := ⟨.TIM_TXQ_POP, 0, 1⟩
abbrev TIM_TXQ_OVF_CNT.CNT : RFld := ⟨.TIM_TXQ_OVF_CNT, 0, 48⟩
abbrev TIM_ONESTEP_SKIP_CNT.CNT : RFld := ⟨.TIM_ONESTEP_SKIP_CNT, 0, 48⟩
abbrev ERR_CFG.FATAL_RESET_MS : RFld := ⟨.ERR_CFG, 32, 16⟩
abbrev ERR_CFG.NOTICE_EN : RFld := ⟨.ERR_CFG, 8, 3⟩
abbrev ERR_CFG.HART : RFld := ⟨.ERR_CFG, 0, 3⟩
abbrev ERR_STATUS.FATAL_FULL : RFld := ⟨.ERR_STATUS, 3, 1⟩
abbrev ERR_STATUS.SLOT_FULL : RFld := ⟨.ERR_STATUS, 0, 3⟩
abbrev ERR_SLOT_W.W : RFld := ⟨.ERR_SLOT_W, 0, 64⟩
abbrev ERR_LOG_COUNT.COUNT : RFld := ⟨.ERR_LOG_COUNT, 0, 7⟩
abbrev ERR_LOG_POP.POP : RFld := ⟨.ERR_LOG_POP, 0, 4⟩
abbrev ERR_LOG_HEAD_W.W : RFld := ⟨.ERR_LOG_HEAD_W, 0, 64⟩
abbrev ERR_LOG_OVF_CNT.CNT : RFld := ⟨.ERR_LOG_OVF_CNT, 0, 48⟩
abbrev ERR_CLASS_CNT.CNT : RFld := ⟨.ERR_CLASS_CNT, 0, 48⟩
abbrev ERR_INJECT.GO : RFld := ⟨.ERR_INJECT, 63, 1⟩
abbrev ERR_INJECT.SUBSYS : RFld := ⟨.ERR_INJECT, 48, 4⟩
abbrev ERR_INJECT.CODE : RFld := ⟨.ERR_INJECT, 40, 8⟩
abbrev ERR_INJECT.INST : RFld := ⟨.ERR_INJECT, 0, 16⟩
abbrev ERR_INJECT_INFO.INFO : RFld := ⟨.ERR_INJECT_INFO, 0, 64⟩
abbrev ERR_TRACE_COUNT.CNT : RFld := ⟨.ERR_TRACE_COUNT, 0, 48⟩
abbrev ERR_TRACE_LOST_CNT.CNT : RFld := ⟨.ERR_TRACE_LOST_CNT, 0, 48⟩
abbrev ERR_TRACE_RD_ADDR.ADDR : RFld := ⟨.ERR_TRACE_RD_ADDR, 0, 17⟩
abbrev ERR_TRACE_RD_DATA.DATA : RFld := ⟨.ERR_TRACE_RD_DATA, 0, 64⟩
abbrev ERR_TRACE_WR.W : RFld := ⟨.ERR_TRACE_WR, 0, 64⟩
abbrev ERR_THERM_CFG.CFG_ERR : RFld := ⟨.ERR_THERM_CFG, 63, 1⟩
abbrev ERR_THERM_CFG.TRIP : RFld := ⟨.ERR_THERM_CFG, 24, 8⟩
abbrev ERR_THERM_CFG.THR_HI : RFld := ⟨.ERR_THERM_CFG, 16, 8⟩
abbrev ERR_THERM_CFG.THR_LO : RFld := ⟨.ERR_THERM_CFG, 8, 8⟩
abbrev ERR_THERM_CFG.MIN_DUTY : RFld := ⟨.ERR_THERM_CFG, 0, 4⟩
abbrev ERR_THERM_STATUS.TJ : RFld := ⟨.ERR_THERM_STATUS, 16, 16⟩
abbrev ERR_THERM_STATUS.DUTY : RFld := ⟨.ERR_THERM_STATUS, 8, 4⟩
abbrev ERR_THERM_STATUS.THROTTLING : RFld := ⟨.ERR_THERM_STATUS, 0, 1⟩
abbrev ERR_THERM_CNT.CNT : RFld := ⟨.ERR_THERM_CNT, 0, 48⟩
abbrev ERR_LIFE_ACC.ACC : RFld := ⟨.ERR_LIFE_ACC, 0, 64⟩
abbrev CTL_ID.PART : RFld := ⟨.CTL_ID, 16, 16⟩
abbrev CTL_ID.STEP : RFld := ⟨.CTL_ID, 0, 16⟩
abbrev CTL_MSIP.MSIP : RFld := ⟨.CTL_MSIP, 0, 1⟩
abbrev CTL_MTIMECMP.CMP : RFld := ⟨.CTL_MTIMECMP, 0, 64⟩
abbrev CTL_MTIME.TIME : RFld := ⟨.CTL_MTIME, 0, 64⟩
abbrev CTL_EXT_M.Q : RFld := ⟨.CTL_EXT_M, 0, 64⟩
abbrev CTL_EXT_S.Q : RFld := ⟨.CTL_EXT_S, 0, 64⟩
abbrev CTL_MGT_CFG.EVQ : RFld := ⟨.CTL_MGT_CFG, 10, 6⟩
abbrev CTL_MGT_CFG.MCAST_EN : RFld := ⟨.CTL_MGT_CFG, 3, 1⟩
abbrev CTL_MGT_CFG.AN_EN : RFld := ⟨.CTL_MGT_CFG, 2, 1⟩
abbrev CTL_MGT_CFG.MODE : RFld := ⟨.CTL_MGT_CFG, 1, 1⟩
abbrev CTL_MGT_CFG.EN : RFld := ⟨.CTL_MGT_CFG, 0, 1⟩
abbrev CTL_MGT_STATUS.DUPLEX : RFld := ⟨.CTL_MGT_STATUS, 3, 1⟩
abbrev CTL_MGT_STATUS.SPEED : RFld := ⟨.CTL_MGT_STATUS, 1, 2⟩
abbrev CTL_MGT_STATUS.LINK : RFld := ⟨.CTL_MGT_STATUS, 0, 1⟩
abbrev CTL_MGT_MAC.MAC : RFld := ⟨.CTL_MGT_MAC, 0, 48⟩
abbrev CTL_MGT_RX_BASE.BASE : RFld := ⟨.CTL_MGT_RX_BASE, 12, 34⟩
abbrev CTL_MGT_RX_CFG.BUFSZ : RFld := ⟨.CTL_MGT_RX_CFG, 12, 8⟩
abbrev CTL_MGT_RX_CFG.LOG2_SIZE : RFld := ⟨.CTL_MGT_RX_CFG, 1, 4⟩
abbrev CTL_MGT_RX_CFG.EN : RFld := ⟨.CTL_MGT_RX_CFG, 0, 1⟩
abbrev CTL_MGT_RX_HEAD.HEAD : RFld := ⟨.CTL_MGT_RX_HEAD, 0, 16⟩
abbrev CTL_MGT_RX_TAIL.TAIL : RFld := ⟨.CTL_MGT_RX_TAIL, 0, 16⟩
abbrev CTL_MGT_TX_BASE.BASE : RFld := ⟨.CTL_MGT_TX_BASE, 12, 34⟩
abbrev CTL_MGT_TX_CFG.LOG2_SIZE : RFld := ⟨.CTL_MGT_TX_CFG, 1, 4⟩
abbrev CTL_MGT_TX_CFG.EN : RFld := ⟨.CTL_MGT_TX_CFG, 0, 1⟩
abbrev CTL_MGT_TX_HEAD.HEAD : RFld := ⟨.CTL_MGT_TX_HEAD, 0, 16⟩
abbrev CTL_MGT_TX_TAIL.TAIL : RFld := ⟨.CTL_MGT_TX_TAIL, 0, 16⟩
abbrev CTL_MGT_RX_FRM_CNT.CNT : RFld := ⟨.CTL_MGT_RX_FRM_CNT, 0, 64⟩
abbrev CTL_MGT_RX_OVF_CNT.CNT : RFld := ⟨.CTL_MGT_RX_OVF_CNT, 0, 48⟩
abbrev CTL_MGT_RX_ERR_CNT.CNT : RFld := ⟨.CTL_MGT_RX_ERR_CNT, 0, 48⟩
abbrev CTL_MGT_RX_DISCARD_CNT.CNT : RFld := ⟨.CTL_MGT_RX_DISCARD_CNT, 0, 48⟩
abbrev CTL_MGT_TX_FRM_CNT.CNT : RFld := ⟨.CTL_MGT_TX_FRM_CNT, 0, 64⟩
abbrev CTL_MDIO_CMD.GO : RFld := ⟨.CTL_MDIO_CMD, 63, 1⟩
abbrev CTL_MDIO_CMD.OP : RFld := ⟨.CTL_MDIO_CMD, 32, 2⟩
abbrev CTL_MDIO_CMD.PRTAD : RFld := ⟨.CTL_MDIO_CMD, 24, 5⟩
abbrev CTL_MDIO_CMD.DEVAD : RFld := ⟨.CTL_MDIO_CMD, 16, 5⟩
abbrev CTL_MDIO_CMD.DATA : RFld := ⟨.CTL_MDIO_CMD, 0, 16⟩
abbrev CTL_MDIO_DATA.DATA : RFld := ⟨.CTL_MDIO_DATA, 0, 16⟩
abbrev CTL_MDIO_CFG.DIV : RFld := ⟨.CTL_MDIO_CFG, 0, 8⟩
abbrev CTL_RYU_CFG.FW_HART : RFld := ⟨.CTL_RYU_CFG, 0, 3⟩
abbrev CTL_RYU_PEND.PEND : RFld := ⟨.CTL_RYU_PEND, 0, 8⟩
abbrev CTL_RESET.KEY : RFld := ⟨.CTL_RESET, 16, 16⟩
abbrev CTL_RESET.GO : RFld := ⟨.CTL_RESET, 0, 1⟩
abbrev CTL_RYU_DOORBELL.CHANNEL : RFld := ⟨.CTL_RYU_DOORBELL, 0, 3⟩
abbrev CTL_EVQ_CFG.EN : RFld := ⟨.CTL_EVQ_CFG, 63, 1⟩
abbrev CTL_EVQ_CFG.LOG2_SIZE : RFld := ⟨.CTL_EVQ_CFG, 59, 4⟩
abbrev CTL_EVQ_CFG.TGT_HART : RFld := ⟨.CTL_EVQ_CFG, 56, 3⟩
abbrev CTL_EVQ_CFG.TGT_PRIV : RFld := ⟨.CTL_EVQ_CFG, 55, 1⟩
abbrev CTL_EVQ_CFG.NOTICE_EN : RFld := ⟨.CTL_EVQ_CFG, 54, 1⟩
abbrev CTL_EVQ_CFG.BASE : RFld := ⟨.CTL_EVQ_CFG, 4, 42⟩
abbrev CTL_EVQ_STATUS.ITEMS : RFld := ⟨.CTL_EVQ_STATUS, 32, 13⟩
abbrev CTL_EVQ_STATUS.ENTRIES : RFld := ⟨.CTL_EVQ_STATUS, 0, 13⟩
abbrev CTL_EVQ_HEAD.HEAD : RFld := ⟨.CTL_EVQ_HEAD, 0, 64⟩
abbrev CTL_EVQ_CMD.FLUSH : RFld := ⟨.CTL_EVQ_CMD, 0, 1⟩
abbrev CTL_EVQ_NOTICE.PEND : RFld := ⟨.CTL_EVQ_NOTICE, 0, 1⟩
abbrev CTL_EVQ_ITEM_CNT.CNT : RFld := ⟨.CTL_EVQ_ITEM_CNT, 0, 64⟩
abbrev CTL_EVQ_LOST_CNT.CNT : RFld := ⟨.CTL_EVQ_LOST_CNT, 0, 48⟩
abbrev CTL_EVQ_FLUSH_PARTIAL_CNT.CNT : RFld := ⟨.CTL_EVQ_FLUSH_PARTIAL_CNT, 0, 48⟩
abbrev CTL_EVQ_LATCH.W : RFld := ⟨.CTL_EVQ_LATCH, 0, 64⟩
abbrev SEC_STATUS.FAIL : RFld := ⟨.SEC_STATUS, 16, 8⟩
abbrev SEC_STATUS.LIFECYCLE : RFld := ⟨.SEC_STATUS, 10, 2⟩
abbrev SEC_STATUS.CFG_DEFAULT : RFld := ⟨.SEC_STATUS, 9, 1⟩
abbrev SEC_STATUS.SLOT_B : RFld := ⟨.SEC_STATUS, 8, 1⟩
abbrev SEC_STATUS.DEBUG : RFld := ⟨.SEC_STATUS, 7, 1⟩
abbrev SEC_STATUS.LOCKED : RFld := ⟨.SEC_STATUS, 6, 1⟩
abbrev SEC_STATUS.AK_VALID : RFld := ⟨.SEC_STATUS, 5, 1⟩
abbrev SEC_STATUS.BOOT_STATE : RFld := ⟨.SEC_STATUS, 0, 2⟩
abbrev SEC_BOOT_MASK.MASK : RFld := ⟨.SEC_BOOT_MASK, 0, 64⟩
abbrev SEC_NET_V4.V4_EN : RFld := ⟨.SEC_NET_V4, 63, 1⟩
abbrev SEC_NET_V4.ADDR : RFld := ⟨.SEC_NET_V4, 0, 32⟩
abbrev SEC_NET_V6_LO.W : RFld := ⟨.SEC_NET_V6_LO, 0, 64⟩
abbrev SEC_NET_V6_HI.W : RFld := ⟨.SEC_NET_V6_HI, 0, 64⟩
abbrev SEC_NET_V6_EN.EN : RFld := ⟨.SEC_NET_V6_EN, 0, 1⟩
abbrev SEC_MBX_DB_M.RING : RFld := ⟨.SEC_MBX_DB_M, 0, 1⟩
abbrev SEC_NET_CFG.MIN_US : RFld := ⟨.SEC_NET_CFG, 0, 32⟩
abbrev SEC_MBX_DB_S.RING : RFld := ⟨.SEC_MBX_DB_S, 0, 1⟩
abbrev SEC_REPORT_CNT.CNT : RFld := ⟨.SEC_REPORT_CNT, 0, 48⟩
abbrev SEC_NET_REQ_CNT.CNT : RFld := ⟨.SEC_NET_REQ_CNT, 0, 48⟩
abbrev SEC_NET_DROP_CNT.CNT : RFld := ⟨.SEC_NET_DROP_CNT, 0, 48⟩
abbrev SEC_NET_BAD_CNT.CNT : RFld := ⟨.SEC_NET_BAD_CNT, 0, 48⟩
abbrev SEC_TURNIP_BLK_CNT.CNT : RFld := ⟨.SEC_TURNIP_BLK_CNT, 0, 64⟩

end F

end Sys2Proof.Machine
end

