-- ==== Sys2Proof/Config.lean ====
section
/-! DEFINITION. What an implementation fixes and the free values: every value the spec leaves open, as a constant with
no body. Nothing in Lean can evaluate one, so a statement holds whatever it is. The log entry that names each stands in
brackets. -/

namespace Sys2Proof.Config

/-- A fresh free value: draw number n of the model's counter, kind k (log 2). -/
opaque free : (k n : Nat) → Nat

/-- Silicon stepping of CTL_ID (14 R405: by silicon) (log 10). -/
opaque siliconStep : BitVec 16

/-- Boot ROM version of the fuse record (15 R437) (log 10). -/
opaque bootRomVersion : BitVec 32

/-- Contents of the boot ROM (01 R22) (log 10). -/
opaque romByte : Nat → BitVec 8

/-- Firmware version that Ryutal VERSION reports (14 R423) (log 10). -/
opaque firmwareVersion : BitVec 64

/-- Row of a pseudo-channel's local offset: the controller's own choice (12 R351) (log 11). -/
opaque rowOf : (pc localOffset : Nat) → Nat

/-- Which translation cache entry is given up (12 R373) (log 12). -/
opaque cacheVictim : Nat → Nat

/-- Whether the frequency lock rounds an inexact step up (12 R382 gives no rounding) (log 13). -/
opaque lockRoundUp : Int → Nat → Bool

/-- Which of the lines that the L2 holds modified or poisoned it gives up after an access, if any (14 R404) (log 53). -/
opaque l2Victim : Nat → Option Nat

/-- HBM contents after a full reset: not guaranteed (16 R467) (log 4). -/
opaque hbmAfterReset : Nat → List (Nat × Byte) → List (Nat × Byte)

/-- Whether a chunk that meets a memory error has written its bytes below the failing burst (12 R379: may) (log 14). -/
opaque chunkPartial : Nat → Bool

/-- Byte of a training pattern: SEED, PAT, offset in the region; the spec gives no LFSR or lane order (12 R365)
(log 11). -/
opaque trainPattern : (seed pat off : Nat) → Byte

/-- Data and ECC lanes that carry a byte of a pseudo-channel, by local offset; the spec gives no lane order (12 R365)
(log 11). -/
opaque byteLanes : Nat → BitVec 38

/-- A random 32-byte value of the entropy source (15 R450) (log 15). -/
opaque random32 : Nat → BitVec 256

/-- The random nonce of an ECDSA signature (15 R446) (log 15). -/
opaque signNonce : Nat → Nat

/-- The signature that VERIFY checks a 176-byte header against: R440 gives it no place in the request (log 24). -/
opaque osSignature : List Byte → List Byte

/-- Words 0 and 511 of the default boot configuration, which the spec does not give (15 R429) (log 21). -/
opaque defaultWord : Nat → BitVec 64

/-- Features offered by the firmware image beyond BASE: bits 1 to 6 (14 R424) (log 10). -/
opaque offeredFeatures : BitVec 7

/-- TTL or hop limit and identification of a network answer, which the spec does not give (15 R445) (log 21). -/
opaque netTtl : BitVec 8
opaque netId : Nat → BitVec 16

/-- Which free packet buffer cell is taken next: the spec gives no order of the free list (05 R154) (log 26). -/
opaque cellPick : Nat → Nat

/-- The 42-byte header that the injection path places in front of an RTP packet; the spec gives its length alone
(07 R233) (log 28). -/
opaque injHeader : Nat → List Byte

/-- Bytes of a stored frame that PKT_RD reads after its cart has released it: the spec gives none (07 R227) (log 40). -/
opaque releasedFrame : Nat → List Byte

/-- RESULT of a decode or encode cart: the spec gives these engines no codes (06 R192). name says which end it is (decode:
1 BAD_RECORD, 2 NOT_OPEN, 3 STALE, 4 MEM, 5 OK, 6 OK with event AUTH; encode: 11 BAD_RECORD, 12 NOT_OPEN, 13
SRC_NOT_READY, 14 SRC_TIMEOUT, 15 SRC_MISMATCH, 16 SRC_TORN, 17 MEM, 18 OK); n is a draw (log 45). -/
opaque engineResult : (name n : Nat) → Word

/-- Stream that word 2 of a software VDEC cart names: the spec gives the place to none (10 R318) (log 46). -/
opaque cartStream : Word → BitVec 20

/-- HOME × 256 + LADDER that word 2 of a VENC cart names: the spec gives the place to none (10 R320) (log 46). -/
opaque cartLadder : Word → BitVec 13

/-- Frames of a raw access unit, each with its spatial layer (10 R318) (log 47). -/
opaque auFrames : (codec : Nat) → List Byte → List (Nat × List Byte)

/-- Profiles that a bitstream may name (10 R303). -/
inductive Profile where
  | constrainedBaseline
  | main
  | high
  | main10
  | profile0
  | other
  deriving Inhabited, DecidableEq, Repr

/-- Tools that 10 R303 names as not supported, and AV1's film grain. -/
inductive Tool where
  | field
  | mbaff
  | fmo
  | aso
  | redundantSlice
  | rangeExtension
  | screenContent
  | multiLayer
  | largeScaleTile
  | filmGrain
  deriving Inhabited, DecidableEq, Repr

/-- What a codec finds in a frame (10 R303, R313 to R316): whether its syntax is right, its size, profile, ten times its
level, sample depth, whether its chroma is 4:2:0 or it is monochrome, the tools it uses, whether it is a key frame, the
reference slots it uses, their count, the slots it refreshes; for H.264 its frame_num, MaxFrameNum and whether it is a
reference; for H.265 its picture order count and those of its reference picture set; its temporal layer, the name of the
decoder's history after it. -/
structure CodedFrame where
  good : Bool
  width : BitVec 13
  height : BitVec 13
  profile : Profile
  level : Nat
  depth : Nat
  c420 : Bool
  mono : Bool
  tools : List Tool
  key : Bool
  refs : BitVec 16
  nrefs : Nat
  refresh : BitVec 16
  number : Nat
  range : Nat
  reference : Bool
  rps : List Nat
  tl : BitVec 3
  next : Nat
  deriving Inhabited, DecidableEq, Repr

/-- A frame read by its codec: history, codec, bitstream bytes (log 47). -/
opaque decodeFrame : (hist codec : Nat) → List Byte → CodedFrame

/-- Slots that a lost frame would have refreshed (10 R314): history, codec, the bytes held of it (log 47). -/
opaque lostRefresh : (hist codec : Nat) → List Byte → BitVec 16

/-- Decodes whose pictures are due for output at a point of the decoder's history, in output order (10 R303) (log 47). -/
opaque outputOrder : (hist : Nat) → List Nat

/-- Byte of a decoded picture's planes: decode, offset after the header page (log 47). -/
opaque decodedByte : (made off : Nat) → Byte

/-- Which picture of a pool a decode takes among those it may reuse (10 R308) (log 48). -/
opaque poolPick : (hist : Nat) → Nat

/-- Reads and writes that an engine makes in an area of its own (bitstream buffer, codec state, reference pictures,
ladder state): offset and length, offset and bytes; the spec leaves the areas' layout to the engines (log 48). -/
opaque areaReads : (n size : Nat) → List (Nat × Nat)
opaque areaWrites : (n size : Nat) → List (Nat × List Byte)

/-- Bytes that the part writes in an event queue's storage, by offset: where and in what form is its own affair (14 R406)
(log 74). -/
opaque queueWrites : (n size : Nat) → List (Nat × List Byte)

/-- The opaque words of a stream or ladder record that hardware keeps (10 R307, R319) (log 48). -/
opaque engineWord : (n : Nat) → Word

/-- A reference of a rung frame (10 R325): the previous T0 of the rung, its latest earlier T0 or T1, the rung below of the
same picture. -/
inductive RungRef where
  | prevT0
  | prevT0T1
  | below
  deriving Inhabited, DecidableEq, Repr

/-- What a rung frame is to be (10 R304, R325, R327): the ladder's MODE, the rung, its size and frame rate, whether its
picture is a key frame, whether it starts its rung, its temporal layer, its references, its quantizer and those of the
rungs below. No encoding uses B-frames or interlace, MODE 2 uses CABAC and the 8×8 transform, MODES 0 and 1 do not. -/
structure RungSpec where
  mode : Nat
  rung : Nat
  width : Nat
  height : Nat
  fps : Nat
  key : Bool
  starts : Bool
  tl : Nat
  refs : List RungRef
  qp : Nat
  lower : List Nat
  deriving Inhabited, DecidableEq, Repr

/-- Coded data of a rung frame, slice by slice: encoder history, what it is to be, the rows of its source (10 R304)
(log 47). -/
opaque codedSlices : (hist : Nat) → RungSpec → List (List Byte) → List (List Byte)

/-- Sequence header of AV1, and SPS and PPS of H.264, behind their fixed first bytes, and the level (10 R304, R326)
(log 47). -/
opaque sequenceHeader : (hist : Nat) → RungSpec → List Byte
opaque pictureHeader : (hist : Nat) → RungSpec → List Byte
opaque codedLevel : (hist : Nat) → RungSpec → Nat

/-- Which quantizer rate control takes among those that hold the buffer (10 R327) (log 47). -/
opaque quantizer : (hist rung : Nat) → Nat

/-- Name of the encoder's history after a frame (10 R322, R327) (log 47). -/
opaque encoderNext : (hist n : Nat) → Nat

end Sys2Proof.Config
end

