-- ==== Sys2Proof/Machine/Tbl.lean ====
section
/-! DEFINITION. Sparse tables in one canonical form: keys strictly rising, no entry equal to what an unlisted key
reads as. Memories, register files and record stores are such tables. -/

namespace Sys2Proof.Machine

/-- A sparse table: entries by key. -/
abbrev Tbl (α : Type) := List (Nat × α)

/-- The entry at a key, if it is listed. -/
def Tbl.find {α : Type} : Tbl α → Nat → Option α
  | [], _ => none
  | (k, v) :: t, q => if k = q then some v else Tbl.find t q

/-- The value at a key; d where the key is not listed. -/
def Tbl.at {α : Type} (d : α) (t : Tbl α) (q : Nat) : α := (Tbl.find t q).getD d

/-- The table without a key. -/
def Tbl.erase {α : Type} (t : Tbl α) (q : Nat) : Tbl α := t.filter fun e => decide (e.1 ≠ q)

/-- The table with a key set to a value, keys kept rising. -/
def Tbl.insert {α : Type} : Tbl α → Nat → α → Tbl α
  | [], q, x => [(q, x)]
  | (k, v) :: t, q, x =>
    if q < k then (q, x) :: (k, v) :: t
    else if q = k then (q, x) :: t
    else (k, v) :: Tbl.insert t q x

/-- Set a key: a value equal to what an unlisted key reads as removes the entry. -/
@[irreducible] def Tbl.put {α : Type} [DecidableEq α] (d : α) (t : Tbl α) (q : Nat) (x : α) : Tbl α :=
  if x = d then Tbl.erase t q else Tbl.insert t q x

/-- Set consecutive keys from q. -/
def Tbl.putList {α : Type} [DecidableEq α] (d : α) (t : Tbl α) (q : Nat) : List α → Tbl α
  | [] => t
  | x :: xs => Tbl.putList d (Tbl.put d t q x) (q + 1) xs

/-- Read n consecutive keys from q. -/
def Tbl.getList {α : Type} (d : α) (t : Tbl α) (q n : Nat) : List α :=
  (List.range n).map fun i => Tbl.at d t (q + i)

/-- Keys strictly rise from a bound. -/
def Tbl.risesFrom {α : Type} : Nat → Tbl α → Bool
  | _, [] => true
  | b, (k, _) :: t => decide (b ≤ k) && Tbl.risesFrom (k + 1) t

/-- The canonical form: keys strictly rising, no entry equal to d. -/
def Tbl.wf {α : Type} [DecidableEq α] (d : α) (t : Tbl α) : Bool :=
  Tbl.risesFrom 0 t && t.all fun e => decide (e.2 ≠ d)

/-- A field of a record: words per record, the word, its lowest bit and its length. -/
structure RecF where
  stride : Nat
  word   : Nat
  lo     : Nat
  len    : Nat
  deriving DecidableEq, Repr

/-- A word of a record. -/
def recWord (t : Tbl Word) (stride idx w : Nat) : Word := Tbl.at 0 t (idx * stride + w)

/-- All words of a record. -/
def recWords (t : Tbl Word) (stride idx : Nat) : List Word := Tbl.getList 0 t (idx * stride) stride

/-- Replace the words of a record from word w. -/
def putWords (t : Tbl Word) (stride idx w : Nat) (ws : List Word) : Tbl Word :=
  Tbl.putList 0 t (idx * stride + w) ws

/-- The value of a record field. -/
def recGet (t : Tbl Word) (idx : Nat) (f : RecF) : Nat := fld (recWord t f.stride idx f.word) f.lo f.len

/-- A record table with one field replaced. -/
def recSet (t : Tbl Word) (idx : Nat) (f : RecF) (v : Nat) : Tbl Word :=
  Tbl.put 0 t (idx * f.stride + f.word) (setFld (recWord t f.stride idx f.word) f.lo f.len v)

/-- A field of a record given as its list of words. -/
def wordsGet (ws : List Word) (f : RecF) : Nat := fld (ws.getD f.word 0) f.lo f.len

/-- A list of words with one field replaced. -/
def wordsSet (ws : List Word) (f : RecF) (v : Nat) : List Word :=
  ws.set f.word (setFld (ws.getD f.word 0) f.lo f.len v)

end Sys2Proof.Machine
end

