-- ==== Sys2Proof/Machine/State.lean ====
section
/-! DEFINITION. The state of the part: everything the spec gives it, as plain data, with the value each piece has right
after full reset as its default. Registers are held by field in one table (RegMap gives each its reset value); the
rest is one structure per chapter. -/

namespace Sys2Proof.Machine

/-- Why a step stops with a fault. The part has none: the spec answers every access and every failure with an effect on
its state (an error response, a result code, an error record, full reset), so no command of the model raises one. -/
inductive Fault where
  /-- Raised by no command: kept because the interface asks for the type. Safe. -/
  | noFault
  deriving DecidableEq, Repr

/-- Why a command is refused. -/
inductive Refusal where
  /-- A command whose arm has no meaning yet; raised only by Dispatch. Safe: nothing is claimed of it. -/
  | notModelled (mnemonic : String)
  deriving DecidableEq, Repr

/-- Full reset and the pins that drive it (16 R465, R466; 17 R477, R482, R484). -/
@[ext] structure Rst where
  /-- Step of R466 last reached; 5 when full reset is released. -/
  step : Nat := 5
  /-- Level of RESET_N. -/
  resetN : Bool := true
  /-- The 100 MHz core reference is present. -/
  refclk : Bool := true
  /-- Monitored rails below 90% of nominal, by number: 0 VDD_CORE, 1 VDD_PLL, 2 AVDD_SD (17 R482). -/
  railsLow : List Nat := []
  /-- A second Fatal error stopped every clock (16 R461). -/
  halted : Bool := false
  /-- The stacks are in self-refresh (16 R466 step 2). -/
  selfRefresh : Bool := false
  /-- TRST_N is low and the TAP held (17 R477) (log 9). -/
  trstLow : Bool := true
  deriving DecidableEq, Repr

/-- What the register fabric answers a hart and the hart-side lines (14 R401 to R405). -/
@[ext] structure Hart where
  /-- Data of the last load each hart made. -/
  resp : Tbl Word := []
  /-- Cause of the last access fault of each hart: 1, 5, 7; 0 none (R403). -/
  cause : Tbl Nat := []
  /-- mtval of that fault. -/
  mtval : Tbl Word := []
  /-- mie of each hart, as the last command that carried it gave it. -/
  mie : Tbl Nat := []
  /-- SSIP (bit 1) and STIP (bit 5) of each hart, written only by software. -/
  swip : Tbl Nat := []
  /-- MTIP line of each hart. -/
  mtip : Tbl Bool := []
  /-- Fetch address of each hart where the part sets it (16 R466, 15 R433). -/
  fetch : Tbl Nat := []
  /-- Harts that wait in WFI in the boot ROM (15 R433). -/
  wfi : Tbl Bool := []
  /-- The other control and status registers of each hart, by hart × 4,096 + number: satp, mideleg, the PMP entries, the
  counters and their event selectors among them (R401, R405). -/
  csr : Tbl Word := []
  deriving DecidableEq, Repr

/-- A read of CTL_EVQ_HEAD that waits on an empty queue (14 R412). -/
@[ext] structure Stall where
  queue : Nat
  hart  : Nat
  mMode : Bool
  deriving DecidableEq, Repr

/-- The control complex: event queues, scratch, management port, Ryutal firmware (14). -/
@[ext] structure Ctl where
  /-- Items of each event queue, oldest first, as their words (R406, R407). -/
  items : Tbl (List (List Word)) := []
  /-- Latch words by ((queue × 8 + hart) × 2 + 1 for M) × 32 + i (R411). -/
  latch : Tbl Word := []
  /-- Stalled reads, oldest first (R413). -/
  stalls : List Stall := []
  /-- Items of each producer on their way, oldest first: queue and words. The first 16 are in the crossing; a producer
  with more waits with the others (01 R21, R409). -/
  crossing : Tbl (List (Nat × List Word)) := []
  /-- L2-backed scratch, 1 MiB, by offset (01 R22). -/
  scratch : Tbl Byte := []
  /-- Root-of-trust mailbox, 64 KiB, by offset (15 R439). -/
  mailbox : Tbl Byte := []
  /-- 64-byte lines that L2 holds poisoned, by physical address / 64 (R404). -/
  poisoned : List Nat := []
  /-- MDIO frame last sent, as CTL_MDIO_CMD held it (R416). -/
  mdioSent : Option Word := none
  /-- Management frame last transmitted (R418). -/
  mgtSent : Option (List Byte) := none
  /-- Received management frames in the 8 KiB receive crossing, oldest first (R418). -/
  mgtRx : List (List Byte) := []
  /-- Frames of the root of trust that wait between ring frames (R417). -/
  rotTx : List (List Byte) := []
  /-- Accepted Ryutal features (R424). -/
  ryuAccepted : Nat := 0
  /-- The accepted set is locked (R424). -/
  ryuLocked : Bool := false
  /-- ERR_EVENTS_CFG: EN in bit 6, EVQ in [5:0] (R423). -/
  errEvents : Nat := 0
  deriving DecidableEq, Repr

/-- The Error Controller beyond its registers (16). -/
@[ext] structure Err where
  /-- Secondary log of each class, oldest first, 4 words each (R457). -/
  logs : Tbl (List (List Word)) := []
  /-- Classes and CLASS_SEQ of the records held, in the order in which they reached the logs (R457, R458). -/
  arrived : List (Nat × Nat) := []
  /-- Trace ring, 131,072 words (R463), and whether all 32,768 entries have been written (R464). -/
  trace : Tbl Word := []
  traceFull : Bool := false
  /-- FAULT_N is asserted (R460). -/
  faultN : Bool := false
  /-- The media ports are stopped (R460). -/
  mediaStopped : Bool := false
  /-- CLK_PEA and CLK_VID are stopped (R460, THERM_TRIP). -/
  clkStopped : Bool := false
  /-- CLK_TIME cycle at which FATAL_RESET_MS ends (R460). -/
  resetDue : Option Nat := none
  /-- TJ has reached TRIP and has not fallen below it since (R469) (log 17). -/
  tripped : Bool := false
  /-- Poisoned words of records, as (kind, index, word) (R453). Kinds: 0 context, 1 ingress SRTP, 2 egress SRTP, 3 key
  set, 4 source record, 5 conference, 6 subscription, 7 rule block, 8 carriage. -/
  poison : List (Nat × Nat × Nat) := []
  deriving DecidableEq, Repr

/-- One time base: seconds, nanoseconds with 48 fraction bits, the slew remainder in 2^−48 ns (13 R381, R387). -/
@[ext] structure TBase where
  sec : Nat := 0
  f   : Nat := 0
  rem : Int := 0
  deriving DecidableEq, Repr

/-- The Time Unit beyond its registers (13). -/
@[ext] structure Tim where
  tbs : Tbl TBase := []
  /-- Updates in a row that changed RATE_ADJ by less than 2^20 (R382). -/
  lockRun : Tbl Nat := []
  /-- Gates in a row that found a lost source present (R383). -/
  gateRun : Tbl Nat := []
  /-- Latched seconds and f of a time base for a hart, by tb × 8 + hart (R388). -/
  latch : Tbl (Option (Nat × Nat)) := []
  /-- Transmit time-stamp entries of each port, oldest first (R391). -/
  txq : Tbl (List (Word × Word)) := []
  /-- CLK_TIME cycle of the last accepted edge of each input, plus 1; 0 none (R397). -/
  lastEdge : Tbl Nat := []
  /-- CLK_TIME cycle from which a PPS input with no edge is timed (R398). -/
  since : Tbl Nat := []
  /-- Next rise of each output, in 2^−16 ns of its time base (R399). -/
  nextRise : Tbl Nat := []
  /-- Fall of each output that is high. -/
  fallAt : Tbl Nat := []
  /-- Value of a time base when its slew remainder reached 0, plus 1, until SLEW_DONE is posted (R387, R400). -/
  slewDone : Tbl Nat := []
  /-- The receive PCS of each SerDes group has block lock (R383). -/
  blockLock : Tbl Bool := []
  /-- Level of each output pin. -/
  high : Tbl Bool := []
  deriving DecidableEq, Repr

/-- HBM, its controller and its pseudo-channels (12). -/
@[ext] structure Hbm where
  /-- Bytes by physical address from 0x100_0000_0000 (an unlisted byte reads 0: log 4). -/
  mem : Tbl Byte := []
  /-- 32-byte bursts that hold an uncorrectable error, by offset / 32; 1 not yet logged, 2 logged (R362). -/
  ue : Tbl Nat := []
  /-- Requests waiting at the controller, in the order they reached it (R354 to R358). -/
  waiting : List HbmReq := []
  /-- Port, read data and error flag of the last request served. -/
  served : Option (Nat × List Byte × Bool) := none
  /-- Open row of each pseudo-channel, plus 1 (R356). -/
  openRow : Tbl Nat := []
  /-- Lane repair programmed by APPLY_REPAIR (R365). -/
  repair : Tbl Word := []
  /-- Pseudo-channels repaired since they were last put in service (R366). -/
  repaired : List Nat := []
  /-- Pseudo-channels DISABLED by boot training until full reset (R353, R369). -/
  removed : List Nat := []
  /-- Lane settings in use, by pc × 38 + lane. -/
  dly : Tbl Word := []
  /-- Refreshes owed (R364). -/
  owed : Tbl Nat := []
  /-- Patrol scrub position: granule (R361) (log 6). -/
  scrubPos : Nat := 0
  /-- HBM_REQUESTs that a full port holds at their requestor, in order (R354). -/
  gate : List HbmReq := []
  /-- Accesses of the part's own requestors that wait at their ports, one for each stream that waits (R354, R367). -/
  held : List HbmReq := []
  /-- The access that the command in progress cannot make yet; none between commands (the model's own, log 20). -/
  blocked : Option HbmReq := none
  /-- Writes in the write queue of each pseudo-channel, oldest first, as offset and length: a read takes their bytes from
  it, so mem already gives them (R356). -/
  writeq : Tbl (List (Nat × Nat)) := []
  /-- Lines that the control cores' L2 holds modified, by physical address / 64, with the bytes that the stacks still hold
  of them: a read returns the L2's data, so mem already gives it (R360, 14 R404). -/
  l2 : Tbl (List Byte) := []
  deriving DecidableEq, Repr

/-- A cached table entry: domain, level, IOVA above the bits the level leaves, the entry (12 R373). -/
@[ext] structure CacheEnt where
  domain : Nat
  level  : Nat
  tag    : Nat
  entry  : Word
  deriving DecidableEq, Repr

/-- The IOMMU beyond its registers (12). -/
@[ext] structure Iom where
  cache : List CacheEnt := []
  /-- Fault records of each domain, oldest first (R376). -/
  fq : Tbl (List (List Word)) := []
  /-- Abort requests of the DMA channels (R379). -/
  abort : Tbl Bool := []
  deriving DecidableEq, Repr

/-- The fuses (15 R425): unchanged by full reset (log 8). -/
@[ext] structure Fuses where
  lifecycle : Nat := 0
  deviceId : BitVec 128 := 0
  deviceSecret : BitVec 256 := 0
  bruathKeyHash : BitVec 384 := 0
  ownerKeyHash : Tbl Nat := []
  ownerRevoke : Nat := 0
  svn : Nat := 0
  cert : List Byte := []
  deriving DecidableEq, Repr

/-- A network attestation request that waits: source frame and its time (15 R443, R445). -/
@[ext] structure NetReq where
  frame : List Byte
  op    : Nat
  tag   : Nat
  nonce : List Byte
  deriving DecidableEq, Repr

/-- The root of trust beyond its registers (15). -/
@[ext] structure Sec where
  fuses : Fuses := {}
  /-- Boot flash by byte offset: unchanged by full reset (log 8). -/
  flash : Tbl Byte := []
  secretOpen : Bool := true
  /-- Attestation scalar and seal secret of the key store (R426). -/
  ak : Nat := 0
  sealSecret : BitVec 384 := 0
  /-- MEAS0–15 and EXT_CNT0–15 (R435). -/
  meas : Tbl (BitVec 384) := []
  extCnt : Tbl Nat := []
  /-- Boot configuration chosen: copy (none: defaults) and its 512 words (R429). -/
  bootCopy : Option Nat := none
  bootWords : List Word := []
  /-- Boot steps 1 to 7 of R432 done. -/
  booted : Bool := false
  /-- The root of trust ended its work (R432 step 1 failed). -/
  dead : Bool := false
  /-- A doorbell of the M half, of the S half, waits to be served (R439, R443). -/
  mbxM : Bool := false
  mbxS : Bool := false
  netQueue : List NetReq := []
  lastNet : Option Nat := none
  challenge : Option (List Byte) := none
  reportSeq : Nat := 0
  verifiedKey : BitVec 384 := 0
  imgSvn : Nat := 0
  deriving DecidableEq, Repr

/-- Media encryption beyond its registers (03). -/
@[ext] structure Srt where
  /-- Key sets, 12 words each (R69). -/
  keys : Tbl Word := []
  /-- Ingress SRTP records, 8 words each (R72). -/
  inRec : Tbl Word := []
  /-- Egress SRTP records, 4 words each (R73). -/
  outRec : Tbl Word := []
  /-- Lifetime notices raised per key set: bit 0 the margin, bit 1 the limit (R92). -/
  noticed : Tbl Nat := []
  deriving DecidableEq, Repr

/-- A received frame in its group's FIFO: port, bytes with FCS, what the MAC found, stamp in 2^−16 ns (02 R36, R38). -/
@[ext] structure RxFrame where
  port  : Nat
  bytes : List Byte
  fcs   : FcsCheck
  stamp : Nat
  deriving DecidableEq, Repr

/-- An entry of an injection queue: context, RTP packet, the INJ word of the request (01 R17, 07 R233). -/
@[ext] structure Inj where
  scid : Nat
  rtp  : List Byte
  word : Word
  deriving DecidableEq, Repr

/-- An AV1 template dependency structure (04 R97): template offset, decode targets, spatial and temporal layer of each
template, its indication for each decode target, its frame number differences. -/
@[ext] structure Av1 where
  offset  : Nat
  targets : Nat
  layers  : List (Nat × Nat)
  dtis    : List (List Nat)
  fdiffs  : List (List Nat) := []
  deriving DecidableEq, Repr

/-- A delivery that waits its turn at a receive ring: a stored packet, or a frame with its own cells (02 R61). -/
@[ext] structure RingWait where
  port   : Nat
  ring   : Nat
  reason : Nat
  scid   : Nat
  stamp  : Word
  pkt    : Option Nat := none
  bytes  : List Byte := []
  cells  : List Nat := []
  deriving DecidableEq, Repr

/-- The ingress classifier beyond its registers (02, and the per-context state that 04 names). -/
@[ext] structure Ing where
  /-- Receive FIFO of each SerDes group, oldest first (01 R21). -/
  fifo : Tbl (List RxFrame) := []
  /-- Group of each pipeline served last, 0 to 3 (01 R18) (log 5). -/
  lastGrp : Tbl Nat := []
  /-- Slots of each pipeline since an injected packet, at most 7 (01 R18) (log 5). -/
  since : Tbl Nat := []
  /-- Injection queue of each pipeline (01 R21). -/
  injq : Tbl (List Inj) := []
  installed : Tbl Bool := []
  /-- Keys, 6 words each (R41). -/
  keys : Tbl Word := []
  /-- Ingress records, 8 words each (R45). -/
  recs : Tbl Word := []
  /-- Statistics, 3 words each (R47). -/
  stats : Tbl Word := []
  /-- Smoothed score and challenge time of a context (04 R104). -/
  score : Tbl Nat := []
  ch : Tbl (Option Nat) := []
  /-- Template dependency structure of a context (04 R97). -/
  av1 : Tbl (Option Av1) := []
  /-- SL, TL and SEQ_EXT of the last packet of an FU-A that still runs (04 R96). -/
  fua : Tbl (Option (Nat × Nat × Nat)) := []
  /-- Extended timestamp of the newest H.264 frame of a context, and the set of SL seen in it (04 R96) (log 103). -/
  seen : Tbl (Option (Nat × Nat)) := []
  /-- Deliveries that wait behind an RTCP_SW packet of their port and ring whose verdict is open, oldest first (R61). -/
  ringWait : List RingWait := []
  /-- Context that the scrub visits next (R57) (log 6). -/
  scrub : Nat := 0
  deriving DecidableEq, Repr

/-- What ingress SRTP fixed when it started a packet (03 R70, R75, R77, R79). verdict is what the packet's end will find:
0 authentic, 1 tag failure, 2 NOKEY, 3 expired; replay is what the first replay check found (R82); REPLAY_EN and
ROC_INIT as they stood. -/
@[ext] structure Srtp where
  engine  : Nat := 0
  ksid    : Nat := 0
  next    : Bool := false
  suite   : Nat := 0
  index   : Nat := 0
  verdict : Nat := 0
  replay  : Bool := false
  replayOn : Bool := false
  rocInit : Nat := 0
  deriving DecidableEq, Repr

/-- A stored packet (02 R58, 01 R27, 04 R110): its tag, cells, holders, and what is still open about it. -/
@[ext] structure Pkt where
  /-- The four tag words (R58). -/
  tag : List Word
  cells : List Nat
  /-- Copies, carts, replication jobs and deliveries that still hold the cells. -/
  holds : Nat
  /-- Offset of the UDP payload in the stored frame, and the payload's bytes. -/
  l4 : Nat
  pay : Nat
  extSeq : Nat
  extTs : Nat
  srtp : Srtp := {}
  /-- The FCS check failed after lookup and its verdict is not yet given (R37). -/
  fcsOpen : Bool := false
  /-- AUTH_FAIL is not yet final (03 R86). -/
  authOpen : Bool := false
  /-- Delivered with reason RTCP_SW once its verdict is known (R39). -/
  toRing : Bool := false
  /-- FORWARDING_DECISION has been made. -/
  decided : Bool := false
  /-- Ended under R37, R84 or R154: no copy, no cart. -/
  dead : Bool := false
  /-- A cell after its first found none free; it ends under R154 with its last byte (log 104). -/
  short : Bool := false
  /-- Walkers that still replicate it. -/
  jobs : Nat := 0
  /-- A copy or a cart has been made of it. -/
  made : Bool := false
  screened : Bool := false
  deriving DecidableEq, Repr

/-- A subscription as a replication job holds it: number, word 0, rule block, steering and XMAP profiles as they stood
at header-complete (04 R132). -/
@[ext] structure JobSub where
  sbid  : Nat
  word0 : Word
  rules : List Word
  steerA : Word
  steerB : Word
  xlo : Word
  xhi : Word
  deriving DecidableEq, Repr

/-- A replication job: packet, leader, the source record and the leader's word 0 to 1 as they stood, subscriptions still
to issue (04 R98, R99, R132). -/
@[ext] structure Job where
  pkt : Nat
  leader : Nat
  src : List Word
  lead : List Word
  subs : List JobSub
  deriving DecidableEq, Repr

/-- A cart of a forwarding work queue: words, its packet, whether it is released under R27, order of building. -/
@[ext] structure FwdCart where
  words : List Word
  pkt : Nat
  complete : Bool
  order : Nat
  deriving DecidableEq, Repr

/-- A talker slot (04 R104): SCID, entry time, last-packet time. -/
@[ext] structure Talker where
  scid : Nat
  entered : Nat
  last : Nat
  deriving DecidableEq, Repr

/-- A waiting entry of the hints crossing: three counts and the keyframe mask (01 R21). -/
@[ext] structure Hint where
  counts : List Nat
  mask : Nat
  deriving DecidableEq, Repr

/-- A SUB_REMOVE that has not ended: the SBID, and each packet, with its walker, whose replication on the subscription's
sublist had begun when the command was issued (04 R133). -/
@[ext] structure Removal where
  sbid  : Nat
  begun : List (Nat × Nat)
  deriving DecidableEq, Repr

/-- The forwarding engine beyond its registers (04). -/
@[ext] structure Fwd where
  /-- Source records, 4 words each (R102). -/
  src : Tbl Word := []
  /-- Conference records (R104). -/
  conf : Tbl Word := []
  /-- Talker slots by CFID × 8 + slot (R104). -/
  slots : Tbl (Option Talker) := []
  /-- Subscriptions, 8 words each, and their leaders (R111). -/
  sub : Tbl Word := []
  leadOf : Tbl Nat := []
  /-- Sublists in insertion order, by leader × 9 + egress pipeline, 8 for decode (R115). -/
  lists : Tbl (List Nat) := []
  /-- Rule blocks, 16 words each, and whether each was loaded (R118). -/
  rules : Tbl Word := []
  loaded : Tbl Bool := []
  /-- USE_PLI of the subscription that last raised a request, by leader (R128). -/
  pli : Tbl Bool := []
  /-- Job queues: egress replicators 0 to 7, decode walkers 8 to 15 (R99). -/
  jobs : Tbl (List Job) := []
  /-- Forwarding work queues: the first 512 are in the queue, later ones wait behind it (R110). -/
  queue : Tbl (List FwdCart) := []
  cartOrder : Nat := 0
  /-- Hints crossing by encode engine × 256 + ladder (01 R21). -/
  hints : Tbl (Option Hint) := []
  /-- Counts and time of the last rate hint of a leader (R130). -/
  hintSent : Tbl (List Nat) := []
  hintTime : Tbl Nat := []
  /-- Subscription whose SUB_REMOVE waits (R133). -/
  removing : Option Removal := none
  deriving DecidableEq, Repr

/-- What turns a stored packet into a copy (04 R122, R124, R125): output index, timestamp and SSRC, XMAP profile; media
is false for RTCP; keep is set for double-encrypted sources. -/
@[ext] structure Rewrite where
  out : Nat := 0
  ts : Nat := 0
  ssrc : Nat := 0
  xlo : Word := 0
  xhi : Word := 0
  rtcp : Bool := false
  tsOff : Nat := 0
  keep : Bool := false
  deriving DecidableEq, Repr

/-- A frame of a port queue (05 R147): a copy of a packet, a packet built by forwarding, or a ring frame. srtp is 0 for
no encryption, 1 SRTP, 2 SRTCP. body holds the bytes of a frame that is no copy: a whole frame of a ring, the RTCP
packet of forwarding. -/
@[ext] structure QFrame where
  pkt : Option Nat := none
  body : List Byte := []
  ring : Bool := false
  cells : List Nat := []
  depth : Nat
  cgid : Nat := 0
  srtp : Nat := 0
  rw : Rewrite := {}
  ptp : Nat := 0
  ptpId : Nat := 0
  ptpOff : Nat := 0
  deriving DecidableEq, Repr

/-- A frame in transmission: its queue, its bytes before the FCS, padding included, the time-base values between which it
is sent, when its gate closes during it, its transmit stamp (05 R493, R160; 13 R390). -/
@[ext] structure TxFrame where
  queue : Nat
  frame : QFrame
  bytes : List Byte
  t0 : Nat
  t1 : Nat
  closes : Option Nat := none
  stamp : Nat := 0
  deriving DecidableEq, Repr

/-- A gate control list: start in ns, cycle in ns, entries as gates and interval (05 R156). -/
@[ext] structure Gcl where
  start : Nat
  cycle : Nat
  entries : List (Nat × Nat)
  deriving DecidableEq, Repr

/-- The traffic manager beyond its registers (05). -/
@[ext] structure Tm where
  /-- Packet buffer, 96 MiB, by offset (01 R24), and its cells in use. -/
  buf : Tbl Byte := []
  used : List Nat := []
  /-- Stored packets; nextPkt names the next one (the model's own name for a packet). -/
  pkts : Tbl (Option Pkt) := []
  nextPkt : Nat := 0
  /-- Carriage records, 12 words each (R135), and their statistics, 4 words each (R137). -/
  car : Tbl Word := []
  carStat : Tbl Word := []
  /-- Queues by port × 8 + queue, oldest first (R147). -/
  queues : Tbl (List QFrame) := []
  /-- Deficit, credited flag and pointer of the round robin (R148) (log 7). -/
  deficit : Tbl Int := []
  credited : Tbl Bool := []
  ptr : Tbl Nat := []
  /-- Frame in transmission of each port, and the last frame sent with whether its FCS was right (R493). -/
  tx : Tbl (Option TxFrame) := []
  sent : Tbl (Option (List Byte × Bool)) := []
  gclPend : Tbl (Option Gcl) := []
  gclAct : Tbl (Option Gcl) := []
  /-- Carriage that the scrub visits next (R145) (log 6). -/
  scrub : Nat := 0
  deriving DecidableEq, Repr

/-- State of a cart in the dispatcher's store (06 R179). -/
inductive CartSt where
  | waiting
  | ready
  | running
  | suspended
  | parked
  | armed
  | ended
  deriving DecidableEq, Repr

/-- An entry of the cart store (06 R165, R174, R179): the cart's eight words and what the dispatcher knows of it. -/
@[ext] structure Cart where
  seq : Nat
  words : List Word
  /-- Packet that a forwarding cart holds (04 R110). -/
  pkt : Option Nat := none
  st : CartSt := .waiting
  /-- Core of the part, or engine of its kind, that took it; save slot where it is saved. -/
  unit : Nat := 0
  slot : Nat := 0
  ran : Bool := false
  status : Nat := 0
  result : Word := 0
  /-- The AGE notice was raised (R195). -/
  aged : Bool := false
  /-- Refused under R173: retires without its coach's order. -/
  malformed : Bool := false
  /-- CLK_TIME cycle at which an engine started it (R184). -/
  started : Nat := 0
  deriving DecidableEq, Repr

/-- A cart at a pod submit port: core, words, physical register that takes the sequence number (07 R226). -/
@[ext] structure Submit where
  core : Nat
  words : List Word
  dest : Nat
  deriving DecidableEq, Repr

/-- The Work Dispatcher beyond its registers; sides A and B hold the same state (06 R169, R200). -/
@[ext] structure Wd where
  /-- Sequence number of the next accepted cart (R174). -/
  seq : Nat := 0
  /-- Cart store, in the order of acceptance. -/
  store : List Cart := []
  /-- Coach records, as COACH_WRITE lays them out; FREE, HOLD 0, MAXPAR 1 after reset (R176, R198). -/
  coach : Tbl Word := []
  /-- Hardware producer served last (R170) (log 5). -/
  turn : Nat := 40
  /-- Pod submit ports, oldest first. -/
  port : Tbl (List Submit) := []
  /-- VT of group g of pool p, by p × 8 + g (R184). -/
  vt : Tbl Nat := []
  /-- Gap in progress: 0 none, 1 switchover, 2 role swap, 3 a mismatch with no verdict (R201, R203). -/
  gap : Nat := 0
  /-- Notices that a gap holds, each with its queue (R201). -/
  heldOut : List (Nat × List Word) := []
  /-- CLK_TIME cycle after the one in which a side's detected-error flag was last set, by side: 0 A, 1 B (R200). -/
  flagged : Tbl Nat := []
  deriving DecidableEq, Repr

/-- A channel of a Pea's cart (07 R230, R231, R234): words 0 to 2 of the descriptor it runs or ran, whether the transfer
is in flight, the fault it keeps as IOVA and write access, bytes done, AUTH_FAIL and MEM_ERR of its status, the domain
it was issued under. -/
@[ext] structure Chan where
  desc : List Word := []
  active : Bool := false
  fault : Option (Nat × Bool) := none
  done : Nat := 0
  auth : Bool := false
  memErr : Bool := false
  domain : Nat := 0
  deriving DecidableEq, Repr

/-- An active hardware loop (07 R218, R219, 08 R266). -/
@[ext] structure PeaLoop where
  first : Nat
  last : Nat
  stages : Nat
  rotate : Bool
  count : Nat
  iter : Nat := 0
  deriving DecidableEq, Repr

/-- A cart's state on a Pea core (07 R210, R224, R236). -/
@[ext] structure PeaRun where
  seq : Nat
  words : List Word
  pkt : Option Nat := none
  half : Nat := 0
  /-- Its packet cells have been released (R227). -/
  released : Bool := false
  /-- Resumed after a pre-emption and not yet run on (06 R187). -/
  fresh : Bool := false
  /-- g registers by physical number. -/
  g : Tbl (BitVec 32) := []
  ac : Tbl (BitVec 72) := []
  /-- Pointer unit by the selector of 08 R245: p 0–7, b 8–15, l 16–23, m 24–31. -/
  pu : Tbl (BitVec 24) := []
  lc : Tbl Nat := []
  /-- Active loops, the outer one first. -/
  loops : List PeaLoop := []
  bx : Nat := 31
  rot : Nat := 0
  flags : BitVec 32 := 0
  /-- Bundle index; 4,096 past the last bundle. -/
  pc : Nat := 0
  chans : Tbl Chan := []
  /-- An exception's RESULT, while the channels finish (R228). -/
  ending : Option Word := none
  /-- Channel whose fault parked the cart (R234). -/
  parkedOn : Option Nat := none
  /-- Its save slot failed: it ends MEM when it resumes (16 R452 array 6). -/
  bad : Bool := false
  deriving DecidableEq, Repr

/-- A Pea core: the running cart, the save slots, the cart that starts once the running one is saved, whether a SUBMIT
waits at the pod's port, whether the last bundle stalled. -/
@[ext] structure Core where
  run : Option PeaRun := none
  slot0 : Option PeaRun := none
  slot1 : Option PeaRun := none
  saving : Option Nat := none
  submitting : Bool := false
  stalled : Bool := false
  deriving DecidableEq, Repr

/-- The Pea pods beyond their registers (07 R204). -/
@[ext] structure Pea where
  cores : Tbl Core := []
  /-- X and Y memories by core × 65,536 + byte, program memories by core × 4,096 + bundle, pod-shared memories by
  pod × 2^20 + byte. -/
  x : Tbl Byte := []
  y : Tbl Byte := []
  prog : Tbl Word := []
  shared : Tbl Byte := []
  deriving DecidableEq, Repr

/-- A slot in an engine's spool queue (09 R287): the program it came from (a count of swaps), spool, IOVA, its words. -/
@[ext] structure SpoolSlot where
  prog : Nat
  spool : Nat
  iova : Nat
  words : List (BitVec 32)
  deriving DecidableEq, Repr

/-- A block that an engine runs: its number, the index of its next instruction, whether END was reached, the CLK_MIX
cycles spent by R286. -/
@[ext] structure MixRun where
  block : Nat
  pos : Nat := 0
  ended : Bool := false
  cycles : Nat := 0
  deriving DecidableEq, Repr

/-- A mix engine (09). -/
@[ext] structure MixEng where
  /-- Words of the two program slots, by slot × 32,768 + word. -/
  prog : Tbl Word := []
  run : Option MixRun := none
  /-- Latest tick delivered to the engine (R270, R298), and the latest that it has dealt with: the block it started last,
  or the tick under way when its EN became 1 (R300). -/
  tick : Option Nat := none
  passed : Nat := 0
  /-- Work and accumulator lanes by register × 48 + lane. -/
  w : Tbl (BitVec 24) := []
  a : Tbl (BitVec 48) := []
  /-- The active image has not yet finished a block (R282). -/
  first : Bool := false
  /-- Swaps made, and the first block that the active image ran (R294, R295). -/
  swaps : Nat := 0
  actBlk : Nat := 0
  /-- Spools marked faulted since the last swap (R288). -/
  faulted : List Nat := []
  spools : List SpoolSlot := []
  carts : List (List Word) := []
  /-- Parameters as written, and as the running block reads them (R297). -/
  param : Tbl (BitVec 16) := []
  used : Tbl (BitVec 16) := []
  /-- Notice codes raised in the current block (R301). -/
  raised : List Nat := []
  deriving DecidableEq, Repr

/-- Voxotte beyond its registers (09). -/
@[ext] structure Mix where
  engs : Tbl MixEng := []
  /-- Sample memory by word address (R271), and its words that hold an uncorrectable error. -/
  smem : Tbl (BitVec 32) := []
  bad : List Nat := []
  /-- Engine whose cart queue fed the cart port last (R289) (log 5). -/
  turn : Nat := 7
  deriving DecidableEq, Repr

/-- What a frame's packets say of it and of the frames it references (10 R313): its name among the stream's frames, the
names it needs. -/
@[ext] structure FrameLink where
  name  : Option (Nat × Nat) := none
  needs : List (Nat × Nat) := []
  deriving DecidableEq, Repr

/-- A frame in assembly at a decode stream (10 R311): timestamp, spatial layer, packets held as SEQ_EXT, start mark, end
mark and bitstream bytes, the ingress time of its first packet and what it says of the frame. -/
@[ext] structure DecFrame where
  ts : Nat
  sl : Nat
  pkts : List (Nat × Bool × Bool × List Byte)
  ingress : Word := 0
  link : FrameLink := {}
  deriving DecidableEq, Repr

/-- A pool picture in use (10 R308): pool index, mask of the reference slots that hold it, whether it awaits output, the
decode that made it, and what its header will say. -/
@[ext] structure DecPic where
  idx : Nat
  refs : Nat
  waits : Bool
  made : Nat
  ts : Nat
  ingress : Word
  key : Bool
  sl : Nat
  tl : Nat
  width : Nat
  height : Nat
  fmt : Nat
  deriving DecidableEq, Repr

/-- What the decode engines keep of a stream in its opaque words and codec state area (10 R307). -/
@[ext] structure DecStream where
  frames : List DecFrame := []
  /-- Frames decoded, lost or abandoned, as timestamp and layer (R312). -/
  past : List (Nat × Nat) := []
  /-- Lowest SEQ_EXT seen of each timestamp (R311). -/
  seen : List (Nat × Nat) := []
  /-- Names of the frames decoded since the last key frame, newest first (R313). -/
  made : List (Nat × Nat) := []
  /-- AV1 template structure, and VP9 picture group with the picture ID it starts at, received last (R313). -/
  av1 : Option Av1 := none
  group : Option (Nat × List (List Nat)) := none
  /-- Valid reference slots (R314). -/
  valid : Nat := 0
  pics : List DecPic := []
  pub : Option Nat := none
  prev : Option Nat := none
  /-- A picture was published and no frame lost since; frames lost since the last publication; LOST was posted (R317). -/
  good : Bool := false
  lost : Nat := 0
  told : Bool := false
  /-- Name of the decoder's history, for the opaque codec. -/
  hist : Nat := 0
  deriving DecidableEq, Repr

/-- What the encode engines keep of a ladder in its opaque words and state area (10 R319, R324 to R327): hold of each rung,
accepted frames since the last key frame, whether the next is one, the encoder's history; MODE 0's next frame number, the
numbers of each rung's last T0 and of its last T0 or T1, the template structure sent last as offset and count; each rung's
rate-control buffer in bits × FPS. -/
@[ext] structure Ladder where
  hold : List Nat := [0, 0, 0]
  since : Nat := 0
  force : Bool := false
  hist : Nat := 0
  number : Nat := 0
  lastT0 : List Nat := [0, 0, 0]
  lastRef : List Nat := [0, 0, 0]
  templates : Nat × Nat := (0, 0)
  buffer : List Nat := [0, 0, 0]
  deriving DecidableEq, Repr

/-- A hint entry of a home encode engine (10 R323). -/
@[ext] structure HintEnt where
  counts : List Nat := [0, 0, 0]
  pend : Nat := 0
  deriving DecidableEq, Repr

/-- What an accepted frame changes in its ladder: the record's words 8 to 10, the new kept state, the KF_PEND bits it
serves, its pixels (10 R322 to R325). -/
@[ext] structure EncDone where
  words : List Word
  ladder : Ladder
  served : Nat
  pixels : Nat
  deriving DecidableEq, Repr

/-- An ENCODE that an engine runs: its cart, ladder, DOMAIN of VENC_CFG and IOVA of the record as they stood at its start
(10 R328), the record, the hint entry it read, the CLK_TIME cycle it started at, whether the whole source has been read,
its rows, and, once encoded, the packets still to inject and what acceptance writes. -/
@[ext] structure EncJob where
  seq : Nat
  ladder : Nat
  domain : Nat := 0
  record : Nat := 0
  words : List Word
  hint : HintEnt
  start : Nat
  got : Bool := false
  rows : List (List Byte) := []
  out : List Inj := []
  pipe : Nat := 0
  done : Option EncDone := none
  deriving DecidableEq, Repr

/-- The video engines beyond their registers (10, 11). -/
@[ext] structure Vid where
  streams : Tbl DecStream := []
  ladders : Tbl Ladder := []
  /-- Hint entries by home engine × 256 + ladder. -/
  hints : Tbl HintEnt := []
  jobs : Tbl (Option EncJob) := []
  /-- Failing frames of a layout since a passing one (11 R348). -/
  failing : Tbl Nat := []
  /-- Coefficient memory, 3,072 words (11 R350). -/
  coef : Tbl Word := []
  deriving DecidableEq, Repr

/-- The state of the part. -/
@[ext]
structure State where
  /-- CLK_TIME cycles since the release of full reset; other domains' counts derive from it (the model's own, log 1). -/
  clock : Nat := 0
  /-- Draws made of the free values (the model's own, log 2). -/
  freeCtr : Nat := 0
  /-- Registers by RegMap key; an unlisted register holds its reset value. -/
  regs : Tbl Word := []
  rst  : Rst := {}
  hart : Hart := {}
  ctl  : Ctl := {}
  err  : Err := {}
  tim  : Tim := {}
  hbm  : Hbm := {}
  iom  : Iom := {}
  sec  : Sec := {}
  srt  : Srt := {}
  ing  : Ing := {}
  fwd  : Fwd := {}
  tm   : Tm := {}
  work : Wd := {}
  pea  : Pea := {}
  mix  : Mix := {}
  vid  : Vid := {}
  /-- Commands waiting, first in first out. -/
  pending : List Instr := []
  deriving DecidableEq, Repr

/-- The machine right after the release of full reset (16 R466, R467). -/
def State.reset : State := {}

end Sys2Proof.Machine
end

