-- ==== Sys2Proof/Machine/Ops.lean ====
section
/-! DEFINITION. The shared operations: registers by field, free values, a hart's response, event items, error records,
time. Every meaning goes through these. -/

namespace Sys2Proof.Machine

/-- Outcome of a step of this model. -/
abbrev Out := Host.Outcome State Fault Refusal

/-! ## Registers -/

/-- HBM_PORT_CFG at reset: TARGET_NS, PRIO and ORDER of the table of R354. -/
def portCfgReset : Nat → Nat
  | 0 => 2000 + 1 * 2 ^ 32 + 1 * 2 ^ 40
  | 1 => 2000 + 1 * 2 ^ 32 + 1 * 2 ^ 40
  | 2 => 1000 + 2 * 2 ^ 32 + 1 * 2 ^ 40
  | 7 => 10000 + 1 * 2 ^ 32 + 1 * 2 ^ 40
  | 8 => 5000 + 1 * 2 ^ 40
  | 9 => 500 + 3 * 2 ^ 32
  | 10 => 300 + 3 * 2 ^ 32 + 1 * 2 ^ 40
  | 11 => 65535 + 1 * 2 ^ 40
  | _ => 1500 + 2 * 2 ^ 32 + 1 * 2 ^ 40

/-- Reset value of instance i of a register: its row's, but for those whose instances differ (05 R152, 12 R354,
13 R397, R399). -/
@[irreducible] def Reg.resetAt (r : Reg) (i : Nat) : Word :=
  match r with
  | .TM_BUF_THR => wd (393216 - 65536 * i - (if i = 0 then 9216 else 0))
  | .HBM_PORT_CFG => wd (portCfgReset i)
  | .TIM_IN_CFG => wd (r.row.reset + if i < 2 then 1000 else 10000)
  | .TIM_OUT_CFG => wd ((if i < 2 then 100000000 else 50) * 16)
  | .TIM_OUT_PERIOD => wd ((if i < 2 then 1000000000 else 100) * 65536)
  | _ => wd r.row.reset

/-- Key of instance i of a register in the register table. -/
def Reg.key (r : Reg) (i : Nat) : Nat := i * 512 + r.ctorIdx

/-- The value a register holds. -/
def State.reg (s : State) (r : Reg) (i : Nat) : Word := Tbl.at (r.resetAt i) s.regs (r.key i)

/-- The state with a register replaced. -/
def State.setReg (s : State) (r : Reg) (i : Nat) (w : Word) : State :=
  { s with regs := Tbl.put (r.resetAt i) s.regs (r.key i) w }

/-- The value of a register field. -/
def State.get (s : State) (f : RFld) (i : Nat) : Nat := fld (s.reg f.reg i) f.lo f.len

/-- Whether a one-bit field is set. -/
def State.isSet (s : State) (f : RFld) (i : Nat) : Bool := s.get f i ≠ 0

/-- The state with a register field replaced, modulo 2 to its length. -/
def State.put (s : State) (f : RFld) (i v : Nat) : State :=
  s.setReg f.reg i (setFld (s.reg f.reg i) f.lo f.len v)

/-- Set or clear a one-bit field. -/
def State.flag (s : State) (f : RFld) (i : Nat) (b : Bool) : State := s.put f i (b2n b)

/-- A counter raised by n; it wraps modulo 2 to its width (00 R12). -/
def State.add (s : State) (f : RFld) (i n : Nat) : State := s.put f i (s.get f i + n)

/-- A counter raised by one. -/
def State.inc (s : State) (f : RFld) (i : Nat) : State := s.add f i 1

/-- A running maximum. -/
def State.raiseMax (s : State) (f : RFld) (i v : Nat) : State := if s.get f i < v then s.put f i v else s

/-- Instances of a register. -/
def Reg.count (r : Reg) : Nat := r.row.dims.foldl (fun n d => n * d.2) 1

/-- Instance found at an offset from a register's base, if the offset is one of its addresses. -/
def locate : List (Nat × Nat) → Nat → Option Nat
  | [], off => if off = 0 then some 0 else none
  | (st, c) :: ds, off =>
    if off / st < c then
      (locate ds (off % st)).map fun j => off / st * ds.foldl (fun n d => n * d.2) 1 + j
    else none

/-- The register instance at a physical address (00 R4, 01 R22). -/
def regAt (a : Nat) : Option (Reg × Nat) :=
  Reg.all.findSome? fun r =>
    if r.row.base ≤ a then (locate r.row.dims (a - r.row.base)).map fun i => (r, i) else none

/-- Generic write of a register under the access codes: RW fields take the value, W1C bits written 1 clear, every other
bit stays (00 R8). -/
def mergeWrite (r : Reg) (old v : Word) : Word :=
  let rw := wd r.row.rw
  let w1c := wd r.row.w1c
  (old &&& ~~~rw &&& ~~~(w1c &&& v)) ||| (v &&& rw)

/-! ## Free values -/

/-- A fresh free value and the state with the draw made (log 2). -/
def State.draw (s : State) (k : Nat) : Nat × State :=
  (Config.free k s.freeCtr, { s with freeCtr := s.freeCtr + 1 })

/-! ## Harts -/

/-- A load of a hart ends with a value (14 R402). -/
def State.respond (s : State) (h : Nat) (w : Word) : State :=
  { s with hart := { s.hart with resp := Tbl.put 0 s.hart.resp h w } }

/-- Cause of the access fault of a kind of access (14 R403). -/
def faultCause : AccessKind → Nat
  | .fetch => 1
  | .load => 5
  | .store => 7
  | .amo => 7

/-- A hart takes an exception of a cause, with the address in mtval (14 R401, R403). -/
def State.trap (s : State) (h cause a : Nat) : State :=
  { s with hart := { s.hart with
      cause := Tbl.put 0 s.hart.cause h cause
      mtval := Tbl.put 0 s.hart.mtval h (wd a) } }

/-- An access ends with an error response: the hart takes the access fault of its kind with the address in mtval;
nothing else changes (14 R403). -/
def State.accessFault (s : State) (h : Nat) (k : AccessKind) (a : Nat) : State := s.trap h (faultCause k) a

/-- CTL_MTIME: 100 MHz from the core reference (14 R405). -/
def State.mtime (s : State) : Nat := s.clock / 10

/-- CLK_FWD cycles since release (00 clock domains). -/
def State.fwdNow (s : State) : Nat := s.clock * 8 / 5

/-- Milliseconds since release modulo 2^16: now_ms of forwarding. -/
def State.nowMs (s : State) : Nat := s.clock / 1000000 % 65536

/-- The part runs: full reset released and not halted (16 R461, R466). -/
def State.live (s : State) : Bool := s.rst.step = 5 && !s.rst.halted

/-- A command acts only while the part runs; in full reset or halted nothing changes (16 R461, R466; log 1). The queue
is the step's, not the command's. -/
def State.whenLive (s : State) (f : State → State) : Out :=
  .next (if s.live then { f s with pending := s.pending } else s)

/-- An access waits at its port: the stream's first such access keeps its time of entry (12 R354, R355). -/
def State.waitAt (s : State) (r : HbmReq) : State :=
  if s.hbm.held.any r.sameStream then s else { s with hbm := { s.hbm with held := s.hbm.held ++ [r] } }

/-- A producer whose crossing was already past its 16 items would hand in another (01 R21). -/
def State.stalls (s t : State) : Bool :=
  t.ctl.crossing.any fun e =>
    let n := (Tbl.at [] s.ctl.crossing e.1).length
    decide (16 < n) && decide (n < e.2.length)

/-- What a command comes to that may meet a full queue: where an HBM access of it has to wait, or its producer is held at
a full event crossing, nothing of it happens yet and it waits whole (01 R21, 12 R354, R367; DESIGN CHOICE, log 20). -/
def State.attempt (s : State) (f : State → State) : State :=
  let t := f s
  match t.hbm.blocked with
  | some r => s.waitAt r
  | none => if s.stalls t then s else t

/-- A command that posts items or reaches HBM: it acts while the part runs and nothing holds it. -/
def State.whenReady (s : State) (f : State → State) : Out := s.whenLive fun s => s.attempt f

/-- No producer is held at its event crossing, and no access is left over from an earlier command. -/
def State.free (s : State) : Bool := s.hbm.blocked.isNone && s.ctl.crossing.all fun e => decide (e.2.length ≤ 16)

/-! ## Event items (14) -/

/-- Header word of an item (R407). -/
def itemHeader (src code nent unit v0 : Nat) : Word :=
  wd (2 ^ 63 + (src % 128) * 2 ^ 56 + (code % 256) * 2 ^ 48 + (nent % 16) * 2 ^ 44 + (unit % 2 ^ 20) * 2 ^ 24 + v0 % 2 ^ 24)

/-- A producer hands an item to its crossing (01 R21, 14 R409); EVENT_ITEM_POST makes it visible. -/
def State.post (s : State) (src queue : Nat) (words : List Word) : State :=
  { s with ctl := { s.ctl with
      crossing := Tbl.put [] s.ctl.crossing src (Tbl.at [] s.ctl.crossing src ++ [(queue, words)]) } }

/-- An item of one entry: header and V1. -/
def State.post1 (s : State) (src queue code unit v0 v1 : Nat) : State :=
  s.post src queue [itemHeader src code 0 unit v0, wd v1]

/-- An item of two entries: header, V1, V2, V3. -/
def State.post2 (s : State) (src queue code unit v0 v1 v2 v3 : Nat) : State :=
  s.post src queue [itemHeader src code 1 unit v0, wd v1, wd v2, wd v3]

/-! ## Errors (16) -/

/-- Words of an error record (R454). -/
def errRecord (inj : Bool) (cls subsys code inst : Nat) (info : Word) (time seq : Nat) : List Word :=
  [wd (2 ^ 63 + b2n inj * 2 ^ 62 + cls * 2 ^ 56 + subsys * 2 ^ 48 + code * 2 ^ 40 + inst % 65536),
   info, wd time, wd (seq % 2 ^ 48)]

/-- Write one entry of the trace ring; a full ring loses its oldest (R463, R464). -/
def State.trace (s : State) (ws : List Word) : State :=
  let n := s.get F.ERR_TRACE_COUNT.CNT 0
  let s := s.inc F.ERR_TRACE_COUNT.CNT 0
  let s := if s.err.traceFull then s.inc F.ERR_TRACE_LOST_CNT.CNT 0 else s
  { s with err := { s.err with
    trace := Tbl.putList 0 s.err.trace (4 * (n % 32768)) ws
    traceFull := s.err.traceFull || decide (n % 32768 = 32767) } }

/-- Effects of a Fatal error: the first stops the media plane, a second halts the part (R460, R461). -/
def State.fatal (s : State) (code : Nat) (first : Bool) : State :=
  if first then
    let ms := s.get F.ERR_CFG.FATAL_RESET_MS 0
    { s with err := { s.err with
        faultN := true
        mediaStopped := true
        clkStopped := s.err.clkStopped || decide (code = 0x41)
        resetDue := if ms = 0 then none else some (s.clock + ms * 1000000) } }
  else { s with rst := { s.rst with halted := true } }

/-- Class and CLASS_SEQ of a record, k being its class less 1. -/
def recordName (k : Nat) (ws : List Word) : Nat × Nat := (k, fld (ws.getD 3 0) 0 48)

/-- A record is held from now on, after those that reached the logs before it. -/
def State.recordIn (s : State) (k : Nat) (ws : List Word) : State :=
  { s with err := { s.err with arrived := s.err.arrived ++ [recordName k ws] } }

/-- A record is held no more. -/
def State.recordOut (s : State) (k : Nat) (ws : List Word) : State :=
  { s with err := { s.err with arrived := s.err.arrived.filter fun n => n ≠ recordName k ws } }

/-- An error record fills the empty slot of its class, or goes to the class's secondary log, or is counted lost there
(R455, R457). -/
def State.fileRecord (s : State) (cls : Nat) (ws : List Word) : State :=
  let k := cls - 1
  let full := bitAt (s.reg .ERR_STATUS 0).toNat k
  if full then
    let log := Tbl.at [] s.err.logs k
    if log.length < 64 then
      ({ s with err := { s.err with logs := Tbl.put [] s.err.logs k (log ++ [ws]) } }).recordIn k ws
    else s.inc F.ERR_LOG_OVF_CNT.CNT k
  else
    let s := s.setReg .ERR_STATUS 0 (setFld (s.reg .ERR_STATUS 0) k 1 1)
    ((List.range 4).foldl (fun t i => t.setReg .ERR_SLOT_W (4 * k + i) (ws.getD i 0)) s).recordIn k ws

/-- A detected error of a class makes its record, its trace entry and, if Fatal, its effects (R454, R455, R460, R464). -/
def State.raise (s : State) (inj : Bool) (cls subsys code inst : Nat) (info : Word) : State :=
  let first := !bitAt (s.reg .ERR_STATUS 0).toNat 3
  let s := s.inc F.ERR_CLASS_CNT.CNT (cls - 1)
  let ws := errRecord inj cls subsys code inst info s.mtime (s.get F.ERR_CLASS_CNT.CNT (cls - 1))
  let s := s.fileRecord cls ws
  let s := s.trace [wd (code * 2 ^ 32), wd s.mtime, ws.getD 0 0, ws.getD 1 0]
  if cls = 4 then s.fatal code first else s

/-- An error of the part itself: code, class, subsystem, instance; INFO is a free value where the spec names no
address, index or record for it (log 16). -/
def State.raiseFree (s : State) (cls subsys code inst : Nat) : State :=
  let (v, s) := s.draw 1
  s.raise false cls subsys code inst (wd v)

/-! ## Interrupt lines (14 R405, 16 R458) -/

/-- Queue q drives MEIP (priv 1) or SEIP (priv 0) of hart h (R414). -/
def State.queueDrives (s : State) (priv h q : Nat) : Bool :=
  s.get F.CTL_EVQ_CFG.TGT_HART q = h && s.get F.CTL_EVQ_CFG.TGT_PRIV q = priv
    && s.isSet F.CTL_EVQ_CFG.NOTICE_EN q && s.isSet F.CTL_EVQ_NOTICE.PEND q

/-- CTL_EXT_M and CTL_EXT_S of a hart. -/
def State.extBits (s : State) (priv h : Nat) : Nat :=
  ((List.range 64).filter (s.queueDrives priv h)).foldl (fun n q => n + 2 ^ q) 0

/-- The Error Controller drives MEIP of a hart (16 R458). -/
def State.errDrives (s : State) (h : Nat) : Bool :=
  let st := (s.reg .ERR_STATUS 0).toNat
  bitAt st 3 || (s.get F.ERR_CFG.HART 0 = h
    && (List.range 3).any fun k => bitAt st k && bitAt (s.get F.ERR_CFG.NOTICE_EN 0) k)

/-- MEIP of a hart (14 R405). -/
def State.meip (s : State) (h : Nat) : Bool :=
  s.extBits 1 h ≠ 0 || (s.get F.CTL_RYU_CFG.FW_HART 0 = h && s.get F.CTL_RYU_PEND.PEND 0 ≠ 0) || s.errDrives h

/-- mip of a hart: SSIP 1, MSIP 3, STIP 5, MTIP 7, SEIP 9, MEIP 11. -/
def State.mip (s : State) (h : Nat) : Nat :=
  let sw := Tbl.at 0 s.hart.swip h
  b2n (bitAt sw 1) * 2 + b2n (s.isSet F.CTL_MSIP.MSIP h) * 8 + b2n (bitAt sw 5) * 32
    + b2n (Tbl.at false s.hart.mtip h) * 128 + b2n (s.extBits 0 h ≠ 0) * 512 + b2n (s.meip h) * 2048

/-- (mip & mie) of a hart is not zero. -/
def State.interrupted (s : State) (h : Nat) : Bool := nand64 (s.mip h) (Tbl.at 0 s.hart.mie h) ≠ 0

/-! ## Time (13) -/

/-- A time base. -/
def State.tb (s : State) (t : Nat) : TBase := Tbl.at {} s.tim.tbs t

/-- A time base replaced. -/
def State.setTb (s : State) (t : Nat) (b : TBase) : State :=
  { s with tim := { s.tim with tbs := Tbl.put {} s.tim.tbs t b } }

/-- A time base's value in 2^−16 ns (R381: the reported fraction). -/
def TBase.total (b : TBase) : Nat := b.sec * 65536000000000 + b.f / 2 ^ 32

/-- Seconds, nanoseconds and fraction of a value in 2^−16 ns; seconds are 48 bits. -/
def ofTotal (x : Nat) : Nat × Nat × Nat :=
  (x / 65536000000000 % 2 ^ 48, x % 65536000000000 / 65536, x % 65536)

/-- A value in 2^−16 ns in the form of packet tag word 1 (02 R58). -/
def tagTime (x : Nat) : Word :=
  let (sec, ns, fr) := ofTotal x
  wd (sec % 65536 * 2 ^ 48 + ns * 65536 + fr)

/-- A time-stamp of a port: the time base rounded down to 0.25 ns, plus the port's signed correction (R390). -/
def portStamp (x : Nat) (corr : Int) : Nat := ((x / 2 ^ 14 * 2 ^ 14 : Nat) + corr).toNat

end Sys2Proof.Machine
end

