-- ==== Sys2Proof/Machine/Harts.lean ====
section
/-! DEFINITION. The harts' control and status registers (14 R401, R405). No row of the table runs an instruction of a hart:
the commands are its accesses, after its translation and its PMP (log 96). What R401 fixes of these registers stands
here: which are constants, what a write keeps, what counts, which interrupts delegation gives S mode. -/

namespace Sys2Proof.Machine

/-- Key of a register of a hart. -/
def csrKey (h n : Nat) : Nat := h * 4096 + n

/-- Event selectors mhpmevent3 to mhpmevent6, and the registers they select for (R401). -/
def isHpmEvent (n : Nat) : Bool := decide (0x323 ≤ n ∧ n ≤ 0x326)

/-- Counters that R401 says read zero: hpmcounter7 to hpmcounter31, machine and user names. -/
def isZeroCounter (n : Nat) : Bool := decide (0xB07 ≤ n ∧ n ≤ 0xB1F) || decide (0xC07 ≤ n ∧ n ≤ 0xC1F)

/-- A PMP entry's address as it reads at a granularity of 4 KiB: NAPOT and NA4, which is treated as NAPOT, read ones
below it, OFF and TOR zeros (R401; PRESUMED, the privileged architecture). -/
def State.pmpAddr (s : State) (h i : Nat) : Word :=
  let held := Tbl.at 0 s.hart.csr (csrKey h (0x3B0 + i))
  let cfg := fld (Tbl.at 0 s.hart.csr (csrKey h (0x3A0 + i / 8 * 2))) (8 * (i % 8) + 3) 2
  if 2 ≤ cfg then setFld held 0 9 0x1FF else setFld held 0 10 0

/-- A read of a register of a hart: the constants of R401, the interrupt registers of R405, time as CTL_MTIME, cycle as
CLK_CTL cycles beside what was written, and what the register holds otherwise. -/
def State.csrRead (s : State) (h n : Nat) : Word :=
  let held := Tbl.at 0 s.hart.csr (csrKey h n)
  if n = 0x301 then 0x800000000014112D#64
  else if n = 0xF11 || n = 0xF12 then 0
  else if n = 0xF13 then 1
  else if n = 0xF14 then wd h
  else if n = 0x344 then wd (s.mip h)
  else if n = 0x304 then wd (Tbl.at 0 s.hart.mie h)
  else if n = 0x342 then wd (Tbl.at 0 s.hart.cause h)
  else if n = 0x343 then Tbl.at 0 s.hart.mtval h
  else if n = 0xC01 then wd s.mtime
  else if n = 0xB00 || n = 0xC00 then Tbl.at 0 s.hart.csr (csrKey h 0xB00) + wd (2 * s.clock)
  else if n = 0xC02 then Tbl.at 0 s.hart.csr (csrKey h 0xB02)
  else if 0xC03 ≤ n && n ≤ 0xC06 then Tbl.at 0 s.hart.csr (csrKey h (n - 0x100))
  else if isZeroCounter n then 0
  else if 0x3B0 ≤ n && n ≤ 0x3BF then s.pmpAddr h (n - 0x3B0)
  else held

/-- What a write leaves in a register that holds one: satp takes MODE 0, 8 and 9 alone; a PMP address has 54 bits;
mideleg delegates SSIP, STIP and SEIP; an event selector names one of four events or none (R401, R405). -/
def csrLegal (n : Nat) (old v : Word) : Word :=
  if n = 0x180 then (if fld v 60 4 = 0 || fld v 60 4 = 8 || fld v 60 4 = 9 then v else old)
  else if 0x3B0 ≤ n && n ≤ 0x3BF then setFld v 54 10 0
  else if n = 0x303 then v &&& wd 0x222
  else if isHpmEvent n then (if v.toNat ≤ 4 then v else 0)
  else v

/-- Registers that no write changes: misa and the machine identities, the counters that read zero, and the user names of
counters. -/
def csrFixed (n : Nat) : Bool := n = 0x301 || isZeroCounter n || decide (0xC00 ≤ n)

/-- A write of a register of a hart. -/
def State.csrWrite (s : State) (h n : Nat) (v : Word) : State :=
  if csrFixed n then s
  else if n = 0x304 then { s with hart := { s.hart with mie := Tbl.put 0 s.hart.mie h v.toNat } }
  else if n = 0x344 then { s with hart := { s.hart with swip := Tbl.put 0 s.hart.swip h (v.toNat &&& 0x22) } }
  else if n = 0x342 then { s with hart := { s.hart with cause := Tbl.put 0 s.hart.cause h v.toNat } }
  else if n = 0x343 then { s with hart := { s.hart with mtval := Tbl.put 0 s.hart.mtval h v } }
  else
    let v := if n = 0xB00 then v - wd (2 * s.clock) else csrLegal n (Tbl.at 0 s.hart.csr (csrKey h n)) v
    { s with hart := { s.hart with csr := Tbl.put 0 s.hart.csr (csrKey h n) v } }

/-- Interrupts pending and enabled that mideleg gives S mode (R405). -/
def State.delegated (s : State) (h : Nat) : Nat :=
  s.mip h &&& Tbl.at 0 s.hart.mie h &&& (Tbl.at 0 s.hart.csr (csrKey h 0x303)).toNat

/-- Interrupts pending and enabled that M mode keeps. -/
def State.undelegated (s : State) (h : Nat) : Nat :=
  s.mip h &&& Tbl.at 0 s.hart.mie h &&& (2 ^ 12 - 1 - (Tbl.at 0 s.hart.csr (csrKey h 0x303)).toNat % 2 ^ 12)

/-- An illegal instruction traps with its bits in mtval (R401). -/
def State.illegal (s : State) (h bits : Nat) : State := s.trap h 2 bits

end Sys2Proof.Machine
end

