-- ==== Sys2Proof/Machine/Memory.lean ====
section
/-! DEFINITION. HBM by physical address and the IOMMU (12): the map over enabled pseudo-channels, reads and writes
with their error responses, translation with its cache, fault records. -/

namespace Sys2Proof.Machine

/-- Physical address of the first HBM byte (01 R22). -/
def hbmBase : Nat := 0x10000000000

/-- Bytes of one pseudo-channel: 768 MiB. -/
def pcBytes : Nat := 0x30000000

/-- Enabled pseudo-channels in ascending order: e[0] to e[n − 1] (R351). -/
def State.enabledPcs (s : State) : List Nat :=
  (List.range 64).filter fun c => bitAt (s.get F.HBM_PC_MASK.MASK 0) c

/-- First byte past HBM (01 R25); the base while HBM is not in service. -/
def State.hbmEnd (s : State) : Nat := hbmBase + s.get F.HBM_STATUS.NPC 0 * pcBytes

/-- Bytes pa to pa + len − 1 lie in the HBM range of R25. -/
def State.inHbm (s : State) (pa len : Nat) : Bool := decide (hbmBase ≤ pa ∧ pa + len ≤ s.hbmEnd)

/-- Pseudo-channel and local offset of an HBM offset (R351). -/
def State.pcOf (s : State) (a : Nat) : Nat × Nat :=
  let e := s.enabledPcs
  let g := a / 256
  (e.getD (g % e.length) 0, g / e.length * 256 + a % 256)

/-- HBM offset of a pseudo-channel's local offset. -/
def State.ofLocal (s : State) (pc loc : Nat) : Nat :=
  let e := s.enabledPcs
  (loc / 256 * e.length + e.findIdx (· = pc)) * 256 + loc % 256

/-- State of the pseudo-channel of a burst. -/
def State.burstState (s : State) (b : Nat) : Nat := s.get F.HBM_PC_STATE.STATE (s.pcOf (b * 32)).1

/-- A burst lies in a line that the control cores' L2 holds modified: its data is the L2's (R360). -/
def State.inL2 (s : State) (b : Nat) : Bool := (Tbl.find s.hbm.l2 ((hbmBase + b * 32) / 64)).isSome

/-- A read of this 32-byte burst gives an error response (R360, R362, R368). -/
def State.burstBad (s : State) (b : Nat) : Bool :=
  (s.burstState b = 4 || Tbl.at 0 s.hbm.ue b ≠ 0) && !s.inL2 b

/-- Bursts that bytes off to off + len − 1 touch. -/
def burstsOf (off len : Nat) : List Nat :=
  if len = 0 then [] else (List.range ((off + len - 1) / 32 - off / 32 + 1)).map fun i => off / 32 + i

/-- Why an access of a requestor stops early: a translation fault, an error response, or a wait at its port. -/
inductive MemStop where
  | ok
  | xlate
  | memErr
  | held
  deriving DecidableEq, Repr

/-- What an access gives: the bytes read, how many bytes were done, why it stopped, the state after. -/
structure MemOut where
  bytes : List Byte
  done  : Nat
  stop  : MemStop
  st    : State

/-- An uncorrectable burst is logged once as a Deferred error, with its pseudo-channel and local offset (R362). -/
def State.logUe (s : State) (b : Nat) : State :=
  if Tbl.at 0 s.hbm.ue b = 1 then
    let (pc, loc) := s.pcOf (b * 32)
    let s := { s with hbm := { s.hbm with ue := Tbl.put 0 s.hbm.ue b 2 } }
    (s.inc F.HBM_PC_UE_CNT.CNT pc).raise false 2 12 0x11 pc (wd loc)
  else s

/-- Count the 32-byte reads or writes of some bursts on their pseudo-channels. -/
def State.countBursts (s : State) (f : RFld) (bs : List Nat) : State :=
  bs.foldl (fun t b => t.inc f (s.pcOf (b * 32)).1) s

/-! ## Ports (R354 to R358, R367) -/

/-- Depth of a requestor port (R354). -/
def portDepth (p : Nat) : Nat :=
  if p ≤ 2 then 256 else if p ≤ 6 then 128 else if p = 10 then 32 else if p = 11 then 4 else 64

/-- Two requests overlap in a byte. -/
def overlaps (a b : HbmReq) : Bool := a.addr < b.addr + b.len && b.addr < a.addr + a.len

/-- Requests at a port, without those of the stream of r (R354). -/
def State.atPort (s : State) (r : HbmReq) : Nat :=
  (s.hbm.waiting.filter fun w => w.port = r.port).length
    + ((s.hbm.held.filter fun w => w.port = r.port && !r.sameStream w).map HbmReq.pieces).sum

/-- A port that holds its depth of requests (R354). -/
def State.portFull (s : State) (p : Nat) : Bool :=
  decide (portDepth p ≤ (s.hbm.waiting.filter fun w => w.port = p).length
    + ((s.hbm.held.filter fun w => w.port = p).map HbmReq.pieces).sum)

/-- An access of the part's own requestors waits: a pseudo-channel that it falls in is RETRAINING, its port is full of
others, or a request that waits at the controller comes before it, because they overlap or are of one stream of an
IN_ORDER port (R354, R357, R358, R367). -/
def State.mustWait (s : State) (r : HbmReq) : Bool :=
  (burstsOf (r.addr - hbmBase) r.len).any (fun b => s.burstState b = 3 && !s.inL2 b)
    || decide (portDepth r.port ≤ s.atPort r)
    || s.hbm.waiting.any fun w =>
      overlaps w r || (r.sameStream w && s.get F.HBM_PORT_CFG.ORDER r.port = 1)

/-- A request as it enters its port: the time and the urgency settings in force (R354, R355). -/
def State.asEntered (s : State) (r : HbmReq) : HbmReq :=
  { r with
    entered := s.clock
    prio := s.get F.HBM_PORT_CFG.PRIO r.port
    target := max 1 (s.get F.HBM_PORT_CFG.TARGET_NS r.port)
    passed := 0 }

/-- The command in progress waits for an access that it cannot make. -/
def State.block (s : State) (r : HbmReq) : State :=
  { s with hbm := { s.hbm with blocked := s.hbm.blocked.or (some (s.asEntered r)) } }

/-- A request is performed later than its target after it entered its port (R355). -/
def State.countLate (s : State) (r : HbmReq) : State :=
  if r.target < s.clock - r.entered then s.inc F.HBM_PORT_LATE_CNT.CNT r.port else s

/-- An access is made: its stream waits no more, and one that waited past its target is counted late (R355). -/
def State.passPort (s : State) (r : HbmReq) : State :=
  match s.hbm.held.find? r.sameStream with
  | none => s
  | some w => ({ s with hbm := { s.hbm with held := s.hbm.held.filter fun x => !r.sameStream x } }).countLate w

/-! ## Access by physical address -/

/-- The bytes that a read returns, out of range or from a bad burst an error response with the bytes below the failing
burst (R25, R362). -/
def State.physGet (s : State) (pa len : Nat) : MemOut :=
  if !s.inHbm pa len then ⟨[], 0, .memErr, s⟩
  else
    let off := pa - hbmBase
    let bs := burstsOf off len
    match bs.find? s.burstBad with
    | some b =>
      let n := b * 32 - off
      let t := (bs.filter s.burstBad).foldl State.logUe (s.countBursts F.HBM_PC_RD_CNT.CNT bs)
      ⟨Tbl.getList 0 s.hbm.mem off n, n, .memErr, t⟩
    | none => ⟨Tbl.getList 0 s.hbm.mem off len, len, .ok, s.countBursts F.HBM_PC_RD_CNT.CNT bs⟩

/-- Bursts that a write covers whole no longer hold an error; L2 gives up the lines (R360, 14 R404). -/
def State.storeBytes (s : State) (off : Nat) (data : List Byte) : State :=
  let whole := (burstsOf off data.length).filter fun b => off ≤ b * 32 && b * 32 + 32 ≤ off + data.length
  let lo := (hbmBase + off) / 64
  let hi := (hbmBase + off + data.length - 1) / 64
  { s with
    hbm := { s.hbm with
      mem := Tbl.putList 0 s.hbm.mem off data
      ue := whole.foldl (fun t b => Tbl.put 0 t b 0) s.hbm.ue
      l2 := s.hbm.l2.filter fun e => e.1 < lo || hi < e.1 }
    ctl := { s.ctl with poisoned := s.ctl.poisoned.filter fun l => l < lo || hi < l } }

/-- A write enters the write queue of its first byte's pseudo-channel; a full queue of 64 gives its oldest to the stacks
(R356). -/
def State.queueWrite (s : State) (off len : Nat) : State :=
  let pc := (s.pcOf off).1
  let q := Tbl.at [] s.hbm.writeq pc ++ [(off, len)]
  { s with hbm := { s.hbm with writeq := Tbl.put [] s.hbm.writeq pc (q.drop (q.length - 64)) } }

/-- The bytes that a write stores, discarded with an error response from the first burst of an OFFLINE pseudo-channel
(R368). -/
def State.physPut (s : State) (pa : Nat) (data : List Byte) : MemOut :=
  if data = [] then ⟨[], 0, .ok, s⟩
  else if !s.inHbm pa data.length then ⟨[], 0, .memErr, s⟩
  else
    let off := pa - hbmBase
    let bs := burstsOf off data.length
    match bs.find? fun b => s.burstState b = 4 with
    | some b =>
      let n := b * 32 - off
      ⟨[], n, .memErr, if n = 0 then s else s.storeBytes off (data.take n)⟩
    | none =>
      ⟨[], data.length, .ok,
        ((s.storeBytes off data).countBursts F.HBM_PC_WR_CNT.CNT bs).queueWrite off data.length⟩

/-- A read of a port's stream, made at once or waiting. -/
def State.physRead (s : State) (port stream pa len : Nat) : MemOut :=
  let r : HbmReq := { port := port, stream := stream, write := false, addr := pa, len := len, data := [] }
  if s.inHbm pa len && s.mustWait r then ⟨[], 0, .held, s.block r⟩ else (s.passPort r).physGet pa len

/-- A write of a port's stream, made at once or waiting. -/
def State.physWrite (s : State) (port stream pa : Nat) (data : List Byte) : MemOut :=
  let r : HbmReq := { port := port, stream := stream, write := true, addr := pa, len := data.length, data := data }
  if data ≠ [] && s.inHbm pa data.length && s.mustWait r then ⟨[], 0, .held, s.block r⟩
  else (s.passPort r).physPut pa data

/-! ## Lines of the control cores' L2 (R360, 14 R404) -/

/-- The 64 bytes of a line. -/
def State.lineBytes (s : State) (l : Nat) : List Byte := Tbl.getList 0 s.hbm.mem (l * 64 - hbmBase) 64

/-- A hart writes bytes of HBM that lie in lines the L2 holds: the lines are modified from now on. -/
def State.l2Store (s : State) (lines : List Nat) (off : Nat) (bs : List Byte) : State :=
  let l2 := lines.foldl (fun t l => if (Tbl.find t l).isSome then t else Tbl.put [] t l (s.lineBytes l)) s.hbm.l2
  { s with hbm := { s.hbm with mem := Tbl.putList 0 s.hbm.mem off bs, l2 := l2 } }

/-- A modified line loses its data: what the stacks still hold of it is what HBM holds (14 R404). -/
def State.loseData (s : State) (l : Nat) : State :=
  match Tbl.find s.hbm.l2 l with
  | none => s
  | some old => { s with hbm := { s.hbm with
      mem := Tbl.putList 0 s.hbm.mem (l * 64 - hbmBase) old, l2 := Tbl.erase s.hbm.l2 l } }

/-- A line leaves the L2 with its mark: a modified one is written back, and in an OFFLINE pseudo-channel that loses its
data, logged as a Deferred error (14 R404). -/
def State.evictLine (s : State) (l : Nat) : State :=
  let s := { s with ctl := { s.ctl with poisoned := s.ctl.poisoned.filter (· ≠ l) } }
  if (Tbl.find s.hbm.l2 l).isNone then s
  else if s.burstState ((l * 64 - hbmBase) / 32) = 4 then (s.loseData l).raise false 2 13 0x14 0 (wd (l * 64))
  else
    let t := s.inc F.HBM_PORT_WR_CNT.CNT 9
    { t with hbm := { t.hbm with l2 := Tbl.erase t.hbm.l2 l } }

/-- After an access the L2 may give up a line that it holds modified or poisoned: its own choice (log 53). -/
def State.l2Turn (s : State) : State :=
  let lines := s.hbm.l2.map (·.1) ++ s.ctl.poisoned
  if lines = [] then s
  else
    let t := { s with freeCtr := s.freeCtr + 1 }
    match (Config.l2Victim s.freeCtr).bind fun k => lines[k]? with
    | none => t
    | some l => if t.burstState ((l * 64 - hbmBase) / 32) = 3 then t else t.evictLine l

/-! ## Translation (R370 to R376) -/

/-- Who asks: port, source number of the fault record, domain, stream of the port (R354, R375). -/
structure Src where
  port   : Nat
  source : Nat
  domain : Nat
  stream : Nat
  deriving DecidableEq, Repr

/-- A translation fault: cause, level and entry of the record. -/
structure XFault where
  cause : Nat
  level : Nat
  entry : Word
  deriving DecidableEq, Repr

/-- What a walk gives: a physical address or a fault, and the entries to keep. -/
structure WalkOut where
  res  : Except XFault Nat
  keep : List CacheEnt
  st   : State

/-- Lowest IOVA bit that indexes a level: 39, 30, 21, 12 (R370). -/
def levelShift (l : Nat) : Nat := 39 - 9 * l

/-- Address field of an entry: bits [45:12] in place. -/
def entryPa (e : Word) : Nat := fld e 12 34 * 4096

/-- The entry is a leaf of its level. -/
def isLeaf (l : Nat) (e : Word) : Bool := l = 3 || (l = 2 && bitAt e.toNat 3)

/-- A bit that R371 requires to be zero is one. -/
def badEntry (l : Nat) (e : Word) : Bool :=
  fld e 46 18 ≠ 0 || fld e 4 8 ≠ 0
    || (l ≠ 2 && bitAt e.toNat 3)
    || (!isLeaf l e && fld e 1 2 ≠ 0)
    || (l = 2 && bitAt e.toNat 3 && fld e 12 9 ≠ 0)

/-- Physical address that a leaf gives an IOVA. -/
def leafPa (l : Nat) (e : Word) (iova : Nat) : Nat :=
  if l = 2 then entryPa e + iova % 2 ^ 21 else entryPa e + iova % 4096

/-- The leaf allows the access. -/
def leafAllows (e : Word) (write : Bool) : Bool := bitAt e.toNat (if write then 2 else 1)

/-- Walk from a level with its table's address; named is the entry that named the table, with its level (R372). -/
def State.walk (s : State) (dom iova : Nat) (write : Bool) :
    Nat → Nat → Nat → Nat × Word → List CacheEnt → WalkOut
  | 0, _, _, _, keep => ⟨.error ⟨2, 0, 0⟩, keep, s⟩
  | fuel + 1, l, table, named, keep =>
    if !s.inHbm table 4096 then ⟨.error ⟨5, named.1, named.2⟩, keep, s⟩
    else
      let r := s.physRead 10 dom (table + (iova / 2 ^ levelShift l % 512) * 8) 8
      let t := r.st.inc F.HBM_PORT_RD_CNT.CNT 10
      if r.stop ≠ .ok then ⟨.error ⟨2, l, 0⟩, keep, t⟩
      else
        let e := wd (ofLe r.bytes)
        if !bitAt e.toNat 0 then ⟨.error ⟨3, l, e⟩, keep, t⟩
        else if badEntry l e then ⟨.error ⟨4, l, e⟩, keep, t⟩
        else if isLeaf l e then
          if !s.inHbm (entryPa e) (if l = 2 then 2 ^ 21 else 4096) then ⟨.error ⟨5, l, e⟩, keep, t⟩
          else if !leafAllows e write then ⟨.error ⟨6, l, e⟩, keep, t⟩
          else ⟨.ok (leafPa l e iova), ⟨dom, l, iova / 2 ^ levelShift l, e⟩ :: keep, t⟩
        else
          t.walk dom iova write fuel (l + 1) (entryPa e) (l, e) (⟨dom, l, iova / 2 ^ levelShift l, e⟩ :: keep)

/-- A cached entry of the path of an IOVA at a level. -/
def State.cached (s : State) (dom iova l : Nat) : Option Word :=
  (s.iom.cache.find? fun c => c.domain = dom && c.level = l && c.tag = iova / 2 ^ levelShift l).map (·.entry)

/-- The cached leaf of an IOVA: its level and entry. -/
def State.cachedLeaf (s : State) (dom iova : Nat) : Option (Nat × Word) :=
  match s.cached dom iova 3 with
  | some e => some (3, e)
  | none => match s.cached dom iova 2 with
    | some e => if isLeaf 2 e then some (2, e) else none
    | none => none

/-- The deepest cached non-leaf entry of an IOVA: level and entry. -/
def State.cachedNode (s : State) (dom iova : Nat) : Option (Nat × Word) :=
  [2, 1, 0].findSome? fun l =>
    match s.cached dom iova l with
    | some e => if isLeaf l e then none else some (l, e)
    | none => none

/-- Keep entries in the cache; a full cache of 16,384 gives up entries of its own choice (R373) (log 12). -/
def keepEntries (cache : List CacheEnt) (n : Nat) : List CacheEnt → List CacheEnt
  | [] => cache
  | c :: cs =>
    let cache := cache.filter fun d => !(d.domain = c.domain && d.level = c.level && d.tag = c.tag)
    let cache := if 16384 ≤ cache.length then cache.eraseIdx (Config.cacheVictim n % cache.length) else cache
    keepEntries (c :: cache) (n + 1) cs

/-- Drop the cached entries of the path of an IOVA. -/
def State.dropPath (s : State) (dom iova : Nat) : State :=
  { s with iom := { s.iom with cache := s.iom.cache.filter fun c =>
      !(c.domain = dom && c.tag = iova / 2 ^ levelShift c.level) } }

/-- A walk from ROOT. -/
def State.walkRoot (s : State) (dom iova : Nat) (write : Bool) : WalkOut :=
  let s := s.inc F.IOM_WALK_CNT.CNT 0
  if s.isSet F.IOM_DOM_CFG.EN dom then
    s.walk dom iova write 4 0 (s.get F.IOM_DOM_CFG.ROOT dom * 4096) (0, 0) []
  else ⟨.error ⟨1, 0, 0⟩, [], s⟩

/-- Keep what a walk read. -/
def WalkOut.commit (w : WalkOut) : Except XFault Nat × State :=
  (w.res, { w.st with
    freeCtr := w.st.freeCtr + w.keep.length
    iom := { w.st.iom with cache := keepEntries w.st.iom.cache w.st.freeCtr w.keep } })

/-- Translate an IOVA from the cache or by walking; a translation that would fault on cached entries walks again from
ROOT and faults only if that walk does (R373). -/
def State.translate (s : State) (dom iova : Nat) (write : Bool) : Except XFault Nat × State :=
  match s.cachedLeaf dom iova with
  | some (l, e) =>
    if leafAllows e write && s.inHbm (entryPa e) (if l = 2 then 2 ^ 21 else 4096) then (.ok (leafPa l e iova), s)
    else ((s.dropPath dom iova).walkRoot dom iova write).commit
  | none =>
    match s.cachedNode dom iova with
    | none => (s.walkRoot dom iova write).commit
    | some (l, e) =>
      let t := s.inc F.IOM_WALK_CNT.CNT 0
      let w := if t.isSet F.IOM_DOM_CFG.EN dom then t.walk dom iova write 4 (l + 1) (entryPa e) (l, e) []
        else ⟨.error ⟨1, 0, 0⟩, [], t⟩
      match w.res with
      | .ok _ => w.commit
      | .error _ => ((w.st.dropPath dom iova).walkRoot dom iova write).commit

/-- A fault writes one record to its domain's queue, or loses it to a full one; a notice follows if enabled (R375,
R376). -/
def State.iomFault (s : State) (q : Src) (iova : Nat) (write : Bool) (x : XFault) : State :=
  let s := s.inc F.IOM_FAULT_CNT.CNT 0
  let fq := Tbl.at [] s.iom.fq q.domain
  if 64 ≤ fq.length then s.inc F.IOM_FQ_LOST_CNT.CNT q.domain
  else
    let w0 := wd (x.cause * 2 ^ 56 + x.level * 2 ^ 54 + b2n write * 2 ^ 53 + iova % 2 ^ 48)
    let w1 := wd (q.port * 2 ^ 60 + q.source * 2 ^ 50)
    let s := { s with iom := { s.iom with
      fq := Tbl.put [] s.iom.fq q.domain (fq ++ [[w0, w1, tagTime (s.tb 0).total, x.entry]]) } }
    if s.isSet F.IOM_DOM_CFG.NOTICE_EN q.domain then
      s.post1 9 (s.get F.IOM_DOM_CFG.EVQ q.domain) x.cause q.domain 0 (iova % 2 ^ 48)
    else s

/-- Bytes from an address to its page's end, at most len. -/
def pagePart (iova len : Nat) : Nat := min len (4096 - iova % 4096)

/-- A translated read, page by page in ascending order; it stops at the first fault, error or hold. -/
def State.vreadGo (s : State) (q : Src) : Nat → Nat → Nat → List Byte → MemOut
  | 0, _, _, acc => ⟨acc, acc.length, .ok, s⟩
  | fuel + 1, iova, len, acc =>
    if len = 0 then ⟨acc, acc.length, .ok, s⟩
    else
      let n := pagePart iova len
      match s.translate q.domain iova false with
      | (.error x, t) => ⟨acc, acc.length, .xlate, t.iomFault q iova false x⟩
      | (.ok pa, t) =>
        let r := t.physRead q.port q.stream pa n
        let u := r.st.add F.HBM_PORT_RD_CNT.CNT q.port (ceilDiv (pa % 64 + n) 64)
        if r.stop = .ok then u.vreadGo q fuel ((iova + n) % 2 ^ 48) (len - n) (acc ++ r.bytes)
        else ⟨acc ++ r.bytes, acc.length + r.done, r.stop, u⟩

/-- A translated read of len bytes at an IOVA. -/
def State.vread (s : State) (q : Src) (iova len : Nat) : MemOut := s.vreadGo q (len / 4096 + 2) (iova % 2 ^ 48) len []

/-- A translated write, page by page. -/
def State.vwriteGo (s : State) (q : Src) : Nat → Nat → List Byte → Nat → MemOut
  | 0, _, _, done => ⟨[], done, .ok, s⟩
  | fuel + 1, iova, data, done =>
    if data = [] then ⟨[], done, .ok, s⟩
    else
      let n := pagePart iova data.length
      match s.translate q.domain iova true with
      | (.error x, t) => ⟨[], done, .xlate, t.iomFault q iova true x⟩
      | (.ok pa, t) =>
        let r := t.physWrite q.port q.stream pa (data.take n)
        let u := r.st.add F.HBM_PORT_WR_CNT.CNT q.port (ceilDiv (pa % 64 + n) 64)
        if r.stop = .ok then u.vwriteGo q fuel ((iova + n) % 2 ^ 48) (data.drop n) (done + n)
        else ⟨[], done + r.done, r.stop, u⟩

/-- A translated write of bytes at an IOVA. -/
def State.vwrite (s : State) (q : Src) (iova : Nat) (data : List Byte) : MemOut :=
  s.vwriteGo q (data.length / 4096 + 2) (iova % 2 ^ 48) data 0

/-- A read of a management ring by physical address: HBM through HP8 in the ring's stream, or L2-backed scratch
(R377). -/
def State.physAny (s : State) (stream pa len : Nat) : MemOut :=
  if 0x08000000 ≤ pa && pa + len ≤ 0x08100000 then
    ⟨Tbl.getList 0 s.ctl.scratch (pa - 0x08000000) len, len, .ok, s⟩
  else
    let r := s.physRead 8 stream pa len
    { r with st := r.st.add F.HBM_PORT_RD_CNT.CNT 8 (ceilDiv (pa % 64 + len) 64) }

/-- The write of the same two ranges. -/
def State.physAnyWrite (s : State) (stream pa : Nat) (data : List Byte) : MemOut :=
  if 0x08000000 ≤ pa && pa + data.length ≤ 0x08100000 then
    ⟨[], data.length, .ok, { s with ctl := { s.ctl with
      scratch := Tbl.putList 0 s.ctl.scratch (pa - 0x08000000) data } }⟩
  else
    let r := s.physWrite 8 stream pa data
    { r with st := r.st.add F.HBM_PORT_WR_CNT.CNT 8 (ceilDiv (pa % 64 + data.length) 64) }

/-! ## The canonical form -/

/-- The byte memories that a port or a hart reaches, each keyed by offset: HBM, L2-backed scratch, the mailbox, the
packet buffer, the boot flash (01 R22, R28). -/
def State.mems (s : State) : List (Tbl Byte) := [s.hbm.mem, s.ctl.scratch, s.ctl.mailbox, s.tm.buf, s.sec.flash]

/-- Every byte memory lists its bytes in rising order and lists no byte equal to what an unlisted one reads as. -/
def Memory.wf (s : State) : Bool := s.mems.all fun t => Tbl.wf 0 t

end Sys2Proof.Machine
end

