-- ==== Sys2Proof/Machine/Crypto.lean ====
section
/-! DEFINITION. The cryptography that the spec cites by standard and does not spell out (03 R67, 15 R426, R427, R448),
written from those standards (PRESUMED, log 15): AES of FIPS 197, SHA-1 and SHA-384 of FIPS 180-4, HMAC of FIPS 198-1,
counter mode and GCM as RFC 3711 and RFC 7714 use them, AES Key Wrap of RFC 3394, ECDSA on P-384 of FIPS 186-5. -/

namespace Sys2Proof.Machine

/-! ## AES (FIPS 197) -/

/-- Times x in the field of AES. -/
def xtime (b : Byte) : Byte := (b <<< 1) ^^^ (if b.getLsbD 7 then 0x1B else 0)

/-- Product in the field of AES, over the low n bits of b. -/
def gmul : Nat → Byte → Byte → Byte
  | 0, _, _ => 0
  | n + 1, a, b => (if b.getLsbD 0 then a else 0) ^^^ gmul n (xtime a) (b >>> 1)

/-- Product of the powers a^2, a^4, … of n squarings. -/
def squares : Nat → Byte → Byte
  | 0, _ => 1
  | n + 1, a => gmul 8 (gmul 8 a a) (squares n (gmul 8 a a))

/-- Multiplicative inverse, a^254; 0 for 0. -/
def ginv (a : Byte) : Byte := squares 7 a

/-- The S-box and its inverse. -/
def sbox (b : Byte) : Byte :=
  let i := ginv b
  i ^^^ i.rotateLeft 1 ^^^ i.rotateLeft 2 ^^^ i.rotateLeft 3 ^^^ i.rotateLeft 4 ^^^ 0x63
def invSbox (b : Byte) : Byte := ginv (b.rotateLeft 1 ^^^ b.rotateLeft 3 ^^^ b.rotateLeft 6 ^^^ 0x05)

/-- Bytewise exclusive or, as long as the shorter list. -/
def xorBytes (a b : List Byte) : List Byte := List.zipWith (· ^^^ ·) a b

/-- The round constant of round n. -/
def rcon : Nat → Byte
  | 0 => 0x8D
  | n + 1 => xtime (rcon n)

/-- The key schedule, four bytes a word, to n words. -/
def keyWords (nk : Nat) : Nat → List (List Byte) → List (List Byte)
  | 0, ws => ws
  | n + 1, ws =>
    let i := ws.length
    let last := ws.getD (i - 1) []
    let t := if i % nk = 0 then xorBytes ((last.drop 1 ++ last.take 1).map sbox) [rcon (i / nk), 0, 0, 0]
      else if 6 < nk && i % nk = 4 then last.map sbox
      else last
    keyWords nk n (ws ++ [xorBytes (ws.getD (i - nk) []) t])

/-- Rounds of a key of n bytes. -/
def aesRounds (n : Nat) : Nat := n / 4 + 6

/-- Round keys of 16 bytes. -/
def roundKeys (key : List Byte) : List (List Byte) :=
  let nk := key.length / 4
  let r := aesRounds key.length
  let ws := keyWords nk (4 * (r + 1) - nk) ((List.range nk).map fun i => slice key (4 * i) 4)
  (List.range (r + 1)).map fun i => (ws.drop (4 * i)).take 4 |>.flatten

/-- A 4 × 4 state by columns with row r turned left by r·k. -/
def shiftRows (k : Nat) (st : List Byte) : List Byte :=
  (List.range 16).map fun i => st.getD ((i / 4 + i % 4 * k) % 4 * 4 + i % 4) 0

/-- Each column times the circulant matrix of a row. -/
def mixCols (row : List Byte) (st : List Byte) : List Byte :=
  (List.range 16).map fun i =>
    (List.range 4).foldl (fun a j => a ^^^ gmul 8 (st.getD (i / 4 * 4 + j) 0) (row.getD ((j + 4 - i % 4) % 4) 0)) 0

/-- AES encryption of a 16-byte block under its round keys. -/
def aesRounded (ks : List (List Byte)) (block : List Byte) : List Byte :=
  let st := (ks.tail.dropLast).foldl
    (fun st k => xorBytes (mixCols [2, 3, 1, 1] (shiftRows 1 (st.map sbox))) k) (xorBytes block (ks.headD []))
  xorBytes (shiftRows 1 (st.map sbox)) (ks.getLastD [])

/-- AES encryption of a 16-byte block. -/
def aesEncrypt (key block : List Byte) : List Byte := aesRounded (roundKeys key) block

/-- AES decryption of a 16-byte block. -/
def aesDecrypt (key block : List Byte) : List Byte :=
  let ks := (roundKeys key).reverse
  let st := (ks.tail.dropLast).foldl
    (fun st k => mixCols [14, 11, 13, 9] (xorBytes ((shiftRows 3 st).map invSbox) k)) (xorBytes block (ks.headD []))
  xorBytes ((shiftRows 3 st).map invSbox) (ks.getLastD [])

/-- Key stream of n bytes: counter blocks whose low bits bits count up from an initial block. -/
def keyStream (key : List Byte) (bits first n : Nat) : List Byte :=
  let ks := roundKeys key
  ((List.range (ceilDiv n 16)).flatMap fun i =>
    aesRounded ks (beBytes 16 (first / 2 ^ bits * 2 ^ bits + (first + i) % 2 ^ bits))).take n

/-! ## Galois/Counter Mode (RFC 7714) -/

/-- Product in the field of GHASH, over n bits of x from the highest. -/
def ghashMul : Nat → BitVec 128 → BitVec 128 → BitVec 128
  | 0, _, _ => 0
  | n + 1, x, v =>
    (if x.getLsbD 127 then v else 0)
      ^^^ ghashMul n (x <<< 1) (if v.getLsbD 0 then (v >>> 1) ^^^ (0xE1#128 <<< 120) else v >>> 1)

/-- GHASH over n blocks of bytes. -/
def ghash (h : BitVec 128) : Nat → List Byte → BitVec 128 → BitVec 128
  | 0, _, y => y
  | n + 1, bs, y => ghash h n (bs.drop 16) (ghashMul 128 (y ^^^ BitVec.ofNat 128 (ofBe (slice bs 0 16))) h)

/-- Bytes with zeros up to whole blocks. -/
def padded (bs : List Byte) : List Byte := slice bs 0 (ceilDiv bs.length 16 * 16)

/-- The GCM tag of a ciphertext under a 12-byte IV. -/
def gcmTag (key iv aad ct : List Byte) : List Byte :=
  let h := BitVec.ofNat 128 (ofBe (aesEncrypt key (List.replicate 16 0)))
  let bs := padded aad ++ padded ct ++ beBytes 8 (8 * aad.length) ++ beBytes 8 (8 * ct.length)
  xorBytes (beBytes 16 (ghash h (bs.length / 16) bs 0).toNat) (aesEncrypt key (iv ++ [0, 0, 0, 1]))

/-- GCM's encryption, which is its decryption too. -/
def gcmCrypt (key iv bs : List Byte) : List Byte := xorBytes bs (keyStream key 32 (ofBe iv * 2 ^ 32 + 2) bs.length)

/-! ## Hashes (FIPS 180-4, FIPS 198-1) -/

/-- The greatest number below 2^n whose power k is at most v. -/
def rootBelow (k v : Nat) : Nat → Nat
  | 0 => 0
  | n + 1 =>
    let hi := rootBelow k (v / 2 ^ k) n * 2
    if (hi + 1) ^ k ≤ v then hi + 1 else hi

/-- The primes below n, at most 529, in order. -/
def primesBelow (n : Nat) : List Nat :=
  (List.range n).filter fun p =>
    decide (2 ≤ p) && [2, 3, 5, 7, 11, 13, 17, 19].all fun d => decide (p = d) || decide (p % d ≠ 0)

/-- A message with its padding: a one bit, zeros, its length in bits as len bytes; whole blocks of size bytes. -/
def hashPad (size len : Nat) (m : List Byte) : List Byte :=
  let whole := ceilDiv (m.length + 1 + len) size * size
  slice (m ++ [0x80]) 0 (whole - len) ++ beBytes len (8 * m.length)

/-- A message schedule carried to n more words: next gives each new word from the ones before, newest first. -/
def schedule {α : Type} (next : List α → α) : Nat → List α → List α
  | 0, ws => ws
  | n + 1, ws => schedule next n (next ws :: ws)

/-- The state of a hash after each of n blocks of size bytes. -/
def hashBlocks {α : Type} (size : Nat) (f : α → List Byte → α) : Nat → List Byte → α → α
  | 0, _, h => h
  | n + 1, bs, h => hashBlocks size f n (bs.drop size) (f h (slice bs 0 size))

/-- One block of SHA-1. -/
def sha1Block (h : List (BitVec 32)) (b : List Byte) : List (BitVec 32) :=
  let g := fun (ws : List (BitVec 32)) i => ws.getD i 0
  let first := (List.range 16).map fun i => BitVec.ofNat 32 (beAt b (4 * i) 4)
  let ws := schedule (fun ws => (g ws 2 ^^^ g ws 7 ^^^ g ws 13 ^^^ g ws 15).rotateLeft 1) 64 first.reverse
  let out := ws.reverse.zipIdx.foldl (fun v (p : BitVec 32 × Nat) =>
    let x := g v 1
    let y := g v 2
    let z := g v 3
    let (f, k) := if p.2 < 20 then ((x &&& y) ||| (~~~x &&& z), 0x5A827999#32)
      else if p.2 < 40 then (x ^^^ y ^^^ z, 0x6ED9EBA1#32)
      else if p.2 < 60 then ((x &&& y) ||| (x &&& z) ||| (y &&& z), 0x8F1BBCDC#32)
      else (x ^^^ y ^^^ z, 0xCA62C1D6#32)
    [(g v 0).rotateLeft 5 + f + g v 4 + k + p.1, g v 0, x.rotateLeft 30, y, z]) h
  List.zipWith (· + ·) h out

/-- SHA-1. -/
def sha1 (m : List Byte) : List Byte :=
  let bs := hashPad 64 8 m
  (hashBlocks 64 sha1Block (bs.length / 64) bs
    [0x67452301#32, 0xEFCDAB89#32, 0x98BADCFE#32, 0x10325476#32, 0xC3D2E1F0#32]).flatMap fun w => beBytes 4 w.toNat

/-- The 80 round constants of SHA-384: fractions of the cube roots of the first primes. -/
def sha384K : List Word := (primesBelow 410).map fun p => wd (rootBelow 3 (p * 2 ^ 192) 70)

/-- The initial value of SHA-384: fractions of the square roots of the ninth to sixteenth primes. -/
def sha384Init : List Word := ((primesBelow 54).drop 8).map fun p => wd (rootBelow 2 (p * 2 ^ 128) 70)

/-- One block of SHA-384. -/
def sha384Block (h : List Word) (b : List Byte) : List Word :=
  let g := fun (ws : List Word) i => ws.getD i 0
  let small := fun (w : Word) r s t => w.rotateRight r ^^^ w.rotateRight s ^^^ (w >>> t)
  let big := fun (w : Word) r s t => w.rotateRight r ^^^ w.rotateRight s ^^^ w.rotateRight t
  let first := (List.range 16).map fun i => wd (beAt b (8 * i) 8)
  let ws := schedule (fun ws => small (g ws 1) 19 61 6 + g ws 6 + small (g ws 14) 1 8 7 + g ws 15) 64 first.reverse
  let out := (List.zip ws.reverse sha384K).foldl (fun v p =>
    let e := g v 4
    let a := g v 0
    let t1 := g v 7 + big e 14 18 41 + ((e &&& g v 5) ^^^ (~~~e &&& g v 6)) + p.2 + p.1
    let t2 := big a 28 34 39 + ((a &&& g v 1) ^^^ (a &&& g v 2) ^^^ (g v 1 &&& g v 2))
    [t1 + t2, a, g v 1, g v 2, g v 3 + t1, e, g v 5, g v 6]) h
  List.zipWith (· + ·) h out

/-- SHA-384. -/
def sha384 (m : List Byte) : BitVec 384 :=
  let bs := hashPad 128 16 m
  let h := hashBlocks 128 sha384Block (bs.length / 128) bs sha384Init
  BitVec.ofNat 384 (ofBe ((h.take 6).flatMap fun w => beBytes 8 w.toNat))

/-- HMAC over a hash of block size bytes: key, message. -/
def hmac (size : Nat) (hash : List Byte → List Byte) (key m : List Byte) : List Byte :=
  let k := slice (if size < key.length then hash key else key) 0 size
  hash (k.map (· ^^^ 0x5C) ++ hash (k.map (· ^^^ 0x36) ++ m))

/-- HMAC-SHA1. -/
def hmacSha1 (key m : List Byte) : List Byte := hmac 64 sha1 key m

/-- HMAC-SHA-384. -/
def hmac384 (key m : List Byte) : BitVec 384 :=
  BitVec.ofNat 384 (ofBe (hmac 128 (fun b => beBytes 48 (sha384 b).toNat) key m))

/-! ## AES Key Wrap (RFC 3394) -/

/-- The steps of a wrap, j counting them: the register A and the data in blocks of 8 bytes. -/
def wrapSteps (key : List Byte) : List Nat → List Byte × List (List Byte) → List Byte × List (List Byte)
  | [], r => r
  | t :: ts, (a, bs) =>
    let i := (t - 1) % bs.length
    let b := aesEncrypt key (a ++ bs.getD i [])
    wrapSteps key ts (xorBytes (b.take 8) (beBytes 8 t), bs.set i (b.drop 8))

/-- The same steps backwards. -/
def unwrapSteps (key : List Byte) : List Nat → List Byte × List (List Byte) → List Byte × List (List Byte)
  | [], r => r
  | t :: ts, (a, bs) =>
    let i := (t - 1) % bs.length
    let b := aesDecrypt key (xorBytes a (beBytes 8 t) ++ bs.getD i [])
    unwrapSteps key ts (b.take 8, bs.set i (b.drop 8))

/-- Data in blocks of 8 bytes. -/
def blocks8 (bs : List Byte) : List (List Byte) := (List.range (bs.length / 8)).map fun i => slice bs (8 * i) 8

/-- Data wrapped under a key: 8 bytes longer. -/
def keyWrap (key data : List Byte) : List Byte :=
  let r := wrapSteps key ((List.range (6 * (data.length / 8))).map (· + 1)) (List.replicate 8 0xA6, blocks8 data)
  r.1 ++ r.2.flatten

/-- Wrapped data opened; none where its integrity check fails. -/
def keyUnwrap (key blob : List Byte) : Option (List Byte) :=
  let bs := blocks8 (blob.drop 8)
  let r := unwrapSteps key ((List.range (6 * bs.length)).map (· + 1)).reverse (blob.take 8, bs)
  if r.1 = List.replicate 8 0xA6 then some r.2.flatten else none

/-! ## ECDSA on P-384 (FIPS 186-5) -/

/-- The field prime, the curve's b, its base point and the order of that point. -/
def p384P : Nat := 2 ^ 384 - 2 ^ 128 - 2 ^ 96 + 2 ^ 32 - 1
def p384B : Nat := 0xB3312FA7E23EE7E4988E056BE3F82D19181D9C6EFE8141120314088F5013875AC656398D8A2ED19D2A85C8EDD3EC2AEF
def p384Gx : Nat := 0xAA87CA22BE8B05378EB1C71EF320AD746E1D3B628BA79B9859F741E082542A385502F25DBF55296C3A545E3872760AB7
def p384Gy : Nat := 0x3617DE4A96262C6F5D9E98BF9292DC29F8F41DBD289A147CE9DA3113B5F0B8C00A60B1CE1D7E819D7A431D7C90EA0E5F
def p384Order : Nat := 0xFFFFFFFFFFFFFFFFFFFFFFFFFFFFFFFFFFFFFFFFFFFFFFFFC7634D81F4372DDF581A0DB248B0A77AECEC196ACCC52973

/-- a^e modulo m over the low n bits of e. -/
def powMod (m : Nat) : Nat → Nat → Nat → Nat
  | 0, _, _ => 1
  | n + 1, a, e => (if e % 2 = 1 then a else 1) * powMod m n (a * a % m) (e / 2) % m

/-- Inverse modulo a prime. -/
def invMod (m a : Nat) : Nat := powMod m 384 (a % m) (m - 2)

/-- A point of the curve as x = X/Z² and y = Y/Z³, the point at infinity with Z 0. -/
abbrev EcPoint := Nat × Nat × Nat

/-- Difference modulo the field prime of numbers below it. -/
def subP (a b : Nat) : Nat := (a + (p384P - b)) % p384P

/-- Twice a point. -/
def ecDouble (a : EcPoint) : EcPoint :=
  let p := p384P
  let yy := a.2.1 * a.2.1 % p
  let b := 4 * (a.1 * yy % p) % p
  let zz := a.2.2 * a.2.2 % p
  let l := 3 * (subP a.1 zz * ((a.1 + zz) % p)) % p
  let x := subP (l * l % p) (2 * b % p)
  (x, subP (l * subP b x % p) (8 * (yy * yy % p) % p), 2 * (a.2.1 * a.2.2) % p)

/-- Sum of two points. -/
def ecAdd (a b : EcPoint) : EcPoint :=
  let p := p384P
  if a.2.2 = 0 then b
  else if b.2.2 = 0 then a
  else
    let za := a.2.2 * a.2.2 % p
    let zb := b.2.2 * b.2.2 % p
    let u := a.1 * zb % p
    let v := a.2.1 * (zb * b.2.2 % p) % p
    let h := subP (b.1 * za % p) u
    let r := subP (b.2.1 * (za * a.2.2 % p) % p) v
    if h = 0 then if r = 0 then ecDouble a else (1, 1, 0)
    else
      let hh := h * h % p
      let x := subP (r * r % p) ((hh * h + 2 * (u * hh)) % p)
      (x, subP (r * subP (u * hh % p) x % p) (v * (hh * h % p) % p), a.2.2 * (b.2.2 * h % p) % p)

/-- A point times a number, over the number's low n bits. -/
def ecMul : Nat → Nat → EcPoint → EcPoint
  | 0, _, _ => (1, 1, 0)
  | n + 1, k, q =>
    let r := ecMul n (k / 2) (ecDouble q)
    if k % 2 = 1 then ecAdd q r else r

/-- The coordinates x and y of a point; none at infinity. -/
def ecAffine (a : EcPoint) : Option (Nat × Nat) :=
  if a.2.2 = 0 then none
  else
    let i := invMod p384P a.2.2
    let ii := i * i % p384P
    some (a.1 * ii % p384P, a.2.1 * (ii * i % p384P) % p384P)

/-- The base point. -/
def ecBase : EcPoint := (p384Gx, p384Gy, 1)

/-- AK_PUB of a scalar: X then Y of d × G (15 R426, R427). -/
def akPub (d : Nat) : BitVec 768 :=
  match ecAffine (ecMul 384 d ecBase) with
  | none => 0
  | some (x, y) => BitVec.ofNat 768 (x * 2 ^ 384 + y)

/-- Whether a signature r, s of a digest verifies under a public key X, Y. -/
def ecdsaVerify (pub : List Byte) (digest : BitVec 384) (sig : List Byte) : Bool :=
  let n := p384Order
  let x := beAt pub 0 48
  let y := beAt pub 48 48
  let r := beAt sig 0 48
  let t := beAt sig 48 48
  if p384P ≤ x || p384P ≤ y || y * y % p384P ≠ (x * x * x + (p384P - 3) * x + p384B) % p384P then false
  else if r = 0 || n ≤ r || t = 0 || n ≤ t then false
  else
    let w := invMod n t
    match ecAffine (ecAdd (ecMul 384 (digest.toNat % n * w % n) ecBase) (ecMul 384 (r * w % n) (x, y, 1))) with
    | none => false
    | some (vx, _) => vx % n = r

/-- A signature of a digest under a scalar with a nonce in place of the random one (log 15). -/
def ecdsaSign (nonce d : Nat) (digest : BitVec 384) : BitVec 768 :=
  let n := p384Order
  let k := nonce % (n - 1) + 1
  match ecAffine (ecMul 384 k ecBase) with
  | none => 0
  | some (x, _) =>
    let r := x % n
    BitVec.ofNat 768 (r * 2 ^ 384 + invMod n k * ((digest.toNat + r * d) % n) % n)

/-! ## SRTP and SRTCP packets (RFC 3711, RFC 7714) -/

/-- A suite of AES-GCM (03 R67). -/
def isGcm (suite : Nat) : Bool := decide (3 ≤ suite)

/-- Length of a suite's cipher key and salt (03 R67). -/
def keyLen (suite : Nat) : Nat := if suite = 4 || suite = 6 then 32 else 16
def saltLen (suite : Nat) : Nat := if isGcm suite then 12 else 14

/-- Length of the SRTP and SRTCP tag of a suite (03 R67). -/
def tagLen (suite : Nat) (rtcp : Bool) : Nat :=
  match suite with
  | 1 => 10
  | 2 => if rtcp then 10 else 4
  | 3 => 16
  | 4 => 16
  | 5 => 16
  | 6 => 16
  | _ => 0

/-- Bytes that a suite adds to a packet: the tag, and for SRTCP the E flag and index (03 R67, R81). That this word leaves
the stored packet and its LEN with the tag is DEDUCED: R81 names the tag bytes alone (log 29). -/
def suiteGrowth (suite : Nat) (rtcp : Bool) : Nat :=
  if suite = 0 then 0 else tagLen suite rtcp + if rtcp then 4 else 0

/-- What a key set gives a packet: suite, session key, salt, authentication key (03 R69). -/
structure SrtpKey where
  suite : Nat
  key : List Byte
  salt : List Byte
  auth : List Byte

/-- The initial counter block or IV of a packet: AES-CM's from the 48-bit or 31-bit index, GCM's from SSRC and index. -/
def srtpIv (k : SrtpKey) (rtcp : Bool) (ssrc index : Nat) : List Byte :=
  if isGcm k.suite then
    xorBytes k.salt ([0, 0] ++ beBytes 4 ssrc ++ (if rtcp then [0, 0] ++ beBytes 4 index else beBytes 6 index))
  else xorBytes (k.salt ++ [0, 0]) (beBytes 16 (ssrc * 2 ^ 64 + index * 2 ^ 16))

/-- Bytes encrypted, or decrypted, under a key set. -/
def srtpCrypt (k : SrtpKey) (iv bs : List Byte) : List Byte :=
  if isGcm k.suite then gcmCrypt k.key iv bs else xorBytes bs (keyStream k.key 16 (ofBe iv) bs.length)

/-- The tag of a packet: head is what travels in clear before ct; trail is the word that the tag covers after it: the ROC,
or the E flag and index. -/
def srtpTag (k : SrtpKey) (rtcp : Bool) (iv head ct trail : List Byte) : List Byte :=
  if isGcm k.suite then gcmTag k.key iv (if rtcp then head ++ trail else head) ct
  else (hmacSha1 k.auth (head ++ ct ++ trail)).take (tagLen k.suite rtcp)

/-- Decrypt and check a packet: clear is the length of its header, which travels in clear, index its index. With E 0 an
SRTCP packet is checked and not decrypted (03 R77). The plaintext packet and whether its tag is right. -/
def srtpOpen (k : SrtpKey) (rtcp : Bool) (clear index : Nat) (pkt : List Byte) : List Byte × Bool :=
  let n := pkt.length - suiteGrowth k.suite rtcp
  let t := tagLen k.suite rtcp
  let body := pkt.take n
  let esrtcp := slice pkt (if isGcm k.suite then n + t else n) 4
  let tag := slice pkt (if rtcp && !isGcm k.suite then n + 4 else n) t
  let e := !rtcp || 0x80 ≤ byteAt esrtcp 0
  let clear := if e then clear else n
  let iv := srtpIv k rtcp (beAt pkt (if rtcp then 4 else 8) 4) index
  let trail := if rtcp then esrtcp else beBytes 4 (index / 65536)
  let head := body.take clear
  let ct := body.drop clear
  (head ++ srtpCrypt k iv ct,
    decide (suiteGrowth k.suite rtcp ≤ pkt.length) && srtpTag k rtcp iv head ct trail = tag)

/-- Encrypt a packet and append its tag, and for SRTCP E 1 and the index at the place the suite sets. -/
def srtpSeal (k : SrtpKey) (rtcp : Bool) (clear index : Nat) (pkt : List Byte) : List Byte :=
  let iv := srtpIv k rtcp (beAt pkt (if rtcp then 4 else 8) 4) index
  let trail := if rtcp then beBytes 4 (2 ^ 31 + index) else beBytes 4 (index / 65536)
  let head := pkt.take clear
  let ct := srtpCrypt k iv (pkt.drop clear)
  let tag := srtpTag k rtcp iv head ct trail
  head ++ ct ++ (if !rtcp then tag else if isGcm k.suite then tag ++ trail else trail ++ tag)

end Sys2Proof.Machine
end

