-- ==== Sys2Proof/Machine/Package.lean ====
section
/-! DEFINITION. The package (17): its balls and what each carries (R472 to R476), the levels of the signals in reset
(R477), the rails (R479, R481), and the delay between a ball and the stamp point (R487). No command changes any of it. -/

namespace Sys2Proof.Machine

/-! ## Balls (R472) -/

/-- Ball Y<row>X<col>; rows and columns are numbered 1 to 88, row 1 and column 1 at the corner mark. -/
structure Ball where
  row : Nat
  col : Nat
  deriving DecidableEq, Repr

/-- The array has this ball. -/
def Ball.inArray (b : Ball) : Bool := 1 ≤ b.row && b.row ≤ 88 && 1 ≤ b.col && b.col ≤ 88

/-- The ball's centre, in half millimetres to the right of the package centre and above it. -/
def Ball.centre (b : Ball) : Int × Int := (2 * (b.col : Int) - 89, 89 - 2 * (b.row : Int))

/-- The ball of an edge (0 top, 1 right, 2 bottom, 3 left) at depth d and position s (R474). -/
def edgeBall (e d s : Nat) : Ball :=
  match e with
  | 0 => ⟨d, s⟩
  | 1 => ⟨s, 89 - d⟩
  | 2 => ⟨89 - d, 89 - s⟩
  | _ => ⟨89 - s, d⟩

/-- Edge, depth and position of a ball of the SerDes band: depth 1 to 12, position 13 to 76 (R473). -/
def Ball.band (b : Ball) : Option (Nat × Nat × Nat) :=
  let mid := fun n => 13 ≤ n && n ≤ 76
  if b.row ≤ 12 && mid b.col then some (0, b.row, b.col)
  else if 77 ≤ b.col && mid b.row then some (1, 89 - b.col, b.row)
  else if 77 ≤ b.row && mid b.col then some (2, 89 - b.row, 89 - b.col)
  else if b.col ≤ 12 && mid b.row then some (3, b.col, 89 - b.row)
  else none

/-! ## Rails (R479, R481) -/

/-- The nine rails. -/
inductive Rail where
  | vddCore | vddPll | avddSd | avddSdh | hbmVddp | hbmVdd | hbmVddq | hbmVpp | vddio18
  deriving DecidableEq, Repr

/-- Nominal voltage in mV, tolerance in percent, typical and maximum current in mA (R479). -/
def Rail.limits : Rail → Nat × Nat × Nat × Nat
  | .vddCore => (750, 3, 323000, 355000)
  | .vddPll => (750, 2, 2000, 3000)
  | .avddSd => (750, 3, 64000, 72000)
  | .avddSdh => (1200, 3, 17500, 20000)
  | .hbmVddp => (750, 3, 16000, 20000)
  | .hbmVdd => (1100, 3, 16400, 22000)
  | .hbmVddq => (400, 3, 20000, 26000)
  | .hbmVpp => (1800, 3, 1100, 2000)
  | .vddio18 => (1800, 5, 280, 500)

/-- The step of R481 in which the board raises a rail. -/
def Rail.upStep : Rail → Nat
  | .hbmVpp => 1
  | .vddCore => 2
  | .vddPll => 2
  | .avddSd => 2
  | .hbmVddp => 2
  | .hbmVdd => 3
  | .avddSdh => 3
  | .hbmVddq => 4
  | .vddio18 => 5

/-! ## Signals (R476, R477) -/

/-- The 54 signals of the corners; a number tells those of one name apart. -/
inductive Signal where
  | qspiClk | qspiCsN | qspiIo (n : Nat) | i2cScl | i2cSda | uartTx | uartRx | gpio (n : Nat)
  | mgtTx (neg : Bool) | mgtRx (neg : Bool) | refclk100 (neg : Bool) | mdc | mdio | sdCal (edge : Nat)
  | coreSense (neg : Bool) | ppsIn (n : Nat) | ppsOut (n : Nat) | ref10mIn | ref10mOut
  | tck | tms | tdi | tdo | trstN | resetN | faultN | testMode
  deriving DecidableEq, Repr

/-- The direction of a signal, seen from the part (R477). -/
inductive Direction where
  | inp
  | out
  | both
  deriving DecidableEq, Repr

/-- The direction that R477 gives each signal; it lists no SD_CAL. -/
def Signal.dir : Signal → Option Direction
  | .resetN | .testMode | .uartRx | .gpio _ | .ppsIn _ | .ref10mIn | .tck | .tms | .tdi | .trstN | .mgtRx _
  | .refclk100 _ => some .inp
  | .faultN | .qspiClk | .qspiCsN | .uartTx | .ppsOut _ | .ref10mOut | .mdc | .tdo | .mgtTx _ | .coreSense _ => some .out
  | .qspiIo _ | .i2cScl | .i2cSda | .mdio => some .both
  | .sdCal _ => none

/-- What a signal shows while VDDIO_18 is up and full reset is in progress (R477): an input drives nothing, and of
VDD_CORE_SENSE and SD_CAL the table gives no state. -/
inductive ResetLevel where
  | unstated
  | input
  | low
  | high
  | highZ
  | released
  | idle
  deriving DecidableEq, Repr

/-- The reset state of each signal; the bidirectional ones do not drive. -/
def Signal.inReset : Signal → ResetLevel
  | .faultN => .released
  | .qspiClk => .highZ
  | .qspiCsN => .highZ
  | .qspiIo _ => .highZ
  | .i2cScl => .released
  | .i2cSda => .released
  | .uartTx => .high
  | .ppsOut _ => .low
  | .ref10mOut => .low
  | .mdc => .low
  | .mdio => .highZ
  | .tdo => .highZ
  | .mgtTx _ => .idle
  | .resetN | .testMode | .uartRx | .gpio _ | .ppsIn _ | .ref10mIn | .tck | .tms | .tdi | .trstN | .mgtRx _
  | .refclk100 _ => .input
  | .sdCal _ | .coreSense _ => .unstated

/-- The level to which a signal's internal pull takes it when nothing drives it; none without a pull (R477). -/
def Signal.pull : Signal → Option Bool
  | .resetN | .qspiCsN | .qspiIo _ | .uartRx | .mdio | .tms | .tdi => some true
  | .testMode | .gpio _ | .ppsIn _ | .ref10mIn | .tck | .trstN => some false
  | .faultN | .qspiClk | .i2cScl | .i2cSda | .uartTx | .ppsOut _ | .ref10mOut | .mdc | .tdo | .mgtTx _ | .mgtRx _
  | .refclk100 _ | .sdCal _ | .coreSense _ => none

/-! ## What each ball carries (R473 to R476) -/

/-- One of the four balls of a lane. -/
inductive LanePin where
  | txP | txN | rxP | rxN
  deriving DecidableEq, Repr

/-- A ball's function. -/
inductive BallUse where
  | vss
  | rail (r : Rail)
  | lane (l : Nat) (p : LanePin)
  | serdesRef (n : Nat) (neg : Bool)
  | signal (g : Signal)
  | reserved
  deriving DecidableEq, Repr

/-- The ball of a lane's signal: the lane lies on edge l / 64, tier l / 32 mod 2, position l mod 32 (R474). -/
def laneBall (l : Nat) (p : LanePin) : Ball :=
  let (d, s) := match p with
    | .txP => (1, 13)
    | .txN => (1, 14)
    | .rxP => (3, 13)
    | .rxN => (3, 14)
  edgeBall (l / 64) (d + 4 * (l / 32 % 2)) (s + 2 * (l % 32))

/-- The reference clock that serves a SerDes group (R475). -/
def serdesRefOf (group : Nat) : Nat := group / 2

/-- The SerDes groups that reference clock n serves (R475). -/
def serdesRefGroups (n : Nat) : List Nat := [2 * n, 2 * n + 1]

/-- The ball of a SerDes reference clock (R475). -/
def serdesRefBall (n : Nat) (neg : Bool) : Ball := edgeBall (n / 4) 10 (20 + 16 * (n % 4) + b2n neg)

/-- What an edge's band carries at a depth and position (R473, R474, R475). -/
def bandUse (e d s : Nat) : BallUse :=
  let m := (s - 13) / 2
  let neg := (s - 13) % 2 = 1
  let pin := fun (tier : Nat) (tx : Bool) =>
    BallUse.lane (e * 64 + tier * 32 + m)
      (if tx then (if neg then .txN else .txP) else (if neg then .rxN else .rxP))
  match d with
  | 1 => pin 0 true
  | 3 => pin 0 false
  | 5 => pin 1 true
  | 7 => pin 1 false
  | 9 => .rail .avddSdh
  | 10 => if 20 ≤ s && (s - 20) % 16 < 2 && s < 70 then .serdesRef (e * 4 + (s - 20) / 16) ((s - 20) % 16 = 1) else .vss
  | 11 => .rail .avddSd
  | 12 => .rail .avddSd
  | _ => .vss

/-- Balls of one row from a column on, one for each use. -/
def rowUses (row col : Nat) (us : List BallUse) : List (Ball × BallUse) :=
  (List.range us.length).map fun i => (⟨row, col + i⟩, us.getD i .vss)

/-- Signals numbered from a first one on. -/
def numbered (f : Nat → Signal) (first n : Nat) : List BallUse := (List.range n).map fun i => .signal (f (first + i))

/-- The corner balls other than VSS (R476), by corner: top left, top right. -/
def topCorners : List (Ball × BallUse) :=
  rowUses 4 1 [.signal .qspiClk, .signal .qspiCsN] ++ rowUses 4 3 (numbered .qspiIo 0 4)
    ++ rowUses 4 8 [.signal .i2cScl, .signal .i2cSda] ++ rowUses 4 11 [.signal .uartTx, .signal .uartRx]
    ++ rowUses 5 1 (List.replicate 8 (.rail .vddio18)) ++ rowUses 6 1 (numbered .gpio 0 12)
    ++ rowUses 8 1 (numbered .gpio 12 4) ++ rowUses 8 6 [.reserved, .reserved]
    ++ rowUses 10 1 (List.replicate 4 (.rail .vddPll))
    ++ rowUses 2 79 (List.replicate 4 (.rail .vddPll))
    ++ rowUses 4 81 [.signal (.mgtTx false), .signal (.mgtTx true)]
    ++ rowUses 6 81 [.signal (.mgtRx false), .signal (.mgtRx true)]
    ++ rowUses 8 81 [.signal (.refclk100 false), .signal (.refclk100 true)]
    ++ rowUses 10 78 [.signal .mdc, .signal .mdio] ++ rowUses 10 84 (numbered .sdCal 0 4)
    ++ rowUses 12 81 [.reserved, .reserved]

/-- The corner balls other than VSS (R476): bottom right, bottom left. -/
def bottomCorners : List (Ball × BallUse) :=
  rowUses 80 81 [.signal (.coreSense false), .signal (.coreSense true)]
    ++ rowUses 82 78 (List.replicate 4 (.rail .vddPll))
    ++ [(⟨84, 78⟩, .signal (.ppsIn 0)), (⟨84, 80⟩, .signal (.ppsIn 1)), (⟨84, 82⟩, .signal (.ppsOut 0)),
      (⟨84, 84⟩, .signal (.ppsOut 1)), (⟨84, 86⟩, .signal .ref10mIn), (⟨84, 88⟩, .signal .ref10mOut)]
    ++ rowUses 86 78 (List.replicate 4 (.rail .vddio18)) ++ rowUses 88 80 [.reserved, .reserved, .reserved]
    ++ rowUses 82 1 (List.replicate 4 (.rail .vddPll))
    ++ rowUses 84 1 [.signal .tck, .signal .tms, .signal .tdi, .signal .tdo, .signal .trstN]
    ++ [(⟨84, 8⟩, .signal .resetN), (⟨84, 10⟩, .signal .faultN), (⟨84, 12⟩, .signal .testMode)]
    ++ rowUses 86 1 (List.replicate 4 (.rail .vddio18)) ++ rowUses 88 1 [.reserved, .reserved, .reserved]

/-- The rail of a row of an HBM stack's region, where row and column have an odd sum (R473). -/
def stackRail (row : Nat) : Rail :=
  if row ≤ 34 then .hbmVpp else if row ≤ 42 then .hbmVdd else if row ≤ 49 then .hbmVddq else .hbmVddp

/-- The ball lies in the region of an HBM stack. -/
def Ball.inStack (b : Ball) : Bool :=
  33 ≤ b.row && b.row ≤ 56 && ((15 ≤ b.col && b.col ≤ 42) || (47 ≤ b.col && b.col ≤ 74))

/-- The function of a ball (R473). -/
def Ball.use (b : Ball) : BallUse :=
  match b.band with
  | some (e, d, s) => bandUse e d s
  | none =>
    if 13 ≤ b.row && b.row ≤ 76 && 13 ≤ b.col && b.col ≤ 76 then
      if b.inStack then (if (b.row + b.col) % 2 = 0 then .vss else .rail (stackRail b.row))
      else if (b.row + b.col) % 3 = 0 then .vss
      else .rail .vddCore
    else match (topCorners ++ bottomCorners).find? fun e => e.1 = b with
      | some (_, u) => u
      | none => .vss

/-! ## Junction sensors (R491) -/

/-- A junction sensor by its place; a number tells those of one place apart. -/
inductive Sensor where
  | pods (n : Nat) | video (n : Nat) | forwarding (n : Nat) | serdes (edge : Nat) | hbmPhy (stack : Nat) | voxotte | control
  deriving DecidableEq, Repr

/-- The sensors of the part. -/
def sensors : List Sensor :=
  (List.range 8).map .pods ++ (List.range 4).map .video ++ (List.range 4).map .forwarding ++ (List.range 4).map .serdes
    ++ (List.range 2).map .hbmPhy ++ [.voxotte, .control]

/-- The pods that a pod sensor watches. -/
def sensorPods (n : Nat) : List Nat := (List.range 4).map fun i => 4 * n + i

/-! ## Delay between a ball and the stamp point (R487) -/

/-- The PHYs of R33 by what R487 tells apart. -/
inductive Phy where
  | g10
  | g25
  | g25Fec
  | g100x4
  | g100x4Fec
  | g50
  | g100x2
  | g200
  | g400
  deriving DecidableEq, Repr

/-- Receive delay from ball to stamp and transmit delay from stamp to ball, in hundredths of a nanosecond. -/
def Phy.delays : Phy → Nat × Nat
  | .g10 => (4200, 2800)
  | .g25 => (3550, 2400)
  | .g25Fec => (11800, 7150)
  | .g100x4 => (3325, 2275)
  | .g100x4Fec => (11250, 6800)
  | .g50 => (26800, 27900)
  | .g100x2 => (20500, 22100)
  | .g200 => (17100, 19600)
  | .g400 => (15625, 18450)

/-- Hundredths of a nanosecond in units of 2^-16 ns, to the nearest. -/
def stampUnits (c : Nat) : Nat := (c * 65536 * 2 + 100) / 200

/-- TIM_PORT_CORR that refers a port's stamps to a connector whose board delay in each direction is given, in hundredths
of a nanosecond: RX_CORR takes the whole receive delay off, TX_CORR adds the transmit one (17, example after R476). -/
def Phy.corr (p : Phy) (board : Nat) : Nat :=
  let rx := stampUnits (p.delays.1 + board)
  let tx := stampUnits (p.delays.2 + board)
  (2 ^ 32 - rx) % 2 ^ 32 * 2 ^ 32 + tx % 2 ^ 32

end Sys2Proof.Machine
end

