-- ==== Sys2Proof/Machine/Errors.lean ====
section
/-! DEFINITION. The Error Controller (16): classes, injection, slots, logs, trace, temperature. -/

namespace Sys2Proof.Machine

/-- Class of an uncorrectable SRAM error by its array number (16 R452, second table). -/
def arrayClass (s : State) (a : Nat) : Nat :=
  match a with
  | 1 => 2
  | 2 => 2
  | 3 => 3
  | 5 => if s.isSet F.WD_LOCK_STATUS.A_OFF 0 || s.isSet F.WD_LOCK_STATUS.B_OFF 0 then 4 else 1
  | 6 => 3
  | 7 => 3
  | 8 => 3
  | 9 => 3
  | 10 => 1
  | 11 => 2
  | 13 => 3
  | _ => 4

/-- Class of an error code, where R452 lists it. -/
def errClass (s : State) (code inst : Nat) : Option Nat :=
  match code with
  | 0x01 => some 1
  | 0x02 => some (arrayClass s (inst / 4096 % 16))
  | 0x03 => some 4
  | 0x10 => some 1
  | 0x11 => some 2
  | 0x12 => some 1
  | 0x13 => some 3
  | 0x14 => some 2
  | 0x20 => some 1
  | 0x21 => some 4
  | 0x22 => some 4
  | 0x23 => some 1
  | 0x30 => some 3
  | 0x40 => some 4
  | 0x41 => some 4
  | 0x42 => some 1
  | 0x50 => some 4
  | _ => none

/-- ERR_INJECT with GO 1: a record as though the error had occurred; nothing for an unlisted CODE or SUBSYS (R462). -/
def State.inject (s : State) (v : Word) : State :=
  let s := s.setReg .ERR_INJECT 0 (setFld v 63 1 0 &&& wd 0x000FFF000000FFFF)
  let subsys := s.get F.ERR_INJECT.SUBSYS 0
  let code := s.get F.ERR_INJECT.CODE 0
  let inst := s.get F.ERR_INJECT.INST 0
  if subsys = 0 || 14 < subsys then s
  else match errClass s code inst with
    | none => s
    | some c => s.raise true c subsys code inst (s.reg .ERR_INJECT_INFO 0)

/-- ERR_INJECT: a write of the register; GO 1 makes the record. -/
def execErrInject (value : Word) (s : State) : Out :=
  s.whenLive fun s =>
    if bitAt value.toNat 63 then s.inject value
    else s.setReg .ERR_INJECT 0 (value &&& wd 0x000FFF000000FFFF)

/-- Words of the record in the slot of class k + 1. -/
def State.slotRecord (s : State) (k : Nat) : List Word := (List.range 4).map fun i => s.reg .ERR_SLOT_W (4 * k + i)

/-- Empty the slots of the classes whose bit is written 1; the Fatal slot never empties so (R456). -/
def State.clearSlots (s : State) (value : Word) : State :=
  (List.range 3).foldl (fun t k =>
    if bitAt value.toNat k then
      let t := t.recordOut k (t.slotRecord k)
      let t := t.setReg .ERR_STATUS 0 (setFld (t.reg .ERR_STATUS 0) k 1 0)
      (List.range 4).foldl (fun u i => u.setReg .ERR_SLOT_W (4 * k + i) 0) t
    else t) s

/-- SLOT_FULL_CLEAR: a write of ERR_STATUS. -/
def execSlotFullClear (value : Word) (s : State) : Out := s.whenLive fun s => s.clearSlots value

/-- Remove the oldest record of each class whose bit is 1; an empty log ignores it (R457). -/
def State.popLogs (s : State) (value : Word) : State :=
  (List.range 4).foldl (fun t k =>
    if bitAt value.toNat k then
      let log := Tbl.at [] t.err.logs k
      ({ t with err := { t.err with logs := Tbl.put [] t.err.logs k log.tail } }).recordOut k (log.headD [])
    else t) s

/-- ERR_LOG_POP: a write of the register. -/
def execErrLogPop (value : Word) (s : State) : Out := s.whenLive fun s => s.popLogs value

/-- A software trace entry, committed by the write of word 3 (R464): SOURCE by privilege, CODE and data from the
registers, time from CTL_MTIME. -/
def State.traceCommit (s : State) (priv : Priv) (value : Word) : State :=
  let s := s.setReg .ERR_TRACE_WR 3 value
  let src := if priv = .m then 1 else 2
  let code := fld (s.reg .ERR_TRACE_WR 0) 32 16
  s.trace [wd (src * 2 ^ 48 + code * 2 ^ 32), wd s.mtime, s.reg .ERR_TRACE_WR 2, value]

/-- ERR_TRACE_WR3: the committing write. -/
def execErrTraceWr3 (priv : Priv) (value : Word) (s : State) : Out := s.whenLive fun s => s.traceCommit priv value

/-- Read the trace word at RD_ADDR and advance it modulo 2^17 (R463). -/
def State.traceRead (s : State) (hart : Nat) : State :=
  let a := s.get F.ERR_TRACE_RD_ADDR.ADDR 0
  (s.respond hart (Tbl.at 0 s.err.trace a)).put F.ERR_TRACE_RD_ADDR.ADDR 0 (a + 1)

/-- ERR_TRACE_RD_DATA: a read of the register. -/
def execErrTraceRdData (hart : Nat) (s : State) : Out := s.whenLive fun s => s.traceRead hart

/-! ## Temperature (R469, R470) -/

/-- e^(p/q) in units of 2^−128 for p, q natural: 90 terms of the series. -/
def expSeries (p q : Nat) : Nat → Nat → Nat → Nat → Nat
  | 0, _, _, acc => acc
  | fuel + 1, k, term, acc => expSeries p q fuel (k + 1) (term * p / (q * k)) (acc + term * p / (q * k))

/-- round(1000 × exp(8123.5 × (1/358.15 − 1/(TJ + 273.15)))) for TJ in 1/16 °C (R470): the exponent is an exact
fraction, the exponential is kept to 128 fraction bits. -/
def lifeStep (tj16 : Int) : Nat :=
  let n := (100 * tj16 + 437040).toNat
  let one := 2 ^ 128
  if n = 0 then 0
  else if 573040 ≤ n then
    let e := expSeries (12997600 * (n - 573040)) (573040 * n) 90 1 one one
    (2000 * e + one) / (2 * one)
  else
    let e := expSeries (12997600 * (573040 - n)) (573040 * n) 90 1 one one
    (2000 * one + e) / (2 * e)

/-- A temperature in whole °C as ERR_THERM_CFG holds it, in 1/16 °C. -/
def cfg16 (v : Nat) : Int := 16 * sext v 8

/-- Raise THERM_TRIP when the latest TJ has reached TRIP (R469); it is raised once per crossing (log 17). -/
def State.checkTrip (s : State) : State :=
  let tj := sext (s.get F.ERR_THERM_STATUS.TJ 0) 16
  let hot := cfg16 (s.get F.ERR_THERM_CFG.TRIP 0) ≤ tj
  let was := s.err.tripped
  let s := { s with err := { s.err with tripped := decide hot } }
  if hot && !was then s.raiseFree 4 13 0x41 0 else s

/-- DUTY after a reading (R469). -/
def nextDuty (d minDuty : Nat) (tj hi lo : Int) : Nat :=
  if hi ≤ tj then (if minDuty < d then d - 1 else d)
  else if tj ≤ lo then (if d < 8 then d + 1 else d)
  else d

/-- One reading of the junction sensors: TJ, DUTY, the counters, THROTTLE and THERM_TRIP (R469, R470, R491). -/
def State.thermal (s : State) (tj : Int) : State :=
  let d := s.get F.ERR_THERM_STATUS.DUTY 0
  let d' := nextDuty d (s.get F.ERR_THERM_CFG.MIN_DUTY 0) tj
    (cfg16 (s.get F.ERR_THERM_CFG.THR_HI 0)) (cfg16 (s.get F.ERR_THERM_CFG.THR_LO 0))
  let s := s.put F.ERR_THERM_STATUS.TJ 0 (wrapInt tj 16)
  let s := s.put F.ERR_THERM_STATUS.DUTY 0 d'
  let s := s.flag F.ERR_THERM_STATUS.THROTTLING 0 (d' < 8)
  let s := if d < 8 then s.inc F.ERR_THERM_CNT.CNT 0 else s
  let s := s.add F.ERR_LIFE_ACC.ACC 0 (lifeStep tj)
  let s := if d = 8 && d' < 8 then s.raiseFree 1 13 0x42 0 else s
  s.checkTrip

/-- TJ: the highest of the readings of the 24 junction sensors, taken in the order of sensors (17 R491). -/
def junction (readings : List Int) : Option Int :=
  match readings with
  | [] => none
  | t :: ts => if readings.length = sensors.length then some (ts.foldl max t) else none

/-- THERMAL_READING: every 1 ms, with the readings of the junction sensors in 1/16 °C. -/
def execThermalReading (readings : List Int) (s : State) : Out :=
  s.whenLive fun s =>
    match junction readings with
    | some tj => s.thermal tj
    | none => s

/-- A write of ERR_THERM_CFG: accepted only for THR_LO < THR_HI ≤ TRIP ≤ 115 and MIN_DUTY 1 to 8. -/
def State.thermCfg (s : State) (value : Word) : State :=
  let trip := sext (fld value 24 8) 8
  let hi := sext (fld value 16 8) 8
  let lo := sext (fld value 8 8) 8
  let md := fld value 0 4
  if lo < hi ∧ hi ≤ trip ∧ trip ≤ 115 ∧ 1 ≤ md ∧ md ≤ 8 then
    (s.setReg .ERR_THERM_CFG 0 (value &&& wd 0xFFFFFF0F)).checkTrip
  else s.flag F.ERR_THERM_CFG.CFG_ERR 0 true

/-- ERR_THERM_CFG_WRITE: a write of the register. -/
def execErrThermCfgWrite (value : Word) (s : State) : Out := s.whenLive fun s => s.thermCfg value

end Sys2Proof.Machine
end

