-- ==== Sys2Proof/Machine/Security.lean ====
section
/-! DEFINITION. The root of trust (15): boot, measurement registers, mailbox, network requests, sealing, debug unlock.
Its cryptography is Crypto's; a signature's nonce and a challenge's random value are Config's (log 15). -/

namespace Sys2Proof.Machine

/-- A digest as its byte string (R427). -/
def digestBytes (d : BitVec 384) : List Byte := beBytes 48 d.toNat

/-- MEASi (R435). -/
def State.meas (s : State) (i : Nat) : BitVec 384 := Tbl.at 0 s.sec.meas i

/-- EXT_CNT i. -/
def State.extCnt (s : State) (i : Nat) : Nat := Tbl.at 0 s.sec.extCnt i

/-- Extend MEASi with a digest; none where its count is at its maximum (R435). -/
def State.extend (s : State) (i : Nat) (d : List Byte) : Option State :=
  if s.extCnt i = 0xFFFFFFFF then none
  else some { s with sec := { s.sec with
    meas := Tbl.put 0 s.sec.meas i (sha384 (digestBytes (s.meas i) ++ d))
    extCnt := Tbl.put 0 s.sec.extCnt i (s.extCnt i + 1) } }

/-- Extend where the count cannot be at its maximum: during boot. -/
def State.extendBoot (s : State) (i : Nat) (data : List Byte) : State :=
  (s.extend i (digestBytes (sha384 data))).getD s

/-- The fuse record of R437. -/
def Fuses.record (f : Fuses) : List Byte :=
  leBytes 8 (f.lifecycle % 4 + f.ownerRevoke % 16 * 16 + f.svn % 256 * 256 + Config.bootRomVersion.toNat * 65536)
    ++ leBytes 16 f.deviceId.toNat ++ beBytes 48 f.bruathKeyHash.toNat
    ++ (List.range 4).flatMap fun i => beBytes 48 (Tbl.at 0 f.ownerKeyHash i)

/-- Bytes of the boot flash. -/
def State.flash (s : State) (off n : Nat) : List Byte := Tbl.getList 0 s.sec.flash off n

/-! ## Boot (R429 to R433) -/

/-- A boot configuration copy is valid (R429). -/
def configValid (ws : List Word) : Bool :=
  fld (ws.getD 0 0) 48 16 = 0x5943 && fld (ws.getD 0 0) 40 8 = 1
    && fld (ws.getD 511 0) 0 32 = crc32 (wordBytes (ws.take 511))

/-- The words of a copy in flash. -/
def State.configCopy (s : State) (c : Nat) : List Word := bytesWords 512 (s.flash (c * 4096) 4096)

/-- The default words: CHANNEL_MASK all ones, AN_EN 1 (R429). -/
def defaultConfig : List Word :=
  Config.defaultWord 0 :: wd (2 ^ 64 - 1) :: wd (2 ^ 52) :: List.replicate 508 0 ++ [Config.defaultWord 511]

/-- The copy that boot uses: the valid one of later SEQ, copy 0 on a tie; none where neither is valid (R429). -/
def State.chooseConfig (s : State) : Option Nat :=
  let c0 := s.configCopy 0
  let c1 := s.configCopy 1
  if configValid c0 then
    if configValid c1 && seqAfter (fld (c1.getD 0 0) 0 32) (fld (c0.getD 0 0) 0 32) then some 1 else some 0
  else if configValid c1 then some 1 else none

/-- Offset of a firmware slot in flash (R428). -/
def slotOffset (slot : Nat) : Nat := if slot = 0 then 0x10000 else 0xA0000

/-- The slot holds a header with the right MAGIC. -/
def State.slotMagic (s : State) (slot : Nat) : Bool := ofLe (s.flash (slotOffset slot + 6) 2) = 0x5949

/-- VERSION of a slot's header. -/
def State.slotVersion (s : State) (slot : Nat) : Nat := ofLe (s.flash (slotOffset slot + 8) 4)

/-- The owner key hash matches one whose OWNER_REVOKE bit is 0. -/
def Fuses.ownerKey (f : Fuses) (h : BitVec 384) : Bool :=
  (List.range 4).any fun i => Tbl.at 0 f.ownerKeyHash i = h.toNat && !bitAt f.ownerRevoke i

/-- What R431 finds of a signed header part of 176 bytes, its signature and the body's digest: 0 verified, 2 BAD_SIG,
3 ROLLBACK, the first failure in the order of the rule's points (log 22). The mailbox trusts BODY_DIGEST. -/
def checkImage (f : Fuses) (type : Nat) (hdr sig : List Byte) (body : Option (List Byte)) : Nat :=
  let w0 := ofLe (slice hdr 0 8)
  let bodyLen := w0 % 2 ^ 32
  let entry := ofLe (slice hdr 12 4)
  let pub := slice hdr 0x20 96
  if bitsOf w0 48 16 ≠ 0x5949 || bitsOf w0 40 8 ≠ 1 || bitsOf w0 32 8 ≠ type || bodyLen ≤ entry then 2
  else if !ecdsaVerify pub (sha384 (slice hdr 0 0xB0)) sig then 2
  else if body.any fun b => digestBytes (sha384 b) ≠ slice hdr 0x80 48 then 2
  else if byteAt hdr 0x10 % 64 < f.svn then 3
  else if type = 1 then
    if sha384 pub = f.bruathKeyHash && bodyLen ≤ 0x80000 then 0 else 2
  else if f.lifecycle = 0 || f.ownerKey (sha384 pub) then 0 else 2

/-- Try a firmware slot: its body goes to scratch; the result is 0 verified, 1 NO_IMAGE, 2 BAD_SIG, 3 ROLLBACK. -/
def State.trySlot (s : State) (slot : Nat) : Nat × State :=
  if !s.slotMagic slot then (1, s)
  else
    let hdr := s.flash (slotOffset slot) 512
    let len := ofLe (slice hdr 0 4)
    if 0x80000 < len then (2, s)
    else
      let body := s.flash (slotOffset slot + 512) len
      let t := { s with ctl := { s.ctl with scratch := Tbl.putList 0 s.ctl.scratch 0 body } }
      (checkImage s.sec.fuses 1 hdr (slice hdr 0xB0 96) (some body), t)

/-- Slots in the order tried: the one of greater VERSION first, slot A on a tie or when only it has a MAGIC (R432). -/
def State.slotOrder (s : State) : Nat × Nat :=
  if s.slotMagic 1 && (!s.slotMagic 0 || s.slotVersion 0 < s.slotVersion 1) then (1, 0) else (0, 1)

/-- Steps 1 to 2: keys into the key store, unless the part is RETIRED or an unlock has closed the DEVICE_SECRET read path
(R425, R426, R450). -/
def State.deriveKeys (s : State) : State :=
  if 2 ≤ s.sec.fuses.lifecycle || !s.sec.secretOpen then s
  else
    let secret := leBytes 32 s.sec.fuses.deviceSecret.toNat
    let s := { s with sec := { s.sec with
      ak := (hmac384 secret [1]).toNat % (p384Order - 1) + 1
      sealSecret := hmac384 secret [2] } }
    s.flag F.SEC_STATUS.AK_VALID 0 true

/-- Steps 4 and 5: the configuration, and the addresses it claims; MAC 0 claims none (R429, R432, R444). -/
def State.loadConfig (s : State) : State :=
  let c := s.chooseConfig
  let ws := match c with
    | some i => s.configCopy i
    | none => defaultConfig
  let s := { s with sec := { s.sec with bootCopy := c, bootWords := ws } }
  let s := (s.flag F.SEC_STATUS.CFG_DEFAULT 0 c.isNone).extendBoot 1 (wordBytes ws)
  let w := fun i => ws.getD i 0
  let mac := fld (w 2) 0 48
  let s := s.setReg .SEC_BOOT_MASK 0 (w 1)
  let s := s.put F.CTL_MGT_MAC.MAC 0 mac
  let s := (s.put F.CTL_MGT_CFG.MODE 0 (fld (w 2) 51 1)).put F.CTL_MGT_CFG.AN_EN 0 (fld (w 2) 52 1)
  if mac = 0 then s
  else
    let s := if bitAt (w 3).toNat 63 then s.setReg .SEC_NET_V4 0 (w 3 &&& wd 0x80000000FFFFFFFF) else s
    if bitAt (w 6).toNat 63 then
      ((s.setReg .SEC_NET_V6_LO 0 (w 4)).setReg .SEC_NET_V6_HI 0 (w 5)).flag F.SEC_NET_V6_EN.EN 0 true
    else s

/-- Steps 6 and 7: load and check the firmware (R432, R433). -/
def State.loadFirmware (s : State) : State :=
  let (a, b) := s.slotOrder
  let (ra, sa) := s.trySlot a
  let (r, slot, t) := if ra = 0 then (0, a, sa) else
    let (rb, sb) := sa.trySlot b
    (rb, b, sb)
  if r = 0 then
    let hdr := t.flash (slotOffset slot) 512
    let t := t.extendBoot 2 (slice hdr 0 0xB0)
    let t := (t.flag F.SEC_STATUS.SLOT_B 0 (slot = 1)).put F.SEC_STATUS.BOOT_STATE 0 2
    { t with
      sec := { t.sec with imgSvn := byteAt hdr 0x10 % 64 }
      hart := { t.hart with fetch := Tbl.put 0 t.hart.fetch 0 (0x08000000 + ofLe (slice hdr 12 4)) } }
  else
    let t := (t.put F.SEC_STATUS.FAIL 0 r).put F.SEC_STATUS.BOOT_STATE 0 3
    { t with hart := { t.hart with wfi := Tbl.put false t.hart.wfi 0 true } }

/-- ROOT_OF_TRUST_BOOT: steps 1 to 7 of R432 after a full reset; selfTestOk is what the known-answer tests find. -/
def execRootOfTrustBoot (selfTestOk : Bool) (s : State) : Out :=
  s.whenLive fun s =>
    if s.sec.booted || s.sec.dead then s
    else
      let wfi := (List.range 8).foldl (fun t h => if h = 0 then t else Tbl.put false t h true) s.hart.wfi
      let s := { s with hart := { s.hart with wfi := wfi } }
      if !selfTestOk then
        let s := { s with
          sec := { s.sec with dead := true }
          hart := { s.hart with wfi := Tbl.put false s.hart.wfi 0 true } }
        ((s.put F.SEC_STATUS.BOOT_STATE 0 3).put F.SEC_STATUS.FAIL 0 4).raiseFree 4 14 0x50 0
      else
        let s := s.deriveKeys.extendBoot 0 s.sec.fuses.record
        let s := s.loadConfig.loadFirmware
        { s with sec := { s.sec with booted := true } }

/-! ## Mailbox (R438 to R443) -/

/-- The root of trust serves requests: boot has ended and it still works (R434). -/
def State.rotServes (s : State) : Bool := s.sec.booted && !s.sec.dead

/-- Offset of a mailbox half: M, then S. -/
def halfBase (m : Bool) : Nat := if m then 0 else 0x8000

/-- Bytes of the mailbox. -/
def State.mbx (s : State) (off n : Nat) : List Byte := Tbl.getList 0 s.ctl.mailbox off n

/-- Write bytes into the mailbox. -/
def State.mbxPut (s : State) (off : Nat) (bs : List Byte) : State :=
  { s with ctl := { s.ctl with mailbox := Tbl.putList 0 s.ctl.mailbox off bs } }

/-- The doorbell of a half waits. -/
def State.rung (s : State) (m : Bool) : Bool := if m then s.sec.mbxM else s.sec.mbxS

/-- Set or clear the doorbell of a half. -/
def State.ring (s : State) (m b : Bool) : State :=
  { s with sec := if m then { s.sec with mbxM := b } else { s.sec with mbxS := b } }

/-- A doorbell of a half: a write of 1 rings it. -/
def State.doorbell (s : State) (m : Bool) (value : Word) : State := if fld value 0 1 = 1 then s.ring m true else s

/-- SEC_MBX_DB_M: an M-mode write of 1 rings the M half; from S or U mode the write completes with an error response
(R438). -/
def execSecMbxDbM (hart : Nat) (priv : Priv) (value : Word) (s : State) : Out :=
  s.whenLive fun s => if priv ≠ .m then s.accessFault hart .store 0x30001000 else s.doorbell true value

/-- SEC_MBX_DB_S: a write of 1 rings the S half. -/
def execSecMbxDbS (value : Word) (s : State) : Out := s.whenLive fun s => s.doorbell false value

/-- A message's answer: status, payload, state. -/
structure Answer where
  status  : Nat
  payload : List Byte
  st      : State

/-- An answer that carries a status alone. -/
def Answer.fail (status : Nat) (s : State) : Answer := ⟨status, [], s⟩

/-- Message number of the request that waits in a half. -/
def State.mbxMsg (s : State) (m : Bool) : Nat := ofLe (s.mbx (halfBase m + 6) 2)

/-- The root of trust serves a half: its doorbell waits, the M half first, and the request names the message (R421,
R439, R443). A request whose SEQ equals the last response's is ignored. A half, or a LOCK, that does not allow the
message answers DENIED before LEN is checked, where the message fixes it (R440, R441). -/
def State.rotServe (s : State) (m : Bool) (isMsg : Nat → Bool) (halfOk : Bool) (len : Option Nat)
    (f : State → List Byte → Answer) : State :=
  let base := halfBase m
  if !s.rotServes || !s.rung m || (!m && s.rung true) then s
  else if !isMsg (s.mbxMsg m) then s
  else
    let t := s.ring m false
    let reqSeq := ofLe (s.mbx (base + 12) 4)
    if reqSeq = ofLe (s.mbx (base + 0x400C) 4) then t
    else
      let n := ofLe (s.mbx (base + 4) 2)
      let a := if !halfOk then .fail 3 t
        else if len.any (· ≠ n) || 0x3FC0 < n then .fail 2 t
        else f t (s.mbx (base + 0x40) n)
      let u := a.st.mbxPut (base + 0x4040) a.payload
      let u := u.mbxPut (base + 0x4000) (s.mbx base 4 ++ leBytes 2 a.payload.length ++ s.mbx (base + 6) 2)
      u.mbxPut (base + 0x4008) (leBytes 4 a.status ++ leBytes 4 reqSeq)

/-- AK_VALID. -/
def State.akValid (s : State) : Bool := s.isSet F.SEC_STATUS.AK_VALID 0

/-- A report of R446 over a nonce, with REPORT_SEQ and the count advanced. -/
def State.report (s : State) (nonce : List Byte) : List Byte × State :=
  let seq := s.sec.reportSeq + 1
  let f := s.sec.fuses
  let st := s.reg .SEC_STATUS 0
  let flags := f.svn % 256 * 256 + f.lifecycle % 4 * 64 + fld st 8 1 * 32 + fld st 9 1 * 16
    + b2n (fld st 0 2 = 3) * 8 + b2n (!s.akValid) * 4 + fld st 6 1 * 2 + fld st 7 1
  let body := leBytes 8 (0x5952 * 2 ^ 48 + 2 ^ 40 + 1152 * 65536) ++ leBytes 8 flags
    ++ leBytes 8 seq ++ leBytes 8 s.mtime ++ leBytes 16 f.deviceId.toNat ++ slice nonce 0 32
    ++ (List.range 16).flatMap (fun i => leBytes 4 (s.extCnt i))
    ++ (List.range 16).flatMap (fun i => digestBytes (s.meas i))
    ++ digestBytes s.sec.verifiedKey
    ++ (if s.akValid then beBytes 96 (akPub s.sec.ak).toNat else List.replicate 96 0)
  let sig := if s.akValid then beBytes 96 (ecdsaSign (Config.signNonce s.freeCtr) s.sec.ak (sha384 body)).toNat
    else List.replicate 96 0
  let t := { s with freeCtr := s.freeCtr + 1, sec := { s.sec with reportSeq := seq } }
  (body ++ sig, t.inc F.SEC_REPORT_CNT.CNT 0)

/-- The messages of R440. -/
def knownMsg (n : Nat) : Bool := n ∈ [1, 2, 3, 4, 0x10, 0x11, 0x12, 0x13, 0x20, 0x21]

/-- REPORT: message 1; it also answers a message that is not listed with BAD_MSG (log 23). -/
def execReport (half : Bool) (s : State) : Out :=
  s.whenLive fun s =>
    if knownMsg (s.mbxMsg half) then
      s.rotServe half (· = 1) true (some 32) fun t nonce =>
        let (r, u) := t.report nonce
        ⟨if t.akValid then 0 else 4, r, u⟩
    else s.rotServe half (fun _ => true) true none fun t _ => .fail 1 t

/-- READ_MEAS: message 2. -/
def execReadMeas (half : Bool) (s : State) : Out :=
  s.whenLive fun s => s.rotServe half (· = 2) true (some 0) fun t _ =>
    ⟨0, (List.range 16).flatMap (fun i => digestBytes (t.meas i))
      ++ (List.range 16).flatMap (fun i => leBytes 4 (t.extCnt i)), t⟩

/-- A half may extend a register by EXTEND (R436). -/
def mayExtend (m : Bool) (i : Nat) : Bool := 8 ≤ i || (m && 4 ≤ i)

/-- EXTEND: message 3. -/
def execExtend (half : Bool) (s : State) : Out :=
  s.whenLive fun s => s.rotServe half (· = 3) true (some 56) fun t req =>
    let w := ofLe (slice req 0 8)
    if 16 ≤ w || !mayExtend half w then .fail 3 t
    else match t.extend w (slice req 8 48) with
      | none => .fail 3 t
      | some u => ⟨0, digestBytes (u.meas w), u⟩

/-- GET_CERT: message 4. -/
def execGetCert (half : Bool) (s : State) : Out :=
  s.whenLive fun s => s.rotServe half (· = 4) true (some 0) fun t _ => ⟨0, t.sec.fuses.cert, t⟩

/-- LOCKED. -/
def State.locked15 (s : State) : Bool := s.isSet F.SEC_STATUS.LOCKED 0

/-- VERIFY: message 0x10, M half, before LOCK: check under R431 and extend MEAS3 with the header's digest. The
signature is not part of the 176 bytes of the request; R440 gives it no place, so what it verifies against is Config's
(log 24). -/
def execVerify (half : Bool) (s : State) : Out :=
  s.whenLive fun s => s.rotServe half (· = 0x10) (half && !s.locked15) (some 176) fun t hdr =>
    let r := checkImage t.sec.fuses 2 hdr (Config.osSignature hdr) none
    if r = 2 then .fail 5 t
    else if r = 3 then .fail 6 t
    else match t.extend 3 (digestBytes (sha384 hdr)) with
      | none => .fail 3 t
      | some u => ⟨0, [], { u with sec := { u.sec with verifiedKey := sha384 (slice hdr 0x20 96) } }⟩

/-- LOCK: message 0x11, M half. -/
def execLock (half : Bool) (s : State) : Out :=
  s.whenLive fun s => s.rotServe half (· = 0x11) half (some 0) fun t _ =>
    ⟨0, [], t.flag F.SEC_STATUS.LOCKED 0 true⟩

/-- Write the boot configuration copy that boot did not choose, with SEQ one greater and a computed CHECK, and read it
back: true where it is valid (R442). Where boot chose none, copy 0 is written with SEQ 1 (log 21). -/
def State.writeConfig (s : State) (words : List Word) : Bool × State :=
  let copy := match s.sec.bootCopy with
    | some 0 => 1
    | _ => 0
  let seq := match s.sec.bootCopy with
    | some _ => (fld (s.sec.bootWords.getD 0 0) 0 32 + 1) % 2 ^ 32
    | none => 1
  let ws := wd (0x5943 * 2 ^ 48 + 2 ^ 40 + seq) :: (words.take 509 ++ List.replicate (509 - words.length) 0) ++ [0]
  let ws := ws ++ [wd (crc32 (wordBytes ws))]
  let t := { s with sec := { s.sec with flash := Tbl.putList 0 s.sec.flash (copy * 4096) (wordBytes ws) } }
  (configValid (t.configCopy copy), t)

/-- CFG_WRITE: message 0x12, M half. -/
def execCfgWrite (half : Bool) (s : State) : Out :=
  s.whenLive fun s => s.rotServe half (· = 0x12) half (some 4072) fun t req =>
    let (ok, u) := t.writeConfig (bytesWords 509 req)
    if ok then ⟨0, [], u⟩ else .fail 8 u

/-- SVN_COMMIT: message 0x13, M half, before LOCK (R441). -/
def execSvnCommit (half : Bool) (s : State) : Out :=
  s.whenLive fun s => s.rotServe half (· = 0x13) (half && !s.locked15) (some 8) fun t req =>
    let c := ofLe req
    if 64 < c || t.sec.imgSvn < c then .fail 3 t
    else if c ≤ t.sec.fuses.svn then ⟨0, [], t⟩
    else ⟨0, [], { t with sec := { t.sec with fuses := { t.sec.fuses with svn := c } } }⟩

/-- The wrapping key of a MASK (R448). -/
def State.sealKey (s : State) (mask : Nat) : List Byte :=
  (beBytes 48 (hmac384 (digestBytes s.sec.sealSecret)
    ([1] ++ leBytes 2 mask
      ++ ((List.range 16).filter (bitAt mask)).flatMap (fun i => digestBytes (s.meas i)))).toNat).take 32

/-- LEN of a wrap is 16 to 64 and a multiple of 8. -/
def sealLenOk (n : Nat) : Bool := 16 ≤ n && n ≤ 64 && n % 8 = 0

/-- WRAP: message 0x20, M half (R448). A wrap takes six AES blocks per 8 bytes (R449). -/
def execWrap (half : Bool) (s : State) : Out :=
  s.whenLive fun s => s.rotServe half (· = 0x20) half none fun t req =>
    let w := ofLe (slice req 0 8)
    let n := bitsOf w 16 8
    if !sealLenOk n || req.length ≠ n + 8 then .fail 2 t
    else if !t.akValid then .fail 4 t
    else
      let blob := leBytes 8 (w % 65536 + n * 65536 + 2 ^ 24)
        ++ keyWrap (t.sealKey (w % 65536)) (slice req 8 n)
      ⟨0, blob, t.add F.SEC_TURNIP_BLK_CNT.CNT 0 (6 * (n / 8))⟩

/-- UNWRAP: message 0x21, M half (R448). A blob of another FORMAT fails as MISMATCH (log 22). -/
def execUnwrap (half : Bool) (s : State) : Out :=
  s.whenLive fun s => s.rotServe half (· = 0x21) half none fun t req =>
    let w := ofLe (slice req 0 8)
    let n := bitsOf w 16 8
    if !sealLenOk n || req.length ≠ n + 16 then .fail 2 t
    else if !t.akValid then .fail 4 t
    else
      let u := t.add F.SEC_TURNIP_BLK_CNT.CNT 0 (6 * (n / 8))
      if bitsOf w 24 8 ≠ 1 then .fail 7 u
      else match keyUnwrap (t.sealKey (w % 65536)) (slice req 8 (n + 8)) with
        | none => .fail 7 u
        | some data => ⟨0, data, u⟩

/-! ## Network requests (R443 to R445) -/

/-- The management port's own address bytes, first byte first. -/
def State.mgtMac (s : State) : List Byte := leBytes 6 (s.get F.CTL_MGT_MAC.MAC 0)

/-- MGT_MAC of the boot configuration, with which the root of trust answers (R429, R444). -/
def State.bootMac (s : State) : List Byte := leBytes 6 (fld (s.sec.bootWords.getD 2 0) 0 48)

/-- The claimed IPv4 address in wire order, while claimed. -/
def State.claimV4 (s : State) : Option (List Byte) :=
  if s.isSet F.SEC_NET_V4.V4_EN 0 then some (leBytes 4 (s.get F.SEC_NET_V4.ADDR 0)) else none

/-- The claimed IPv6 address in wire order, while claimed. -/
def State.claimV6 (s : State) : Option (List Byte) :=
  if s.isSet F.SEC_NET_V6_EN.EN 0 then
    some (leBytes 8 (s.reg .SEC_NET_V6_LO 0).toNat ++ leBytes 8 (s.reg .SEC_NET_V6_HI 0).toNat)
  else none

/-- Offset of the IP header of an untagged or VLAN-tagged frame and its EtherType. -/
def ipAt (frame : List Byte) : Nat × Nat :=
  if beAt frame 12 2 = 0x8100 then (18, beAt frame 16 2) else (14, beAt frame 12 2)

/-- A frame of the root of trust waits for the management port. -/
def State.rotSend (s : State) (frame : List Byte) : State :=
  { s with ctl := { s.ctl with rotTx := s.ctl.rotTx ++ [frame] } }

/-- An IPv4 or IPv6 UDP answer to a request frame; addresses and ports turned round (R445). -/
def State.udpAnswer (s : State) (req payload : List Byte) : List Byte :=
  let (ip, ty) := ipAt req
  let eth := slice req 6 6 ++ slice req 0 6 ++ slice req 12 (ip - 12)
  let udp := fun l4 => slice req (l4 + 2) 2 ++ slice req l4 2 ++ beBytes 2 (payload.length + 8)
  if ty = 0x0800 then
    let l4 := ip + byteAt req ip % 16 * 4
    let h := fun sum => beBytes 2 0x4500 ++ beBytes 2 (payload.length + 28) ++ beBytes 2 (Config.netId s.freeCtr).toNat
      ++ beBytes 2 0x4000 ++ [Config.netTtl, 17] ++ beBytes 2 sum ++ slice req (ip + 16) 4 ++ slice req (ip + 12) 4
    eth ++ h (inetSum (h 0)) ++ udp l4 ++ [0, 0] ++ payload
  else
    let l4 := ip + 40
    let src := slice req (ip + 24) 16
    let dst := slice req (ip + 8) 16
    let pseudo := src ++ dst ++ beBytes 4 (payload.length + 8) ++ beBytes 4 17
    let sum := inetSum (pseudo ++ udp l4 ++ [0, 0] ++ payload)
    eth ++ beBytes 4 0x60000000 ++ beBytes 2 (payload.length + 8) ++ [17, Config.netTtl] ++ src ++ dst
      ++ udp l4 ++ beBytes 2 (if sum = 0 then 65535 else sum) ++ payload

/-- A datagram to port 39810 of a claimed address: queued, dropped at a full queue or too soon, or dropped as bad (R443,
R444). udp is the UDP payload; unicast says how it was addressed. -/
def State.netArrive (s : State) (frame udp : List Byte) (unicast : Bool) : State :=
  let w := ofLe (slice udp 0 8)
  let op := bitsOf w 32 8
  if !unicast || udp.length ≠ 48 || bitsOf w 48 16 ≠ 0x5951 || bitsOf w 40 8 ≠ 1 || (op ≠ 1 && op ≠ 2) then
    s.inc F.SEC_NET_BAD_CNT.CNT 0
  else
    let soon := s.sec.lastNet.any fun t => s.clock - t < s.get F.SEC_NET_CFG.MIN_US 0 * 1000
    if soon || 4 ≤ s.sec.netQueue.length then s.inc F.SEC_NET_DROP_CNT.CNT 0
    else { s with sec := { s.sec with
      netQueue := s.sec.netQueue ++ [⟨frame, op, w % 2 ^ 32, slice udp 16 32⟩] } }

/-- The answer payload of R445. -/
def netPayload (op tag status : Nat) (body : List Byte) : List Byte :=
  leBytes 8 (0x5952 * 2 ^ 48 + 2 ^ 40 + op * 2 ^ 32 + tag) ++ leBytes 8 (body.length * 2 ^ 32 + status) ++ body

/-- NETWORK_REQUEST: with no mailbox request waiting, the oldest network request is taken, served and answered. -/
def execNetworkRequest (s : State) : Out :=
  s.whenLive fun s =>
    if !s.rotServes || s.sec.mbxM || s.sec.mbxS then s
    else match s.sec.netQueue with
      | [] => s
      | r :: rest =>
        let s := { s with sec := { s.sec with netQueue := rest, lastNet := some s.clock } }
        let s := s.inc F.SEC_NET_REQ_CNT.CNT 0
        let (status, body, s) := if r.op = 1 then
            let (b, t) := s.report r.nonce
            (if s.akValid then 0 else 4, b, t)
          else (0, s.sec.fuses.cert, s)
        let frame := s.udpAnswer r.frame (netPayload r.op r.tag status body)
        ({ s with freeCtr := s.freeCtr + 1 }).rotSend frame

/-! ## Debug unlock (R450) -/

/-- SEC_CHALLENGE: DEVICE_ID and a fresh random value, in place of any earlier challenge; unavailable while TRST_N is low
(17 R477) and once a failed self-test has ended the root of trust's work (R432). -/
def execSecChallenge (s : State) : Out :=
  s.whenLive fun s =>
    if s.rst.trstLow || s.sec.dead then s
    else
      let c := leBytes 16 s.sec.fuses.deviceId.toNat ++ leBytes 32 (Config.random32 s.freeCtr).toNat
      { s with freeCtr := s.freeCtr + 1, sec := { s.sec with challenge := some c } }

/-- The token that SECURED asks for: an unrevoked owner key and its signature over the last challenge. -/
def State.tokenOk (s : State) (token : List Byte) : Bool :=
  let i := byteAt token 0
  let pub := slice token 4 96
  match s.sec.challenge with
  | none => false
  | some c => i < 4 && !bitAt s.sec.fuses.ownerRevoke i
      && Tbl.at 0 s.sec.fuses.ownerKeyHash i = (sha384 pub).toNat
      && ecdsaVerify pub (sha384 c) (slice token 100 96)

/-- Steps 2 to 6 of an accepted unlock. -/
def State.unlock (s : State) : State :=
  let s := { s with
    sec := { s.sec with ak := 0, sealSecret := 0, secretOpen := false, challenge := none, meas := [], extCnt := [] }
    srt := { s.srt with keys := [] } }
  let s := (s.flag F.SEC_STATUS.AK_VALID 0 false).flag F.SEC_STATUS.LOCKED 0 false
  s.flag F.SEC_STATUS.DEBUG 0 true

/-- SEC_UNLOCK: accepted without a token in OPEN and RETIRED, with a valid one in SECURED; a refused one consumes the
challenge. Unavailable as SEC_CHALLENGE is. -/
def execSecUnlock (token : List Byte) (s : State) : Out :=
  s.whenLive fun s =>
    if s.rst.trstLow || s.sec.dead then s
    else if s.sec.fuses.lifecycle ≠ 1 || s.tokenOk token then s.unlock
    else { s with sec := { s.sec with challenge := none } }

end Sys2Proof.Machine
end

