-- ==== Sys2Proof/Machine/Control.lean ====
section
/-! DEFINITION. The control complex (14): machine timer, event queues, MDIO, link state, Ryutal doorbell and the device
firmware's messages. -/

namespace Sys2Proof.Machine

/-! ## Machine timer (R405) -/

/-- MTIP of a hart follows CTL_MTIME ≥ CTL_MTIMECMP. -/
def State.setMtip (s : State) (h : Nat) : State :=
  { s with hart := { s.hart with
    mtip := Tbl.put false s.hart.mtip h (decide ((s.reg .CTL_MTIMECMP h).toNat ≤ s.mtime)) } }

/-- MACHINE_TIMER_INTERRUPT: CTL_MTIME has reached a hart's compare. -/
def execMachineTimerInterrupt (hart : Nat) (s : State) : Out := s.whenLive fun s => s.setMtip hart

/-! ## Event queues (R406 to R415) -/

/-- Items of a queue, oldest first. -/
def State.items (s : State) (q : Nat) : List (List Word) := Tbl.at [] s.ctl.items q

/-- The queue with other items. -/
def State.setItems (s : State) (q : Nat) (is : List (List Word)) : State :=
  { s with ctl := { s.ctl with items := Tbl.put [] s.ctl.items q is } }

/-- Entries of an item: two words each. -/
def entriesOf (ws : List Word) : Nat := ws.length / 2

/-- Entries that items take. -/
def entriesHeld (is : List (List Word)) : Nat := (is.map entriesOf).sum

/-- Entries a queue holds: 2^LOG2_SIZE. -/
def State.queueSize (s : State) (q : Nat) : Nat := 2 ^ s.get F.CTL_EVQ_CFG.LOG2_SIZE q

/-- Discard oldest whole items until n entries fit; how many went (R410). -/
def makeRoom (size n : Nat) : List (List Word) → List (List Word) × Nat
  | [] => ([], 0)
  | i :: is =>
    if entriesHeld (i :: is) + n ≤ size then (i :: is, 0)
    else
      let (r, k) := makeRoom size n is
      (r, k + 1)

/-- First key of a queue's latch for a hart and mode (R411). -/
def latchKey (q h : Nat) (m : Bool) : Nat := ((q * 8 + h) * 2 + b2n m) * 32

/-- A read takes an item: its header to the hart, the whole item to the latch, words beyond it zero (R411). -/
def State.takeItem (s : State) (q h : Nat) (m : Bool) (item : List Word) : State :=
  let words := item ++ List.replicate (32 - item.length) 0
  let t := { s with ctl := { s.ctl with latch := Tbl.putList 0 s.ctl.latch (latchKey q h m) words } }
  t.respond h (item.headD 0)

/-- Address and length of a queue's storage (R406). -/
def State.queueStorage (s : State) (q : Nat) : Nat × Nat := (s.get F.CTL_EVQ_CFG.BASE q * 16, s.queueSize q * 16)

/-- First address and length of L2-backed scratch (01 R22). -/
def scratchBase : Nat := 0x08000000
def scratchBytes : Nat := 0x100000

/-- The part writes bytes of a queue's storage, in scratch or in HBM. -/
def State.storageWrite (s : State) (a : Nat) (bs : List Byte) : State :=
  if scratchBase ≤ a && a + bs.length ≤ scratchBase + scratchBytes then
    { s with ctl := { s.ctl with scratch := Tbl.putList 0 s.ctl.scratch (a - scratchBase) bs } }
  else if s.inHbm a bs.length then s.storeBytes (a - hbmBase) bs
  else s

/-- A queue's storage has no defined content: the part writes it as it will, and nothing beside it (R406; log 74). -/
def State.queueTouch (s : State) (q : Nat) : State :=
  let (base, size) := s.queueStorage q
  let ws := (Config.queueWrites s.freeCtr size).filter fun w => w.1 + w.2.length ≤ size
  ws.foldl (fun t w => t.storageWrite (base + w.1) w.2) { s with freeCtr := s.freeCtr + 1 }

/-- A complete item at its queue: EN 0 discards it, one larger than the queue is lost, otherwise it becomes visible,
sets PEND, and goes to the first stalled read or into the queue (R406, R409, R410, R412, R414). -/
def State.arrive (s : State) (q : Nat) (item : List Word) : State :=
  if !s.isSet F.CTL_EVQ_CFG.EN q then s
  else if s.queueSize q < entriesOf item then s.inc F.CTL_EVQ_LOST_CNT.CNT q
  else
    let s := ((s.queueTouch q).inc F.CTL_EVQ_ITEM_CNT.CNT q).flag F.CTL_EVQ_NOTICE.PEND q true
    match takeFirst (fun w => w.queue = q) s.ctl.stalls with
    | some (w, rest) => ({ s with ctl := { s.ctl with stalls := rest } }).takeItem q w.hart w.mMode item
    | none =>
      let (kept, lost) := makeRoom (s.queueSize q) (entriesOf item) (s.items q)
      (s.setItems q (kept ++ [item])).add F.CTL_EVQ_LOST_CNT.CNT q lost

/-- EVENT_ITEM_POST: the last word of a producer's oldest item arrives. -/
def execEventItemPost (src : Nat) (s : State) : Out :=
  s.whenLive fun s =>
    match Tbl.at [] s.ctl.crossing src with
    | [] => s
    | (q, item) :: rest =>
      ({ s with ctl := { s.ctl with crossing := Tbl.put [] s.ctl.crossing src rest } }).arrive q item

/-- The word that an empty queue returns (R412). -/
def emptyWord : Word := 0x00000000DEAD0E0E#64

/-- A read of CTL_EVQ_HEAD (R411, R412). A hart whose read is stalled makes no other. -/
def State.headRead (s : State) (h : Nat) (m : Bool) (q : Nat) : State :=
  if s.ctl.stalls.any fun w => w.hart = h then s
  else match s.items q with
  | item :: rest => (s.setItems q rest).takeItem q h m item
  | [] =>
    if s.interrupted h || !s.isSet F.CTL_EVQ_CFG.EN q then s.respond h emptyWord
    else { s with ctl := { s.ctl with stalls := s.ctl.stalls ++ [⟨q, h, m⟩] } }

/-- The hart's mie and its SSIP and STIP bits as they stand. -/
def State.setMie (s : State) (h mie swip : Nat) : State :=
  { s with hart := { s.hart with
    mie := Tbl.put 0 s.hart.mie h mie, swip := Tbl.put 0 s.hart.swip h swip } }

/-- EVQ_HEAD_READ: a hart's read, with its mie and software-written pending bits. -/
def execEvqHeadRead (hart : Nat) (priv : Priv) (queue mie swip : Nat) (s : State) : Out :=
  s.whenLive fun s => (s.setMie hart mie swip).headRead hart (priv = .m) queue

/-- EVQ_READ_WAKE: a stalled read ends with the empty word when an enabled interrupt is pending or EN became 0. -/
def execEvqReadWake (hart mie swip : Nat) (s : State) : Out :=
  s.whenLive fun s =>
    let s := s.setMie hart mie swip
    match takeFirst (fun w => w.hart = hart) s.ctl.stalls with
    | none => s
    | some (w, rest) =>
      if s.interrupted hart || !s.isSet F.CTL_EVQ_CFG.EN w.queue then
        ({ s with ctl := { s.ctl with stalls := rest } }).respond hart emptyWord
      else s

/-- FLUSH: every item goes, and for each producer partway through an item for this queue that item goes too and is
counted once (R415). partway names those producers. -/
def State.flushQueue (s : State) (q : Nat) (partway : List Nat) : State :=
  partway.foldl (fun t src =>
    match Tbl.at [] t.ctl.crossing src with
    | (q', _) :: rest =>
      if q' = q then
        ({ t with ctl := { t.ctl with crossing := Tbl.put [] t.ctl.crossing src rest } }).inc
          F.CTL_EVQ_FLUSH_PARTIAL_CNT.CNT q
      else t
    | [] => t) (s.setItems q [])

/-- EVQ_FLUSH: CTL_EVQ_CMD with FLUSH 1. -/
def execEvqFlush (queue : Nat) (partway : List Nat) (s : State) : Out :=
  s.whenLive fun s => s.flushQueue queue partway

/-- A write of CTL_EVQ_CFG: LOG2_SIZE stores the nearer bound of 2 to 12; it and BASE keep their values while EN is 1;
EN 0 to 1 makes the queue empty (R406). -/
def State.evqCfg (s : State) (q : Nat) (v : Word) : State :=
  let was := s.isSet F.CTL_EVQ_CFG.EN q
  let old := s.reg .CTL_EVQ_CFG q
  let w := mergeWrite .CTL_EVQ_CFG old v
  let w := setFld w 59 4 (if was then fld old 59 4 else clampNat (fld v 59 4) 2 12)
  let w := if was then setFld w 4 42 (fld old 4 42) else w
  let s := s.setReg .CTL_EVQ_CFG q w
  if !was && bitAt v.toNat 63 then (s.queueTouch q).setItems q [] else s

/-- CTL_EVQ_CFG_WRITE: the write. -/
def execCtlEvqCfgWrite (queue : Nat) (value : Word) (s : State) : Out := s.whenLive fun s => s.evqCfg queue value

/-! ## MDIO and link (R416) -/

/-- CTL_MDIO_CMD with GO 1: one Clause 45 frame; a read returns data from the device. -/
def State.mdio (s : State) (op data : Nat) : State :=
  let s := s.put F.CTL_MDIO_CMD.OP 0 op
  let s := { s with ctl := { s.ctl with mdioSent := some (s.reg .CTL_MDIO_CMD 0) } }
  if 2 ≤ op then s.put F.CTL_MDIO_DATA.DATA 0 data else s

/-- MDIO_ADDRESS: OP 0. -/
def execMdioAddress (s : State) : Out := s.whenLive fun s => s.mdio 0 0

/-- MDIO_WRITE: OP 1. -/
def execMdioWrite (s : State) : Out := s.whenLive fun s => s.mdio 1 0

/-- MDIO_READ_INC: OP 2; data is what the device returns. -/
def execMdioReadInc (data : Nat) (s : State) : Out := s.whenLive fun s => s.mdio 2 data

/-- MDIO_READ: OP 3. -/
def execMdioRead (data : Nat) (s : State) : Out := s.whenLive fun s => s.mdio 3 data

/-- MGT_LINK_CHANGE: the management link comes up with a speed and duplex, or goes down. -/
def execMgtLinkChange (up : Bool) (speed : Nat) (duplex : Bool) (s : State) : Out :=
  s.whenLive fun s =>
    ((s.flag F.CTL_MGT_STATUS.LINK 0 up).put F.CTL_MGT_STATUS.SPEED 0 speed).flag F.CTL_MGT_STATUS.DUPLEX 0 duplex

/-! ## Ryutal (R419 to R424) -/

/-- A write of CTL_RYU_DOORBELL sets the channel's bit of CTL_RYU_PEND. -/
def State.ryuRing (s : State) (value : Word) : State :=
  s.setReg .CTL_RYU_PEND 0 (setFld (s.reg .CTL_RYU_PEND 0) (fld value 0 3) 1 1)

/-- CTL_RYU_DOORBELL: the write. -/
def execCtlRyuDoorbell (value : Word) (s : State) : Out := s.whenLive fun s => s.ryuRing value

/-- Offset of a channel in scratch (R419). -/
def channelBase (c : Nat) : Nat := 0xF8000 + c * 0x1000

/-- Bytes of scratch. -/
def State.scr (s : State) (off n : Nat) : List Byte := Tbl.getList 0 s.ctl.scratch off n

/-- Write bytes into scratch. -/
def State.scrPut (s : State) (off : Nat) (bs : List Byte) : State :=
  { s with ctl := { s.ctl with scratch := Tbl.putList 0 s.ctl.scratch off bs } }

/-- Message number of a channel's request. -/
def State.ryuMsg (s : State) (c : Nat) : Nat := ofLe (s.scr (channelBase c + 6) 2)

/-- The offered set: BASE and what the image offers of bits 1 to 6 (R424). -/
def offered : Nat := setBits Config.offeredFeatures.toNat 0 1 1

/-- A feature may be used: the set is locked and holds its bit. -/
def State.negotiated (s : State) (feature : Nat) : Bool := s.ctl.ryuLocked && bitAt s.ctl.ryuAccepted feature

/-- The device firmware runs (15 R433). -/
def State.firmwareRuns (s : State) : Bool := s.get F.SEC_STATUS.BOOT_STATE 0 = 2

/-- The channel is the next the firmware serves: pending, with no lower one pending (R421). -/
def State.ryuNext (s : State) (c : Nat) : Bool :=
  let p := s.get F.CTL_RYU_PEND.PEND 0
  bitAt p c && p % 2 ^ c = 0

/-- LEN of a response: a FAILED one has LEN 0, though its payload's first word holds a code (R422) (DEDUCED, log 100). -/
def ryuLen (status : Nat) (payload : List Byte) : Nat := if status = 6 then 0 else payload.length

/-- Firmware answers a channel: payload, then RSP_HDR, then RSP_CTL, then the item with NOTIFY 1 (R421). -/
def State.ryuAnswer (s : State) (c : Nat) (status : Nat) (payload : List Byte) : State :=
  let b := channelBase c
  let seq := s.scr (b + 12) 4
  let ctl := ofLe (s.scr (b + 8) 4)
  let t := s.scrPut (b + 0x840) payload
  let t := t.scrPut (b + 0x800) (s.scr b 4 ++ leBytes 2 (ryuLen status payload) ++ s.scr (b + 6) 2)
  let t := t.scrPut (b + 0x808) (leBytes 4 status ++ seq)
  if bitAt ctl 6 then t.post1 13 (ctl % 64) 0 c status (ofLe seq) else t

/-- Firmware serves a channel whose request names the message. A request whose SEQ equals the last response's is
ignored. The negotiation is checked before LEN (log 25). -/
def State.ryuServe (s : State) (c : Nat) (isMsg : Nat → Bool) (allowed : Bool) (len : Option Nat)
    (f : State → List Byte → Answer) : State :=
  let b := channelBase c
  if !s.firmwareRuns || !s.ryuNext c || !isMsg (s.ryuMsg c) then s
  else
    let t := s.setReg .CTL_RYU_PEND 0 (setFld (s.reg .CTL_RYU_PEND 0) c 1 0)
    if s.scr (b + 12) 4 = s.scr (b + 0x80C) 4 then t
    else
      let n := ofLe (s.scr (b + 4) 2)
      let a := if !allowed then .fail 3 t
        else if len.any (· ≠ n) then .fail 2 t
        else f t (s.scr (b + 0x40) n)
      a.st.ryuAnswer c a.status a.payload

/-- The messages of R423. -/
def knownRyu (n : Nat) : Bool := n ∈ [1, 2, 3, 0x10, 0x11, 0x12, 0x13, 0x14]

/-- VERSION: message 1; it also answers a message that is not listed with BAD_MSG (log 23). -/
def execVersion (channel : Nat) (s : State) : Out :=
  s.whenReady fun s =>
    if knownRyu (s.ryuMsg channel) then
      s.ryuServe channel (· = 1) true (some 0) fun t _ =>
        ⟨0, leBytes 8 (2 ^ 48) ++ leBytes 8 Config.firmwareVersion.toNat ++ leBytes 8 (t.get F.CTL_RYU_CFG.FW_HART 0), t⟩
    else s.ryuServe channel (fun _ => true) true none fun t _ => .fail 1 t

/-- The payload of FEAT_GET. -/
def State.featPayload (s : State) : List Byte :=
  leBytes 32 offered ++ leBytes 32 (if s.ctl.ryuLocked then s.ctl.ryuAccepted else 0) ++ leBytes 8 (b2n s.ctl.ryuLocked)

/-- FEAT_GET: message 2. -/
def execFeatGet (channel : Nat) (s : State) : Out :=
  s.whenReady fun s => s.ryuServe channel (· = 2) true (some 0) fun t _ => ⟨0, t.featPayload, t⟩

/-- An accepted set that R424 refuses: a bit outside the offered set, or no bit 0. -/
def badFeatures (set : Nat) : Bool :=
  !bitAt set 0 || set / 128 ≠ 0 || (List.range 7).any fun i => bitAt set i && !bitAt offered i

/-- FEAT_SET: message 3; the first set not refused is locked, a later one returns LOCKED with the set in force. -/
def execFeatSet (channel : Nat) (s : State) : Out :=
  s.whenReady fun s => s.ryuServe channel (· = 3) true none fun t req =>
    if t.ctl.ryuLocked then ⟨5, t.featPayload, t⟩
    else if req.length ≠ 32 then .fail 2 t
    else if badFeatures (ofLe req) then .fail 4 t
    else
      let u := { t with ctl := { t.ctl with ryuAccepted := ofLe req, ryuLocked := true } }
      ⟨0, u.featPayload, u⟩

/-- THERMAL_READ: message 0x10; stack0 and stack1 are the temperatures the stacks report, in °C. -/
def execThermalRead (channel stack0 stack1 : Nat) (s : State) : Out :=
  s.whenReady fun s => s.ryuServe channel (· = 0x10) (s.negotiated 1) (some 0) fun t _ =>
    ⟨0, leBytes 8 (t.get F.ERR_THERM_STATUS.TJ 0) ++ leBytes 8 (stack0 % 65536) ++ leBytes 8 (stack1 % 65536), t⟩

/-- HBM_INFO: message 0x11; margins are the narrowest passing runs of each pseudo-channel's last training, which
firmware found. -/
def execHbmInfo (channel : Nat) (margins : List Nat) (s : State) : Out :=
  s.whenReady fun s => s.ryuServe channel (· = 0x11) (s.negotiated 2) (some 0) fun t _ =>
    ⟨0, wordBytes [t.reg .HBM_PC_MASK 0, t.reg .HBM_PC_OFFLINE 0, t.reg .HBM_BOOT_FAIL 0]
      ++ (List.range 64).flatMap (fun i => leBytes 8 (margins.getD i 0 % 65536)), t⟩

/-- CHANNEL_MASK_SET: message 0x12: firmware writes the boot configuration in force with another mask (15 R442). The code
of a FAILED answer is a free value (R422) (log 100). -/
def execChannelMaskSet (channel : Nat) (s : State) : Out :=
  s.whenReady fun s => s.ryuServe channel (· = 0x12) (s.negotiated 3) (some 8) fun t req =>
    let (ok, u) := t.writeConfig (bytesWords 1 req ++ (t.sec.bootWords.drop 2).take 508)
    if ok then ⟨0, [], u⟩ else ⟨6, leBytes 8 (u.draw 2).1, (u.draw 2).2⟩

/-- ERR_EVENTS_CFG: message 0x13. -/
def execErrEventsCfg (channel : Nat) (s : State) : Out :=
  s.whenLive fun s => s.ryuServe channel (· = 0x13) (s.negotiated 5) (some 8) fun t req =>
    ⟨0, [], { t with ctl := { t.ctl with errEvents := ofLe req % 128 } }⟩

/-- Bytes of the trace log from the first byte of the oldest entry held (16 R464). -/
def State.traceBytes (s : State) (off n : Nat) : List Byte :=
  let count := s.get F.ERR_TRACE_COUNT.CNT 0
  let held := if s.err.traceFull then 1048576 else count * 32
  let first := if s.err.traceFull then count % 32768 * 32 else 0
  (List.range (min n (held - off))).map fun i =>
    let b := (first + off + i) % 1048576
    BitVec.ofNat 8 ((Tbl.at 0 s.err.trace (b / 8)).toNat / 256 ^ (b % 8))

/-- TRACE_READ: message 0x14; up to 1,984 bytes, then nothing more. -/
def execTraceRead (channel : Nat) (s : State) : Out :=
  s.whenReady fun s => s.ryuServe channel (· = 0x14) (s.negotiated 6) (some 16) fun t req =>
    ⟨0, t.traceBytes (ofLe (slice req 0 8)) (min (ofLe (slice req 8 8)) 1984), t⟩

/-- Records of a class that firmware can take, each with whether it comes from the secondary log: the slot's and the
log's oldest. -/
def State.takeable (s : State) (k : Nat) : List (Nat × Bool × List Word) :=
  (if bitAt (s.reg .ERR_STATUS 0).toNat k then [(k, false, s.slotRecord k)] else [])
    ++ ((Tbl.at [] s.err.logs k).take 1).map fun r => (k, true, r)

/-- Firmware takes the record of classes 1 to 3 that reached the logs first (16 R458). -/
def State.pickRecord (s : State) : Option (Nat × Bool × List Word) :=
  s.err.arrived.findSome? fun n =>
    if n.1 < 3 then (s.takeable n.1).find? fun x => recordName n.1 x.2.2 = n else none

/-- The item of R459 for a record. -/
def State.postRecord (s : State) (fromLog : Bool) (r : List Word) : State :=
  let w := r.getD 0 0
  s.post2 14 (s.ctl.errEvents % 64) (fld w 56 3) (fld w 48 4 * 65536 + fld w 40 8)
    (b2n fromLog * 65536 + fld w 0 16) (r.getD 1 0).toNat (r.getD 2 0).toNat (r.getD 3 0).toNat

/-- ERR_EVENT_POST: firmware takes one record from a slot or a secondary log and, with ERR_EVENTS accepted and enabled,
posts its item (16 R458, R459). -/
def execErrEventPost (s : State) : Out :=
  s.whenReady fun s =>
    if !s.firmwareRuns then s
    else match s.pickRecord with
      | none => s
      | some (k, fromLog, r) =>
        let s := if fromLog then s.popLogs (wd (2 ^ k)) else s.clearSlots (wd (2 ^ k))
        if s.negotiated 5 && bitAt s.ctl.errEvents 6 then s.postRecord fromLog r else s

end Sys2Proof.Machine
end

