-- ==== Sys2Proof/Machine/Flags.lean ====
section
/-! DEFINITION. Pea arithmetic (07 R211 to R214, 08 R252 to R255): saturation, rounding, headroom, products, and the
result and flags of every compute operation on g registers and accumulators. -/

namespace Sys2Proof.Machine

/-- A value clipped to a signed width, and whether it was clipped (R252). -/
def satTo (bits : Nat) (z : Int) : Int × Bool :=
  let lo : Int := -(2 ^ (bits - 1) : Nat)
  let hi : Int := (2 ^ (bits - 1) : Nat) - 1
  (clampInt z lo hi, decide (z < lo ∨ hi < z))

/-- An accumulator result: exact values outside 72 bits saturate and set AOV (R212). -/
def satAcc (z : Int) : BitVec 72 × Bool :=
  let (v, o) := satTo 72 z
  (BitVec.ofInt 72 v, o)

/-- Redundant sign bits of a value of n bits (R220, R253): the leading bits equal to the sign bit, less one. -/
def headroom (n : Nat) (z : Int) : Nat :=
  let m := (if z < 0 then -z - 1 else z).toNat
  if m = 0 then n - 1 else n - 2 - log2Below n m

/-- An arithmetic right shift by k, rounded half to even or truncated (R213). -/
def shiftRound (z : Int) (k : Nat) (rnd : Bool) : Int :=
  let q := z / (2 ^ k : Nat)
  let rem := (z % (2 ^ k : Nat)).toNat
  if rnd && k ≠ 0 && (2 ^ (k - 1) < rem || (rem = 2 ^ (k - 1) && q % 2 = 1)) then q + 1 else q

/-- Shift of a g-register format: 0 Q15, 1 Q31, 2 integer (R213). -/
def fmtShift (f : Nat) : Nat := if f = 0 then 48 else if f = 1 then 32 else 0

/-- An accumulator stored to a format of n bits with shift s (R213): the value and whether it saturated. -/
def accStore (a : BitVec 72) (s n : Nat) (rnd : Bool) : Int × Bool := satTo n (shiftRound a.toInt s rnd)

/-- A half of a g register, signed (R254). -/
def halfOf (v : BitVec 32) (hi : Bool) : Int := sext (v.toNat / (if hi then 65536 else 1)) 16

/-- The exact product of a format, placed in the accumulator (R211, R254). -/
def product (fmt : Nat) (a b : BitVec 32) (ha hb : Bool) : Int :=
  match fmt with
  | 0 => halfOf a ha * halfOf b hb * (2 ^ 33 : Nat)
  | 1 => halfOf a ha * b.toInt * (2 ^ 17 : Nat)
  | 2 => a.toInt * b.toInt * 2
  | 3 => halfOf a ha * halfOf b hb
  | _ => a.toInt * b.toInt

/-- What an operation on g registers gives: the value; whether it is written; whether Z and N follow it; C and V where
they are set; whether SAT is set (R252). -/
structure AluOut where
  val   : BitVec 32
  write : Bool := true
  zn    : Bool := true
  c     : Option Bool := none
  v     : Option Bool := none
  sat   : Bool := false
  deriving DecidableEq, Repr

/-- A sum with its flags: C the carry out, V the signed overflow. -/
def addFlags (a b : BitVec 32) : AluOut :=
  { val := a + b
    c := some (2 ^ 32 ≤ a.toNat + b.toNat)
    v := some (satTo 32 (a.toInt + b.toInt)).2 }

/-- A difference with its flags: C is 1 where there is no borrow. -/
def subFlags (a b : BitVec 32) : AluOut :=
  { val := a - b
    c := some (b.toNat ≤ a.toNat)
    v := some (satTo 32 (a.toInt - b.toInt)).2 }

/-- A saturated 32-bit result. -/
def satOut (z : Int) : AluOut :=
  let (v, o) := satTo 32 z
  { val := BitVec.ofInt 32 v, sat := o }

/-- A result that sets no flag. -/
def plainOut (v : BitVec 32) : AluOut := { val := v, zn := false }

/-- Both halves computed apart and saturated. -/
def halves (f : Int → Int → Int) (a b : BitVec 32) : AluOut :=
  let (l, ol) := satTo 16 (f (halfOf a false) (halfOf b false))
  let (h, oh) := satTo 16 (f (halfOf a true) (halfOf b true))
  { val := BitVec.ofNat 32 (wrapInt h 16 * 65536 + wrapInt l 16), zn := false, sat := ol || oh }

/-- The g-register operations that take D, A, B or IMM5 (R253); imm is IMM5, or IMM10 sign-extended for format I. -/
def alu (op : Nat) (a b : BitVec 32) (imm : Int) : AluOut :=
  let sh := b.toNat % 64
  let i := imm.toNat
  match op with
  | 0x01 => addFlags a b
  | 0x02 => subFlags a b
  | 0x03 => satOut (a.toInt + b.toInt)
  | 0x04 => satOut (a.toInt - b.toInt)
  | 0x05 => halves (· + ·) a b
  | 0x06 => halves (· - ·) a b
  | 0x07 => { val := a &&& b }
  | 0x08 => { val := a ||| b }
  | 0x09 => { val := a ^^^ b }
  | 0x0A => { val := a &&& ~~~b }
  | 0x0B => { val := if a.toInt ≤ b.toInt then a else b }
  | 0x0C => { val := if a.toInt ≤ b.toInt then b else a }
  | 0x0D => satOut (if a.toInt < 0 then -a.toInt else a.toInt)
  | 0x0E => satOut (-a.toInt)
  | 0x0F => plainOut a
  | 0x10 => { val := a <<< sh }
  | 0x11 => { val := a >>> sh }
  | 0x12 => { val := a.sshiftRight sh }
  | 0x13 => satOut (a.toInt * (2 ^ sh : Nat))
  | 0x14 => { val := a <<< i }
  | 0x15 => { val := a >>> i }
  | 0x16 => { val := a.sshiftRight i }
  | 0x17 => satOut (a.toInt * (2 ^ i : Nat))
  | 0x18 => { subFlags a b with write := false }
  | 0x19 => plainOut (BitVec.ofNat 32 (headroom 32 a.toInt))
  | 0x1A => plainOut (BitVec.ofNat 32 (headroom 16 (halfOf a false)))
  | 0x1B => plainOut (BitVec.ofInt 32 (halfOf a false))
  | 0x1C => plainOut (BitVec.ofInt 32 (halfOf a true))
  | 0x1D => plainOut (BitVec.ofNat 32 (a.toNat % 65536 * 65536 + b.toNat % 65536))
  | 0x20 => addFlags a (BitVec.ofInt 32 imm)
  | 0x21 => { subFlags a (BitVec.ofInt 32 imm) with write := false }
  | _ => { val := a, write := false, zn := false }

/-- Bits of FLAGS (R210). -/
abbrev flagZ : Nat := 0
abbrev flagN : Nat := 1
abbrev flagC : Nat := 2
abbrev flagV : Nat := 3
abbrev flagSat : Nat := 4
abbrev flagAov : Nat := 5

/-- A bit of FLAGS replaced. -/
def setFlag (f : BitVec 32) (i : Nat) (b : Bool) : BitVec 32 := BitVec.ofNat 32 (setBits f.toNat i 1 (b2n b))

/-- A sticky bit of FLAGS: set, or left as it is. -/
def stick (f : BitVec 32) (i : Nat) (b : Bool) : BitVec 32 := if b then setFlag f i true else f

/-- A bit of FLAGS replaced where the operation sets it. -/
def setFlagIf (f : BitVec 32) (i : Nat) : Option Bool → BitVec 32
  | none => f
  | some b => setFlag f i b

/-- FLAGS after an operation on g registers (R252). -/
def AluOut.flags (o : AluOut) (f : BitVec 32) : BitVec 32 :=
  let f := if o.zn then setFlag (setFlag f flagZ (o.val = 0)) flagN (o.val.getLsbD 31) else f
  stick (setFlagIf (setFlagIf f flagC o.c) flagV o.v) flagSat o.sat

/-- STG of FLAGS. -/
def stgOf (f : BitVec 32) : Nat := f.toNat / 2 ^ 24

/-- FLAGS with another STG. -/
def withStg (f : BitVec 32) (v : Nat) : BitVec 32 := BitVec.ofNat 32 (setBits f.toNat 24 8 v)

/-- Whether a condition of BRC holds (R263). -/
def condHolds (cond : Nat) (f : BitVec 32) : Bool :=
  let z := f.getLsbD 0
  let n := f.getLsbD 1
  let c := f.getLsbD 2
  let v := f.getLsbD 3
  match cond with
  | 0 => z
  | 1 => !z
  | 2 => n != v
  | 3 => n == v
  | 4 => z || n != v
  | 5 => !z && n == v
  | 6 => c
  | 7 => !c
  | 8 => n
  | 9 => !n
  | 10 => v
  | 11 => !v
  | 12 => c && !z
  | 13 => !c || z
  | _ => f.getLsbD 4

end Sys2Proof.Machine
end

