-- ==== Sys2Proof/Machine/Parse.lean ====
section
/-! DEFINITION. The parser and the classifier's extraction (02 R39 to R41, R51, R52; 04 R96, R97). The layouts of
Ethernet, IP, UDP, RTP, RFC 8285 elements and payload descriptors are those of the standards that the spec cites
(log 27: PRESUMED). Every offset is into the frame without its FCS. -/

namespace Sys2Proof.Machine

/-- Delivery reasons (02, Delivery to the control cores). -/
abbrev Reason.LOOKUP_MISS : Nat := 0
abbrev Reason.L2_OTHER : Nat := 1
abbrev Reason.IP_FRAG : Nat := 2
abbrev Reason.IP_OPT : Nat := 3
abbrev Reason.NON_UDP : Nat := 4
abbrev Reason.STUN : Nat := 5
abbrev Reason.DTLS : Nat := 6
abbrev Reason.RTCP_SW : Nat := 7
abbrev Reason.PTP : Nat := 8
abbrev Reason.NOT_RTP : Nat := 9

/-- The UDP datagram that the parser found: offset of the payload, its length, IPv6, addresses, ports. -/
structure Udp where
  off : Nat
  len : Nat
  v6 : Bool
  src : List Byte
  dst : List Byte
  sport : Nat
  dport : Nat
  deriving DecidableEq, Repr

/-- Where a frame leaves the parse graph. -/
inductive Parsed where
  | malformed
  | reason (code : Nat)
  | media (rtcp : Bool) (u : Udp)
  deriving DecidableEq, Repr

/-- Bytes off to off + n − 1 lie in the frame and in the parser's 512 bytes. -/
def heldBytes (fb : List Byte) (off n : Nat) : Bool := decide (off + n ≤ min fb.length 512)

/-- Bytes of an RTP packet before its extension block. -/
def rtpFixed (fb : List Byte) (p : Nat) : Nat := 12 + 4 * (byteAt fb p % 16)

/-- The X bit of an RTP packet. -/
def rtpX (fb : List Byte) (p : Nat) : Bool := bitAt (byteAt fb p) 4

/-- Length of the RTP header with CSRC list and extension block: where the RTP payload starts. -/
def rtpHeader (fb : List Byte) (p : Nat) : Nat :=
  let f := rtpFixed fb p
  if rtpX fb p then f + 4 + 4 * beAt fb (p + f + 2) 2 else f

/-- UDP payload node: the first row that holds. -/
def parsePayload (fb : List Byte) (u : Udp) : Parsed :=
  let b0 := byteAt fb u.off
  let b1 := byteAt fb (u.off + 1)
  let rtcp := 2 ≤ u.len && 192 ≤ b1 && b1 ≤ 223
  let f := rtpFixed fb u.off
  if u.len = 0 then .reason Reason.NOT_RTP
  else if b0 ≤ 3 then .reason Reason.STUN
  else if 20 ≤ b0 ∧ b0 ≤ 63 then .reason Reason.DTLS
  else if b0 / 64 ≠ 2 then .reason Reason.NOT_RTP
  else if rtcp then (if u.len < 8 then .reason Reason.NOT_RTP else .media true u)
  else if u.len < f || (rtpX fb u.off && (u.len < f + 4 || u.len < rtpHeader fb u.off)) then .reason Reason.NOT_RTP
  else .media false u

/-- UDP node; ipLen is the length that the IP header leaves for UDP. -/
def parseUdp (fb : List Byte) (o ipLen : Nat) (v6 : Bool) (src dst : List Byte) : Parsed :=
  let dport := beAt fb (o + 2) 2
  if heldBytes fb (o + 4) 2 && (beAt fb (o + 4) 2 ≠ ipLen || ipLen < 8) then .malformed
  else if heldBytes fb (o + 2) 2 && (dport = 319 || dport = 320) then .reason Reason.PTP
  else parsePayload fb ⟨o + 8, ipLen - 8, v6, src, dst, beAt fb o 2, dport⟩

/-- IPv4 node. -/
def parseV4 (fb : List Byte) (o : Nat) : Parsed :=
  let ihl := byteAt fb o % 16 * 4
  let total := beAt fb (o + 2) 2
  let sumBad := heldBytes fb o ihl && fold16 (onesSum (slice fb o ihl)) ≠ 65535
  if sumBad || fb.length - o < total then .malformed
  else if ihl < 20 || total < ihl then .malformed
  else if 20 < ihl then .reason Reason.IP_OPT
  else if beAt fb (o + 6) 2 % 16384 ≠ 0 then .reason Reason.IP_FRAG
  else if byteAt fb (o + 9) = 17 then parseUdp fb (o + 20) (total - 20) false (slice fb (o + 12) 4) (slice fb (o + 16) 4)
  else .reason Reason.NON_UDP

/-- IPv6 node. -/
def parseV6 (fb : List Byte) (o : Nat) : Parsed :=
  let len := beAt fb (o + 4) 2
  let next := byteAt fb (o + 6)
  if fb.length - (o + 40) < len then .malformed
  else if next = 44 then .reason Reason.IP_FRAG
  else if next = 0 || next = 43 || next = 60 then .reason Reason.IP_OPT
  else if next = 17 then parseUdp fb (o + 40) len true (slice fb (o + 8) 16) (slice fb (o + 24) 16)
  else .reason Reason.NON_UDP

/-- Ethernet and VLAN nodes; tags is how many more tags may follow. -/
def parseEth (fb : List Byte) (tags o : Nat) : Parsed :=
  let ty := beAt fb o 2
  match tags with
  | tags + 1 =>
    if ty = 0x8100 || ty = 0x88A8 then parseEth fb tags (o + 4)
    else if ty = 0x0800 then parseV4 fb (o + 2)
    else if ty = 0x86DD then parseV6 fb (o + 2)
    else if ty = 0x88F7 then .reason Reason.PTP
    else .reason Reason.L2_OTHER
  | 0 =>
    if ty = 0x0800 then parseV4 fb (o + 2)
    else if ty = 0x86DD then parseV6 fb (o + 2)
    else if ty = 0x88F7 then .reason Reason.PTP
    else .reason Reason.L2_OTHER

/-- The parse graph (R39). -/
def parseFrame (fb : List Byte) : Parsed := parseEth fb 2 12

/-- The lookup key of a media packet, 6 words (R41). -/
def keyOf (fb : List Byte) (rtcp : Bool) (u : Udp) : List Word :=
  let ssrc := beAt fb (u.off + if rtcp then 4 else 8) 4
  let ty := (if u.v6 then 6 else 4) + if rtcp then 16 else 0
  [wd (u.sport * 2 ^ 48 + u.dport * 2 ^ 32 + ssrc), wd ty] ++ bytesWords 2 u.src ++ bytesWords 2 u.dst

/-! ## RFC 8285 elements (R40) -/

/-- An element: ID, offset of its data, data bytes. -/
structure Elem where
  id : Nat
  off : Nat
  len : Nat
  deriving DecidableEq, Repr

/-- Scan a block from offset o to its end. An element whose length runs past the end of the block is treated as absent and
ends the scan: R40 is silent on it (DESIGN CHOICE, log 103). -/
def scanElems (fb : List Byte) (oneByte : Bool) (stop : Nat) : Nat → Nat → List Elem
  | 0, _ => []
  | fuel + 1, o =>
    if stop ≤ o then []
    else
      let b := byteAt fb o
      if b = 0 then
        scanElems fb oneByte stop fuel (o + 1)
      else if oneByte then
        if b / 16 = 15 || b / 16 = 0 then []
        else if stop < o + 2 + b % 16 then []
        else ⟨b / 16, o + 1, b % 16 + 1⟩ :: scanElems fb oneByte stop fuel (o + 2 + b % 16)
      else
        let n := byteAt fb (o + 1)
        if stop < o + 2 + n then [] else ⟨b, o + 2, n⟩ :: scanElems fb oneByte stop fuel (o + 2 + n)

/-- Whether a block's profile is the one-byte form, the two-byte form, or neither. -/
def blockForm (profile : Nat) : Option Bool :=
  if profile = 0xBEDE then some true else if 0x1000 ≤ profile ∧ profile ≤ 0x100F then some false else none

/-- Elements of the RTP packet at p, wherever they lie. -/
def allElems (fb : List Byte) (p : Nat) : List Elem :=
  let f := p + rtpFixed fb p
  if rtpX fb p then
    match blockForm (beAt fb f 2) with
    | some one => scanElems fb one (p + rtpHeader fb p) (4 * beAt fb (f + 2) 2) (f + 4)
    | none => []
  else []

/-- Elements that lie wholly inside the parser's 512 bytes. -/
def elems (fb : List Byte) (p : Nat) : List Elem := (allElems fb p).filter fun e => e.off + e.len ≤ 512

/-! ## Level (R51) -/

/-- LEVEL and VAD of the element that LEVEL_ID names. -/
def levelOf (fb : List Byte) (p id : Nat) : Option (Nat × Nat) :=
  if id = 0 then none
  else ((elems fb p).find? fun e => e.id = id && e.len = 1).map fun e =>
    (byteAt fb e.off % 128, byteAt fb e.off / 128)

/-! ## AV1 dependency descriptor (04 R96, R97) -/

/-- A string of bits, first bit highest. -/
structure BitStr where
  v : Nat
  len : Nat

/-- n bits at a position, with the position after them. -/
def BitStr.read (b : BitStr) (pos n : Nat) : Option (Nat × Nat) :=
  if b.len < pos + n then none else some (bitsOf b.v (b.len - pos - n) n, pos + n)

/-- k fields of n bits each. -/
def BitStr.readMany (b : BitStr) (n : Nat) : Nat → Nat → Option (List Nat × Nat)
  | 0, pos => some ([], pos)
  | k + 1, pos => do
    let (x, pos) ← b.read pos n
    let (xs, pos) ← b.readMany n k pos
    pure (x :: xs, pos)

/-- A non-symmetric value below n. -/
def BitStr.readNs (b : BitStr) (pos n : Nat) : Option (Nat × Nat) :=
  let w := log2Below 16 n + 1
  let m := 2 ^ w - n
  match b.read pos (w - 1) with
  | none => none
  | some (v, pos) =>
    if v < m then some (v, pos)
    else match b.read pos 1 with
      | none => none
      | some (x, pos) => some (2 * v - m + x, pos)

/-- k non-symmetric values below n. -/
def BitStr.skipNs (b : BitStr) (n : Nat) : Nat → Nat → Option Nat
  | 0, pos => some pos
  | k + 1, pos =>
    match b.readNs pos n with
    | none => none
    | some (_, pos) => b.skipNs n k pos

/-- Spatial and temporal layer of each template. -/
def BitStr.readLayers (b : BitStr) : Nat → Nat → Nat → Nat → Option (List (Nat × Nat) × Nat)
  | 0, _, _, _ => none
  | fuel + 1, pos, s, t =>
    match b.read pos 2 with
    | none => none
    | some (idc, pos) =>
      if idc = 3 then some ([(s, t)], pos)
      else
        let (s', t') := if idc = 0 then (s, t) else if idc = 1 then (s, t + 1) else (s + 1, 0)
        (b.readLayers fuel pos s' t').map fun r => ((s, t) :: r.1, r.2)

/-- Indications of each template for each decode target. -/
def BitStr.readDtis (b : BitStr) (targets : Nat) : Nat → Nat → Option (List (List Nat) × Nat)
  | 0, pos => some ([], pos)
  | k + 1, pos => do
    let (x, pos) ← b.readMany 2 targets pos
    let (xs, pos) ← b.readDtis targets k pos
    pure (x :: xs, pos)

/-- Frame differences of k templates: each a run of a flag and 4 bits, ended by a flag of 0. -/
def BitStr.readDiffs (b : BitStr) : Nat → Nat → Nat → List Nat → Option (List (List Nat) × Nat)
  | 0, _, _, _ => none
  | _ + 1, 0, pos, _ => some ([], pos)
  | fuel + 1, k + 1, pos, ds => do
    let (more, pos) ← b.read pos 1
    if more = 1 then
      let (d, pos) ← b.read pos 4
      b.readDiffs fuel (k + 1) pos (ds ++ [d + 1])
    else
      let (rest, pos) ← b.readDiffs fuel k pos []
      pure (ds :: rest, pos)

/-- Frame differences of a frame of its own: a run of a size and that many times 4 bits, ended by a size of 0. -/
def BitStr.ownDiffs (b : BitStr) : Nat → Nat → Option (List Nat)
  | 0, _ => none
  | fuel + 1, pos => do
    let (n, pos) ← b.read pos 2
    if n = 0 then pure []
    else
      let (d, pos) ← b.read pos (4 * n)
      let ds ← b.ownDiffs fuel pos
      pure ((d + 1) :: ds)

/-- A template dependency structure and the position after it. -/
def BitStr.readStructure (b : BitStr) (pos : Nat) : Option (Av1 × Nat) := do
  let (off, pos) ← b.read pos 6
  let (dt1, pos) ← b.read pos 5
  let dts := dt1 + 1
  let (layers, pos) ← b.readLayers (b.len + 1) pos 0 0
  let (dtis, pos) ← b.readDtis dts layers.length pos
  let (fdiffs, pos) ← b.readDiffs (b.len + layers.length + 1) layers.length pos []
  let (chains, pos) ← b.readNs pos (dts + 1)
  let pos ← if chains = 0 then some pos else (b.skipNs chains dts pos).map (· + 4 * chains * layers.length)
  let (res, pos) ← b.read pos 1
  let top := (layers.map (·.1)).foldl max 0
  pure (⟨off, dts, layers, dtis, fdiffs⟩, if res = 1 then pos + 32 * (top + 1) else pos)

/-- A structure that R97's limits allow. -/
def Av1.fits (a : Av1) : Bool := decide (a.layers.length ≤ 64 ∧ a.targets ≤ 16)

/-- (S, T) of a decode target: the highest of the templates present in it (R97). -/
def Av1.target (a : Av1) (d : Nat) : Nat × Nat :=
  let l := (a.layers.zip a.dtis).filterMap fun p => if p.2.getD d 0 ≠ 0 then some p.1 else none
  ((l.map (·.1)).foldl max 0, (l.map (·.2)).foldl max 0)

/-- Custom indications of a descriptor with the structure in force. -/
def BitStr.customDtis (b : BitStr) (pos targets : Nat) : Option (List Nat) := (b.readMany 2 targets pos).map (·.1)

/-- A descriptor's bits. -/
def ddBits (bs : List Byte) : BitStr := ⟨ofBe bs, 8 * bs.length⟩

/-- Its five extension flags, highest first: structure, active decode targets, own indications, own differences, own
chains. -/
def ddFlags (bs : List Byte) : Nat := if 3 < bs.length then bitsOf (ofBe bs) (8 * bs.length - 29) 5 else 0

/-- The structure in force with a descriptor, and the position after structure and active decode targets. -/
def ddNow (held : Option Av1) (bs : List Byte) : Option (Av1 × Nat) :=
  let r : Option (Option Av1 × Nat) :=
    if bitAt (ddFlags bs) 4 then ((ddBits bs).readStructure 29).map fun x => (some x.1, x.2) else some (none, 29)
  match r with
  | none => none
  | some (carried, pos) =>
    let now := match carried with
      | some a => if a.fits then some a else none
      | none => held
    now.map fun a => (a, if bitAt (ddFlags bs) 3 then pos + a.targets else pos)

/-- The place of a descriptor's template in a structure. -/
def ddIndex (a : Av1) (bs : List Byte) : Nat := (bitsOf (ofBe bs) (8 * bs.length - 8) 6 + 64 - a.offset) % 64

/-- What the classifier makes of a descriptor (R96, R97): SL, TL, SWP if it resolves, and the structure held after. -/
def resolveAv1 (held : Option Av1) (bs : List Byte) : Option (Nat × Nat × Bool) × Option Av1 :=
  if bs.length < 3 then (none, held)
  else match ddNow held bs with
    | none => (none, none)
    | some (a, pos) =>
      match a.layers[ddIndex a bs]? with
      | none => (none, some a)
      | some (sl, tl) =>
        let own := if bitAt (ddFlags bs) 2 then (ddBits bs).customDtis pos a.targets else a.dtis[ddIndex a bs]?
        match own with
        | none => (none, some a)
        | some d =>
          let t := (List.range a.targets).find? fun k => a.target k = (sl, tl)
          (some (sl, tl, 128 ≤ byteAt bs 0 && t.any fun k => d.getD k 0 = 2), some a)

/-- Frame number differences of a descriptor's frame, and the structure in force (10 R313); none where it does not
resolve. -/
def ddDiffs (held : Option Av1) (bs : List Byte) : Option (List Nat × Av1) :=
  if bs.length < 3 then none
  else match ddNow held bs with
    | none => none
    | some (a, pos) =>
      let pos := if bitAt (ddFlags bs) 2 then pos + 2 * a.targets else pos
      let own := if bitAt (ddFlags bs) 1 then (ddBits bs).ownDiffs (8 * bs.length) pos else a.fdiffs[ddIndex a bs]?
      own.map fun d => (d, a)

/-! ## VP9, VP8 and H.264 (04 R96); pay is the RTP payload inside the 512-byte window -/

/-- Offset past a picture ID at o: two bytes when its top bit is set. -/
def pastPictureId (pay : List Byte) (o : Nat) : Nat := if 128 ≤ byteAt pay o then o + 2 else o + 1

/-- SL, TL and SWP of a VP9 payload descriptor. -/
def resolveVp9 (pay : List Byte) : Option (Nat × Nat × Bool) :=
  let d := byteAt pay 0
  let o := if bitAt d 7 then pastPictureId pay 1 else 1
  let key := bitAt d 3 && !bitAt d 6
  if pay.length < 1 then none
  else if bitAt d 5 then
    let l := byteAt pay o
    if pay.length ≤ o || (bitAt d 7 && pay.length ≤ 1) then none
    else if 2 < bitsOf l 1 3 then none
    else some (bitsOf l 1 3, bitsOf l 5 3, key || (bitAt d 3 && bitAt l 4))
  else some (0, 0, key)

/-- SL, TL and SWP of a VP8 payload descriptor. -/
def resolveVp8 (pay : List Byte) : Option (Nat × Nat × Bool) :=
  let d := byteAt pay 0
  let x := if bitAt d 7 then byteAt pay 1 else 0
  let o := if bitAt d 7 then 2 else 1
  let o := if bitAt x 7 then pastPictureId pay o else o
  let o := if bitAt x 6 then o + 1 else o
  let ty := byteAt pay o
  let o' := if bitAt x 5 || bitAt x 4 then o + 1 else o
  let tid := if bitAt x 5 then bitsOf ty 6 2 else 0
  let first := bitAt d 4 && d % 8 = 0
  if pay.length ≤ o' then none
  else some (0, tid, first && (!bitAt (byteAt pay o') 0 || (bitAt x 5 && bitAt ty 5 && 0 < tid)))

/-- dependency_id, temporal_id and whether it is a switch point, of a NAL unit of a type whose header extension, if any,
starts at o. -/
def nalUnit (pay : List Byte) (ty o : Nat) : Option (Nat × Nat × Bool) :=
  if ty = 14 || ty = 20 then
    if pay.length < o + 3 then none
    else some (bitsOf (byteAt pay (o + 1)) 4 3, bitsOf (byteAt pay (o + 2)) 5 3, bitAt (byteAt pay o) 6)
  else some (0, 0, ty = 5 || ty = 7)

/-- The units of a STAP-A from offset o, as far as the window holds them. -/
def stapUnits (pay : List Byte) : Nat → Nat → List (Nat × Nat × Bool)
  | 0, _ => []
  | fuel + 1, o =>
    if pay.length < o + 3 then []
    else
      let n := beAt pay o 2
      match nalUnit pay (byteAt pay (o + 2) % 32) (o + 3) with
      | none => []
      | some u => u :: stapUnits pay fuel (o + 2 + n)

/-- A resolved H.264 packet; dependency_id above 3 does not resolve. -/
def h264Limit (r : Option (Nat × Nat × Bool)) : Option (Nat × Nat × Bool) :=
  r.bind fun x => if 3 < x.1 then none else some x

/-- SL, TL and SWP of an H.264 payload, and the FU-A memory after it (R96). -/
def resolveH264 (fua : Option (Nat × Nat × Nat)) (seq : Nat) (pay : List Byte) :
    Option (Nat × Nat × Bool) × Option (Nat × Nat × Nat) :=
  let ty := byteAt pay 0 % 32
  if pay.length < 1 then (none, none)
  else if ty = 28 then
    let h := byteAt pay 1
    if pay.length < 2 then (none, none)
    else if bitAt h 7 then
      let r := h264Limit (nalUnit pay (h % 32) 2)
      (r, if bitAt h 6 then none else r.map fun x => (x.1, x.2.1, seq))
    else match fua with
      | some (sl, tl, last) =>
        if seq = last + 1 then (some (sl, tl, false), if bitAt h 6 then none else some (sl, tl, seq)) else (none, none)
      | none => (none, none)
  else if ty = 24 then
    match stapUnits pay pay.length 1 with
    | [] => (none, none)
    | u :: us =>
      (h264Limit (some (us.foldl (fun m x => (min m.1 x.1, min m.2.1 x.2.1, m.2.2 || x.2.2)) u)), none)
  else (h264Limit (nalUnit pay ty 1), none)

end Sys2Proof.Machine
end

