-- ==== Sys2Proof/Machine/Packets.lean ====
section
/-! DEFINITION. Stored packets (02 R58, 05 R152 to R154, 04 R110): the packet buffer and its cells, the packet tag, holds
and their release; poisoned records (16 R453); port queues as far as a packet's end reaches them (03 R84, 02 R37). -/

namespace Sys2Proof.Machine

/-! ## Poisoned records (16 R453) -/

/-- A record is poisoned. -/
def State.poisoned (s : State) (kind idx : Nat) : Bool := s.err.poison.any fun p => p.1 = kind && p.2.1 = idx

/-- A record is written whole again and its poison clears. -/
def State.cure (s : State) (kind idx : Nat) : State :=
  { s with err := { s.err with poison := s.err.poison.filter fun p => !(p.1 = kind && p.2.1 = idx) } }

/-- Words of a record as a READ-type command returns them: zero in the poisoned ones. -/
def State.unpoisoned (s : State) (kind idx : Nat) (ws : List Word) : List Word :=
  ws.zipIdx.map fun p => if s.err.poison.contains (kind, idx, p.2) then 0 else p.1

/-! ## The packet tag (R58) -/

namespace Tag
abbrev DCLASS : RecF := ⟨4, 0, 62, 2⟩
abbrev INJ : RecF := ⟨4, 0, 60, 1⟩
abbrev RTCP : RecF := ⟨4, 0, 59, 1⟩
abbrev AUTH_FAIL : RecF := ⟨4, 0, 58, 1⟩
abbrev LAYER_VALID : RecF := ⟨4, 0, 57, 1⟩
abbrev LVL_VALID : RecF := ⟨4, 0, 56, 1⟩
abbrev VAD : RecF := ⟨4, 0, 55, 1⟩
abbrev LEVEL : RecF := ⟨4, 0, 48, 7⟩
abbrev SWP : RecF := ⟨4, 0, 47, 1⟩
abbrev TL : RecF := ⟨4, 0, 44, 3⟩
abbrev SL : RecF := ⟨4, 0, 42, 2⟩
abbrev CFID : RecF := ⟨4, 0, 28, 14⟩
abbrev GEN : RecF := ⟨4, 0, 20, 8⟩
abbrev SCID : RecF := ⟨4, 0, 0, 20⟩
abbrev MARKER : RecF := ⟨4, 3, 51, 1⟩
abbrev PT : RecF := ⟨4, 3, 44, 7⟩
abbrev LEN : RecF := ⟨4, 3, 30, 14⟩
abbrev PIPE : RecF := ⟨4, 3, 27, 3⟩
abbrev PORT : RecF := ⟨4, 3, 19, 8⟩
abbrev HEAD_CELL : RecF := ⟨4, 3, 0, 19⟩
end Tag

/-- A field of a packet's tag. -/
def Pkt.get (p : Pkt) (f : RecF) : Nat := wordsGet p.tag f

/-- A one-bit field of a packet's tag. -/
def Pkt.is (p : Pkt) (f : RecF) : Bool := p.get f ≠ 0

/-- The packet with a tag field replaced. -/
def Pkt.set (p : Pkt) (f : RecF) (v : Nat) : Pkt := { p with tag := wordsSet p.tag f v }

/-- Ingress time in units of 1,024 ns modulo 2^32 (04 R121). -/
def Pkt.t1024 (p : Pkt) : Nat :=
  let w := p.tag.getD 1 0
  (fld w 48 16 * 1000000000 + fld w 16 32) / 1024 % 2 ^ 32

/-! ## Cells (05 R152 to R154) -/

/-- Cells of the packet buffer. -/
def cellCount : Nat := 393216

/-- TM_BUF_OCC: cells in use. -/
def State.occ (s : State) : Nat := s.tm.used.length

/-- The first cell from a pick on, in cyclic order, that is free. -/
def freeCell (used : List Nat) : Nat → Nat → Option Nat
  | 0, _ => none
  | fuel + 1, c => if c % cellCount ∈ used then freeCell used fuel (c + 1) else some (c % cellCount)

/-- Take n cells, or as many as are free. -/
def State.takeCells : Nat → State → List Nat → List Nat × State
  | 0, s, acc => (acc, s)
  | n + 1, s, acc =>
    match freeCell s.tm.used (s.tm.used.length + 1) (Config.cellPick s.freeCtr) with
    | none => (acc, s)
    | some c =>
      if cellCount ≤ s.occ then (acc, s)
      else
        let t := { s with freeCtr := s.freeCtr + 1, tm := { s.tm with used := c :: s.tm.used } }
        State.takeCells n (t.raiseMax F.TM_BUF_PEAK.PEAK 0 t.occ) (acc ++ [c])

/-- Return cells to the free list. -/
def State.freeCells (s : State) (cells : List Nat) : State :=
  { s with tm := { s.tm with used := s.tm.used.filter fun c => c ∉ cells } }

/-- Write bytes into cells in order. -/
def putCells (buf : Tbl Byte) : List Nat → List Byte → Tbl Byte
  | [], _ => buf
  | c :: cs, bs => putCells (Tbl.putList 0 buf (c * 256) (bs.take 256)) cs (bs.drop 256)

/-- Bytes of cells in order. -/
def State.cellBytes (s : State) (cells : List Nat) : List Byte :=
  cells.flatMap fun c => Tbl.getList 0 s.tm.buf (c * 256) 256

/-- Admission of a frame of len bytes and a drop-class: refused at the class's threshold, or dropped whole when no cell
is free; otherwise its cells, with its bytes written (R152, R154). -/
def State.admitFrame (s : State) (dclass len : Nat) (bytes : List Byte) : Option (List Nat) × State :=
  if s.get F.TM_BUF_THR.THR dclass ≤ s.occ then (none, s.inc F.TM_BUF_DROP_CNT.CNT dclass)
  else
    let (cells, t) := State.takeCells (ceilDiv len 256) s []
    if cells.length < ceilDiv len 256 then
      (none, (t.freeCells cells).inc F.TM_BUF_EXH_CNT.CNT 0)
    else (some cells, { t with tm := { t.tm with buf := putCells t.tm.buf cells bytes } })

/-- Admission of a frame whose cells are taken as it arrives: refused at the class's threshold, or where not even its
first cell is free; otherwise the cells it got, and whether they are all (R152, R154). -/
def State.admitPart (s : State) (dclass len : Nat) : Option (List Nat × Bool) × State :=
  if s.get F.TM_BUF_THR.THR dclass ≤ s.occ then (none, s.inc F.TM_BUF_DROP_CNT.CNT dclass)
  else
    let (cells, t) := State.takeCells (ceilDiv len 256) s []
    if cells = [] then (none, t.inc F.TM_BUF_EXH_CNT.CNT 0)
    else (some (cells, decide (cells.length = ceilDiv len 256)), t)

/-! ## Packets and their holds (04 R110) -/

/-- A stored packet. -/
def State.pkt (s : State) (id : Nat) : Option Pkt := Tbl.at none s.tm.pkts id

/-- A stored packet replaced. -/
def State.setPkt (s : State) (id : Nat) (p : Pkt) : State :=
  { s with tm := { s.tm with pkts := Tbl.put none s.tm.pkts id (some p) } }

/-- Change a stored packet, if it is there. -/
def State.modPkt (s : State) (id : Nat) (f : Pkt → Pkt) : State :=
  match s.pkt id with
  | none => s
  | some p => s.setPkt id (f p)

/-- The stored bytes of a packet: from the destination address to the last byte before the FCS. -/
def State.pktBytes (s : State) (p : Pkt) : List Byte := (s.cellBytes p.cells).take (p.get Tag.LEN - 4)

/-- The stored UDP payload of a packet. -/
def State.pktPayload (s : State) (p : Pkt) : List Byte := slice (s.pktBytes p) p.l4 p.pay

/-- One more holder of a packet's cells. -/
def State.hold (s : State) (id : Nat) : State := s.modPkt id fun p => { p with holds := p.holds + 1 }

/-- Forget a packet that no one holds and whose verdicts are final. -/
def State.sweepPkt (s : State) (id : Nat) : State :=
  match s.pkt id with
  | none => s
  | some p =>
    if p.holds = 0 && !p.authOpen && !p.fcsOpen then
      { s with tm := { s.tm with pkts := Tbl.put none s.tm.pkts id none } }
    else s

/-- One holder fewer; the last one frees the cells. -/
def State.unhold (s : State) (id : Nat) : State :=
  match s.pkt id with
  | none => s
  | some p =>
    if p.holds ≤ 1 then
      ((s.freeCells p.cells).setPkt id { p with holds := 0, cells := [] }).sweepPkt id
    else s.setPkt id { p with holds := p.holds - 1 }

/-- Release the packet whose first cell and generation a cart names, as its consumer does (R110). -/
def State.unholdCell (s : State) (head : Nat) : State :=
  match s.tm.pkts.find? fun e => e.2.any fun p => p.get Tag.HEAD_CELL = head with
  | some e => s.unhold e.1
  | none => s

/-! ## Port queues (05 R147) -/

/-- Key of a queue of a port. -/
def qkey (port q : Nat) : Nat := port * 8 + q

/-- Frames of a queue. -/
def State.queue (s : State) (port q : Nat) : List QFrame := Tbl.at [] s.tm.queues (qkey port q)

/-- A queue replaced. -/
def State.setQueue (s : State) (port q : Nat) (fs : List QFrame) : State :=
  { s with tm := { s.tm with queues := Tbl.put [] s.tm.queues (qkey port q) fs } }

/-- Frame in transmission. -/
def State.sending (s : State) (port : Nat) : Option TxFrame := Tbl.at none s.tm.tx port

/-- A queue's depth in cells: its frames and the one it is sending (R147). -/
def State.depth (s : State) (port q : Nat) : Nat :=
  ((s.queue port q).map (·.depth)).sum +
    match s.sending port with
    | some t => if t.queue = q then t.frame.depth else 0
    | none => 0

/-- A frame of a queue is over: its packet's hold, or its own cells, are given back. -/
def State.dropFrame (s : State) (f : QFrame) : State :=
  match f.pkt with
  | some id => s.unhold id
  | none => s.freeCells f.cells

/-- The frame in transmission ends with an inverted FCS, and is counted (05 R493). How much of it has left by then is
timing: the bytes on record are the frame's (log 104). -/
def State.abortTx (s : State) (port : Nat) (t : TxFrame) : State :=
  let u := { s with tm := { s.tm with
    tx := Tbl.put none s.tm.tx port none
    sent := Tbl.put none s.tm.sent port (some (wireBytes t.bytes false, false)) } }
  (u.inc F.PRT_TX_ABORT_CNT.CNT port).dropFrame t.frame

/-- Ports whose frame in transmission is a copy of a packet. -/
def State.portsSending (s : State) (id : Nat) : List Nat :=
  s.tm.tx.filterMap fun e => if e.2.any (fun t => t.frame.pkt = some id) then some e.1 else none

/-- End every copy of a packet that is in transmission, counting each with cnt on its egress engine's index. -/
def State.abortCopies (s : State) (id : Nat) (cnt : State → Nat → State) : State :=
  (s.portsSending id).foldl (fun t port =>
    match t.sending port with
    | some x => cnt (t.abortTx port x) (port / 8)
    | none => t) s

/-- Release every copy of a packet that still waits in a queue. -/
def State.releaseQueued (s : State) (id : Nat) : State :=
  s.tm.queues.foldl (fun t e =>
    let mine := e.2.filter fun f => f.pkt = some id
    if mine = [] then t
    else
      let u := { t with tm := { t.tm with
        queues := Tbl.put [] t.tm.queues e.1 (e.2.filter fun f => f.pkt ≠ some id) } }
      mine.foldl State.dropFrame u) s

/-- Remove the carts of a packet from the forwarding work queues, with their holds (03 R84, 02 R37). -/
def State.dropCarts (s : State) (id : Nat) : State :=
  s.fwd.queue.foldl (fun t e =>
    let mine := e.2.filter fun c => c.pkt = id
    if mine = [] then t
    else
      let u := { t with fwd := { t.fwd with
        queue := Tbl.put [] t.fwd.queue e.1 (e.2.filter fun c => c.pkt ≠ id) } }
      mine.foldl (fun v _ => v.unhold id) u) s

/-- A packet ends: copies in transmission are aborted, copies not begun and carts are released, the decision not yet
made is not made (03 R84, 02 R37, 05 R154). A FCS check still open stays so and is still counted (02 R36). -/
def State.killPkt (s : State) (id : Nat) (cnt : State → Nat → State) : State :=
  match s.pkt id with
  | none => s
  | some p =>
    if p.dead then s.sweepPkt id
    else
      let s := s.modPkt id fun q => { q with dead := true, authOpen := false }
      let s := ((s.abortCopies id cnt).releaseQueued id).dropCarts id
      if p.decided then s.sweepPkt id else s.unhold id

/-- Both verdicts of a packet are known and good: its carts are released to the dispatcher (01 R27). -/
def State.releaseCarts (s : State) (id : Nat) : State :=
  { s with fwd := { s.fwd with queue := s.fwd.queue.map fun e =>
      (e.1, e.2.map fun c => if c.pkt = id then { c with complete := true } else c) } }

end Sys2Proof.Machine
end

