-- ==== Sys2Proof/Machine/Rings.lean ====
section
/-! DEFINITION. Descriptor rings (02 R59 to R64, 05 R161 to R164, 14 R418): delivery of a frame over receive descriptors,
and collection of a frame from transmit descriptors. Media rings reach memory by IOVA through HP8; the management rings
by physical address. -/

namespace Sys2Proof.Machine

/-- A ring: a media ring by number, or the management port's. -/
inductive Ring where
  | media (n : Nat)
  | mgt
  deriving DecidableEq, Repr

/-- What a ring's registers say: descriptor array, descriptors, buffer bytes, indices, EN, and the requestor that its
accesses are made as (none: by physical address, in stream 48 for receive and 49 for transmit). LOG2_SIZE and BUFSZ are
taken as written, outside their ranges too (DESIGN CHOICE, log 99). -/
structure RingCfg where
  base : Nat
  size : Nat
  bufsz : Nat
  head : Nat
  tail : Nat
  en : Bool
  src : Option Src
  rx : Bool

/-- A read of a ring. -/
def State.ringRead (s : State) (c : RingCfg) (a n : Nat) : MemOut :=
  match c.src with
  | some q => s.vread q a n
  | none => s.physAny (if c.rx then 48 else 49) a n

/-- A write of a ring. -/
def State.ringWrite (s : State) (c : RingCfg) (a : Nat) (bs : List Byte) : MemOut :=
  match c.src with
  | some q => s.vwrite q a bs
  | none => s.physAnyWrite (if c.rx then 48 else 49) a bs

/-! ## Receive rings (02 R59 to R64) -/

/-- Registers of a receive ring. -/
def State.rxRing (s : State) : Ring → RingCfg
  | .media n =>
    { base := s.get F.ING_RING_BASE.IOVA n, size := 2 ^ s.get F.ING_RING_CFG.LOG2_SIZE n
      bufsz := s.get F.ING_RING_CFG.BUFSZ n * 256, head := s.get F.ING_RING_HEAD.HEAD n
      tail := s.get F.ING_RING_TAIL.TAIL n, en := s.isSet F.ING_RING_CFG.EN n
      src := some ⟨8, 16 + n, s.get F.ING_RING_CFG.DOMAIN n, 16 + n⟩, rx := true }
  | .mgt =>
    { base := s.get F.CTL_MGT_RX_BASE.BASE 0 * 4096, size := 2 ^ s.get F.CTL_MGT_RX_CFG.LOG2_SIZE 0
      bufsz := s.get F.CTL_MGT_RX_CFG.BUFSZ 0 * 256, head := s.get F.CTL_MGT_RX_HEAD.HEAD 0
      tail := s.get F.CTL_MGT_RX_TAIL.TAIL 0
      en := s.isSet F.CTL_MGT_RX_CFG.EN 0 && s.isSet F.CTL_MGT_CFG.EN 0, src := none, rx := true }

/-- HEAD of a receive ring. -/
def State.setRxHead (s : State) (r : Ring) (v : Nat) : State :=
  match r with
  | .media n => s.put F.ING_RING_HEAD.HEAD n v
  | .mgt => s.put F.CTL_MGT_RX_HEAD.HEAD 0 v

/-- A receive ring is disabled by a fault (R64). -/
def State.stopRx (s : State) (r : Ring) : State :=
  match r with
  | .media n => s.flag F.ING_RING_CFG.EN n false
  | .mgt => s.flag F.CTL_MGT_RX_CFG.EN 0 false

/-- A frame finds no buffer at its start, or a disabled ring (R62; the management port counts both in one, 14 R418). -/
def State.countNoBuf (s : State) (r : Ring) : State :=
  match r with
  | .media n => s.inc F.ING_RING_NOBUF_CNT.CNT n
  | .mgt => s.inc F.CTL_MGT_RX_DISCARD_CNT.CNT 0

/-- A frame is discarded part-way (R63). -/
def State.countDiscard (s : State) (r : Ring) : State :=
  match r with
  | .media n => s.inc F.ING_RING_DISCARD_CNT.CNT n
  | .mgt => s.inc F.CTL_MGT_RX_DISCARD_CNT.CNT 0

/-- The item of a frame on a receive ring (14 R408). -/
def State.rxItem (s : State) (r : Ring) (discard : Bool) (sof used : Nat) : State :=
  let v1 := sof % 65536 * 2 ^ 48 + used % 65536 * 2 ^ 32
  match r with
  | .media n => s.post1 1 (s.get F.ING_RING_CFG.EVQ n) 0 n (b2n discard) v1
  | .mgt => s.post1 12 (s.get F.CTL_MGT_CFG.EVQ 0) 0 0 (b2n discard) v1

/-- What filling buffers gives: bytes put in each descriptor used, how it ended (0 whole frame, 1 no buffer, 2 fault). -/
structure FillOut where
  lens : List Nat
  fin : Nat
  st : State

/-- Write a frame into consecutive posted buffers from descriptor i. -/
def State.fill (s : State) (c : RingCfg) : Nat → Nat → List Byte → List Nat → FillOut
  | 0, _, _, acc => ⟨acc, 1, s⟩
  | fuel + 1, i, bs, acc =>
    if bs = [] then ⟨acc, 0, s⟩
    else if i = c.tail % c.size then ⟨acc, 1, s⟩
    else
      let d := s.ringRead c (c.base + i * 32) 8
      if d.stop ≠ .ok then ⟨acc, 2, d.st⟩
      else
        let part := bs.take c.bufsz
        let w := d.st.ringWrite c (ofLe d.bytes % 2 ^ 48) part
        if w.stop ≠ .ok then ⟨acc, 2, w.st⟩
        else w.st.fill c fuel ((i + 1) % c.size) (bs.drop c.bufsz) (acc ++ [part.length])

/-- Word 1 of a returned descriptor: info is SCID, PORT and REASON in place (R60). -/
def rxWord1 (info len : Nat) (sof eof discard : Bool) : Nat :=
  info + 2 ^ 17 + b2n discard * 65536 + b2n eof * 32768 + b2n sof * 16384 + len % 16384

/-- Return descriptors from index i, DONE written last; how many were returned before an access failed. -/
def State.giveBack (s : State) (c : RingCfg) (info : Nat) (stamp : Word) (discard : Bool) :
    Nat → Bool → List Nat → Nat × State
  | _, _, [] => (0, s)
  | i, sof, len :: rest =>
    let w1 := rxWord1 info len sof rest.isEmpty discard
    let a := s.ringWrite c (c.base + i * 32 + 8)
      (leBytes 8 w1 ++ leBytes 8 (if sof then stamp.toNat else 0))
    if a.stop ≠ .ok then (0, a.st)
    else
      let r := a.st.giveBack c info stamp discard ((i + 1) % c.size) false rest
      (r.1 + 1, r.2)

/-- Deliver a frame, from its destination address to its last byte before the FCS, to a receive ring (R61 to R64). Where
returning a descriptor faults, those returned before it are written again with DISCARD, the last of them with EOF. -/
def State.deliver (s : State) (r : Ring) (info : Nat) (stamp : Word) (bs : List Byte) : State :=
  let c := s.rxRing r
  let head := c.head % c.size
  if !c.en || head = c.tail % c.size then s.countNoBuf r
  else
    let f := s.fill c (c.size + 1) head bs []
    let used := f.lens.length
    let t := f.st.setRxHead r ((head + used) % c.size)
    let (n, t) := t.giveBack c info stamp (f.fin ≠ 0) head true f.lens
    let ok := n = used
    let bad := f.fin ≠ 0 || !ok
    let t := if ok then t else (t.giveBack c info stamp true head true (f.lens.take n)).2
    let t := if f.fin = 2 || !ok then t.stopRx r else t
    let t := if bad then t.countDiscard r else t
    t.rxItem r bad head used

/-! ## Transmit rings (05 R161 to R164) -/

/-- Registers of a transmit ring. -/
def State.txRing (s : State) : Ring → RingCfg
  | .media n =>
    { base := s.get F.TM_TXR_BASE.IOVA n, size := 2 ^ s.get F.TM_TXR_CFG.LOG2_SIZE n, bufsz := 0
      head := s.get F.TM_TXR_HEAD.HEAD n, tail := s.get F.TM_TXR_TAIL.TAIL n
      en := s.isSet F.TM_TXR_CFG.EN n, src := some ⟨8, 32 + n, s.get F.TM_TXR_CFG.DOMAIN n, 32 + n⟩, rx := false }
  | .mgt =>
    { base := s.get F.CTL_MGT_TX_BASE.BASE 0 * 4096, size := 2 ^ s.get F.CTL_MGT_TX_CFG.LOG2_SIZE 0, bufsz := 0
      head := s.get F.CTL_MGT_TX_HEAD.HEAD 0, tail := s.get F.CTL_MGT_TX_TAIL.TAIL 0
      en := s.isSet F.CTL_MGT_TX_CFG.EN 0 && s.isSet F.CTL_MGT_CFG.EN 0, src := none, rx := false }

/-- HEAD of a transmit ring. -/
def State.setTxHead (s : State) (r : Ring) (v : Nat) : State :=
  match r with
  | .media n => s.put F.TM_TXR_HEAD.HEAD n v
  | .mgt => s.put F.CTL_MGT_TX_HEAD.HEAD 0 v

/-- A transmit ring is disabled by a fault (R164). -/
def State.stopTx (s : State) (r : Ring) : State :=
  match r with
  | .media n => s.flag F.TM_TXR_CFG.EN n false
  | .mgt => s.flag F.CTL_MGT_TX_CFG.EN 0 false

/-- The item of a frame on a transmit ring (14 R408). -/
def State.txItem (s : State) (r : Ring) (dropped : Bool) (sof used : Nat) : State :=
  let v1 := sof % 65536 * 2 ^ 48 + used % 65536 * 2 ^ 32
  match r with
  | .media n => s.post1 2 (s.get F.TM_TXR_CFG.EVQ n) 0 n (b2n dropped) v1
  | .mgt => s.post1 12 (s.get F.CTL_MGT_CFG.EVQ 0) 1 0 (b2n dropped) v1

/-- A ring frame is dropped and counted (R163); the management port has no such counter. -/
def State.countTxDrop (s : State) (r : Ring) : State :=
  match r with
  | .media n => s.inc F.TM_TXR_DROP_CNT.CNT n
  | .mgt => s

/-- A frame's descriptors: their words 0 to 2, how the scan ended (0 at EOF, 1 at TAIL, 2 by a fault). -/
structure ScanOut where
  descs : List (Nat × Nat × Nat)
  fin : Nat
  st : State

/-- Read descriptors from index i to the frame's EOF. -/
def State.scan (s : State) (c : RingCfg) : Nat → Nat → List (Nat × Nat × Nat) → ScanOut
  | 0, _, acc => ⟨acc, 1, s⟩
  | fuel + 1, i, acc =>
    if i = c.tail % c.size then ⟨acc, 1, s⟩
    else
      let d := s.ringRead c (c.base + i * 32) 24
      if d.stop ≠ .ok then ⟨acc, 2, d.st⟩
      else
        let w := fun k => ofLe (slice d.bytes (8 * k) 8)
        let acc := acc ++ [(w 0, w 1, w 2)]
        if bitAt (w 1) 15 then ⟨acc, 0, d.st⟩
        else d.st.scan c fuel ((i + 1) % c.size) acc

/-- Read the buffers of descriptors in order; none where an access fails. -/
def State.gather (s : State) (c : RingCfg) : List (Nat × Nat × Nat) → List Byte → Option (List Byte) × State
  | [], acc => (some acc, s)
  | d :: ds, acc =>
    let r := s.ringRead c (d.1 % 2 ^ 48) (d.2.1 % 16384)
    if r.stop ≠ .ok then (none, r.st) else r.st.gather c ds (acc ++ r.bytes)

/-- Write DONE, and DROPPED, into descriptors from index i; false where an access fails (R163). -/
def State.finishTx (s : State) (c : RingCfg) (dropped : Bool) : Nat → List (Nat × Nat × Nat) → Bool × State
  | _, [] => (true, s)
  | i, d :: ds =>
    let a := s.ringWrite c (c.base + i * 32 + 8) (leBytes 8 (setBits d.2.1 16 2 (2 + b2n dropped)))
    if a.stop ≠ .ok then (false, a.st) else a.st.finishTx c dropped ((i + 1) % c.size) ds

/-- A transmit ring gives up its frame: HEAD past its descriptors, which are returned; whether every one was (R163). -/
def State.returnTx (s : State) (r : Ring) (c : RingCfg) (dropped : Bool) (ds : List (Nat × Nat × Nat)) : Bool × State :=
  let head := c.head % c.size
  (s.setTxHead r ((head + ds.length) % c.size)).finishTx c dropped head ds

/-- The counts and the item of a frame given up; a fault disables the ring (R163, R164). -/
def State.closeTx (s : State) (r : Ring) (c : RingCfg) (dropped fault : Bool) (ds : List (Nat × Nat × Nat)) : State :=
  let t := if fault then s.stopTx r else s
  let t := if dropped then t.countTxDrop r else t
  t.txItem r dropped (c.head % c.size) ds.length

/-- A frame is dropped. -/
def State.dropTx (s : State) (r : Ring) (c : RingCfg) (fault : Bool) (ds : List (Nat × Nat × Nat)) : State :=
  let (ok, t) := s.returnTx r c true ds
  t.closeTx r c true (fault || !ok) ds

/-- The part takes the next frame of a transmit ring: with its SOF descriptor's words 1 and 2 and its bytes, send says
whether it was taken. A ring whose next frame is not wholly posted does nothing. A fault while its descriptors are
returned drops the frame (R164). -/
def State.takeTx (s : State) (r : Ring) (maxLen : Nat) (send : State → Nat → Nat → List Byte → Bool × State) : State :=
  let c := s.txRing r
  let head := c.head % c.size
  if !c.en || head = c.tail % c.size then s
  else
    let f := s.scan c (c.size + 1) head []
    if f.fin = 1 then f.st
    else if f.fin = 2 then f.st.dropTx r c true f.descs
    else
      let len := (f.descs.map fun d => d.2.1 % 16384).sum
      if 64 < f.descs.length || maxLen < len + 4 then f.st.dropTx r c false f.descs
      else match f.st.gather c f.descs [] with
        | (none, t) => t.dropTx r c true f.descs
        | (some bs, t) =>
          let (_, w1, w2) := f.descs.headD (0, 0, 0)
          let (sent, u) := send t w1 w2 bs
          let (ok, v) := u.returnTx r c (!sent) f.descs
          if ok then v.closeTx r c (!sent) false f.descs else t.dropTx r c true f.descs

end Sys2Proof.Machine
end

