-- ==== Sys2Proof/Machine/Srtp.lean ====
section
/-! DEFINITION. Media encryption (03): key sets, stream records and their commands, what ingress SRTP does at a packet's
start and at its end, the checks and indices of egress SRTP. The transforms are those of Crypto. -/

namespace Sys2Proof.Machine

namespace Key
abbrev VALID : RecF := ⟨12, 0, 7, 1⟩
abbrev SUITE : RecF := ⟨12, 0, 0, 4⟩
abbrev LIFE_LIMIT : RecF := ⟨12, 10, 0, 48⟩
abbrev USED : RecF := ⟨12, 11, 0, 48⟩
end Key

namespace SIn
abbrev KSID : RecF := ⟨8, 0, 20, 18⟩
abbrev KSID_NEXT : RecF := ⟨8, 0, 2, 18⟩
abbrev NEXT_VALID : RecF := ⟨8, 0, 1, 1⟩
abbrev REPLAY_EN : RecF := ⟨8, 0, 0, 1⟩
abbrev SWITCH_IDX : RecF := ⟨8, 1, 0, 48⟩
abbrev ROC_INIT : RecF := ⟨8, 2, 0, 32⟩
abbrev AUTH_VALID : RecF := ⟨8, 3, 48, 1⟩
abbrev AUTH_IDX : RecF := ⟨8, 3, 0, 48⟩
abbrev REPLAY_MAP : RecF := ⟨8, 4, 0, 64⟩
abbrev AUTH_TS : RecF := ⟨8, 5, 0, 64⟩
abbrev FAIL_CNT : RecF := ⟨8, 6, 0, 48⟩
abbrev REPLAY_CNT : RecF := ⟨8, 7, 0, 48⟩
end SIn

namespace SOut
abbrev OHB_ID : RecF := ⟨4, 0, 36, 4⟩
abbrev KSID_RTCP : RecF := ⟨4, 0, 18, 18⟩
abbrev KSID : RecF := ⟨4, 0, 0, 18⟩
abbrev SRTCP_IDX : RecF := ⟨4, 1, 0, 31⟩
abbrev OUT_PKT_CNT : RecF := ⟨4, 2, 0, 48⟩
abbrev DROP_CNT : RecF := ⟨4, 3, 0, 48⟩
end SOut

/-- A key set's field. -/
def State.key (s : State) (k : Nat) (f : RecF) : Nat := recGet s.srt.keys k f

/-- A field of an ingress SRTP record. -/
def State.sin (s : State) (i : Nat) (f : RecF) : Nat := recGet s.srt.inRec i f

/-- A field of an egress SRTP record. -/
def State.sout (s : State) (i : Nat) (f : RecF) : Nat := recGet s.srt.outRec i f

/-- Set a field of a key set. -/
def State.setKey (s : State) (k : Nat) (f : RecF) (v : Nat) : State :=
  { s with srt := { s.srt with keys := recSet s.srt.keys k f v } }

/-- Set a field of an ingress SRTP record. -/
def State.setSin (s : State) (i : Nat) (f : RecF) (v : Nat) : State :=
  { s with srt := { s.srt with inRec := recSet s.srt.inRec i f v } }

/-- Set a field of an egress SRTP record. -/
def State.setSout (s : State) (i : Nat) (f : RecF) (v : Nat) : State :=
  { s with srt := { s.srt with outRec := recSet s.srt.outRec i f v } }

/-- A key set may be used: VALID and not poisoned (R71, 16 R453). -/
def State.keyValid (s : State) (k : Nat) : Bool := s.key k Key.VALID = 1 && !s.poisoned 3 k

/-- Suite, session key, salt and authentication key of a key set, each of the length its suite has (R67, R69). -/
def State.srtpKey (s : State) (k : Nat) : SrtpKey :=
  let suite := s.key k Key.SUITE
  let bs := wordBytes (recWords s.srt.keys 12 k)
  ⟨suite, slice bs 8 (keyLen suite), slice bs 40 (saltLen suite), slice bs 56 20⟩

/-- Length of the header that travels in clear: RTP's fixed header, CSRC list and extension block (R68), or the 8 bytes
of an RTCP header. -/
def clearLen (rtcp : Bool) (pay : List Byte) : Nat := if rtcp then 8 else rtpHeader pay 0

/-! ## Commands (R74) -/

/-- The data registers of a command block. -/
def State.dataWords (s : State) (r : Reg) (n : Nat) : List Word := (List.range n).map fun i => s.reg r i

/-- Write data registers from register i. -/
def State.putData (s : State) (r : Reg) (i : Nat) (ws : List Word) : State :=
  ws.zipIdx.foldl (fun t p => t.setReg r (i + p.2) p.1) s

/-- RESULT of SRT_STATUS. -/
def State.srtResult (s : State) (r : Nat) : State := s.put F.SRT_STATUS.RESULT 0 r

/-- The key sets that IN_INIT or IN_UPDATE would name are valid. -/
def State.inKeysValid (s : State) (w0 : Word) : Bool :=
  s.keyValid (fld w0 20 18) && (fld w0 1 1 = 0 || s.keyValid (fld w0 2 18))

/-- The key sets that OUT_INIT or OUT_UPDATE would name are valid. -/
def State.outKeysValid (s : State) (w0 : Word) : Bool := s.keyValid (fld w0 0 18) && s.keyValid (fld w0 18 18)

/-- Software words of an ingress SRTP record, reserved bits zero. -/
def sinWords (d : List Word) : List Word :=
  [d.getD 0 0 &&& wd (2 ^ 38 - 1), d.getD 1 0 &&& wd (2 ^ 48 - 1), d.getD 2 0 &&& wd (2 ^ 32 - 1)]

/-- KEY_WRITE. -/
def State.srtKeyWrite (s : State) (i : Nat) : State :=
  let d := s.dataWords .SRT_DATA 11
  if 262144 ≤ i then s.srtResult 1
  else if 7 ≤ fld (d.getD 0 0) 0 4 then s.srtResult 2
  else
    let ws := wd (fld (d.getD 0 0) 0 4 + 128) :: (d.drop 1).take 9 ++ [d.getD 10 0 &&& wd (2 ^ 48 - 1), 0]
    let s := (s.cure 3 i).srtResult 0
    { s with srt := { s.srt with
      keys := putWords s.srt.keys 12 i 0 ws
      noticed := Tbl.put 0 s.srt.noticed i 0 } }

/-- KEY_ERASE. -/
def State.srtKeyErase (s : State) (i : Nat) : State :=
  if 262144 ≤ i then s.srtResult 1
  else
    let s := s.srtResult 0
    { s with srt := { s.srt with keys := putWords s.srt.keys 12 i 0 (List.replicate 12 0) } }

/-- KEY_READ. -/
def State.srtKeyRead (s : State) (i : Nat) : State :=
  if 262144 ≤ i then s.srtResult 1
  else
    let ws := s.unpoisoned 3 i (recWords s.srt.keys 12 i)
    (s.srtResult 0).putData .SRT_DATA 0
      (ws.getD 0 0 :: List.replicate 9 0 ++ [ws.getD 10 0, ws.getD 11 0])

/-- IN_INIT (clear) and IN_UPDATE. -/
def State.srtInWrite (s : State) (init : Bool) (i : Nat) : State :=
  let d := s.dataWords .SRT_DATA 3
  if !s.inKeysValid (d.getD 0 0) then s.srtResult 3
  else
    let ws := sinWords d ++ if init then List.replicate 5 0 else []
    let s := (if init then s.cure 1 i else s).srtResult 0
    { s with srt := { s.srt with inRec := putWords s.srt.inRec 8 i 0 ws } }

/-- IN_READ. -/
def State.srtInRead (s : State) (i : Nat) : State :=
  (s.srtResult 0).putData .SRT_DATA 0 (s.unpoisoned 1 i (recWords s.srt.inRec 8 i))

/-- OUT_INIT (clear) and OUT_UPDATE. -/
def State.srtOutWrite (s : State) (init : Bool) (i : Nat) : State :=
  let w := s.reg .SRT_DATA 0 &&& wd (2 ^ 40 - 1)
  if 131072 ≤ i then s.srtResult 1
  else if !s.outKeysValid w then s.srtResult 3
  else
    let s := (if init then s.cure 2 i else s).srtResult 0
    { s with srt := { s.srt with
      outRec := putWords s.srt.outRec 4 i 0 (w :: if init then List.replicate 3 0 else []) } }

/-- OUT_READ. -/
def State.srtOutRead (s : State) (i : Nat) : State :=
  if 131072 ≤ i then s.srtResult 1
  else (s.srtResult 0).putData .SRT_DATA 0 (s.unpoisoned 2 i (recWords s.srt.outRec 4 i))

/-- A command of SRT_CMD, started and ended in one step: OP and INDEX as written, GO 0 again. -/
def State.srtCommand (s : State) (op index : Nat) : State :=
  let s := (s.put F.SRT_CMD.OP 0 op).put F.SRT_CMD.INDEX 0 index
  let i := index % 2 ^ 20
  match op with
  | 1 => s.srtKeyWrite i
  | 2 => s.srtKeyErase i
  | 3 => s.srtKeyRead i
  | 4 => s.srtInWrite true i
  | 5 => s.srtInWrite false i
  | 6 => s.srtInRead i
  | 7 => s.srtOutWrite true i
  | 8 => s.srtOutWrite false i
  | 9 => s.srtOutRead i
  | _ => s.srtResult 4

/-- KEY_WRITE (R74). -/
def execKeyWrite (index : Nat) (s : State) : Out := s.whenLive fun s => s.srtCommand 1 index

/-- KEY_ERASE (R74). -/
def execKeyErase (index : Nat) (s : State) : Out := s.whenLive fun s => s.srtCommand 2 index

/-- KEY_READ (R74). -/
def execKeyRead (index : Nat) (s : State) : Out := s.whenLive fun s => s.srtCommand 3 index

/-- IN_INIT (R74). -/
def execInInit (index : Nat) (s : State) : Out := s.whenLive fun s => s.srtCommand 4 index

/-- IN_UPDATE (R74). -/
def execInUpdate (index : Nat) (s : State) : Out := s.whenLive fun s => s.srtCommand 5 index

/-- IN_READ (R74). -/
def execInRead (index : Nat) (s : State) : Out := s.whenLive fun s => s.srtCommand 6 index

/-- OUT_INIT (R74). -/
def execOutInit (index : Nat) (s : State) : Out := s.whenLive fun s => s.srtCommand 7 index

/-- OUT_UPDATE (R74). -/
def execOutUpdate (index : Nat) (s : State) : Out := s.whenLive fun s => s.srtCommand 8 index

/-- OUT_READ (R74). -/
def execOutRead (index : Nat) (s : State) : Out := s.whenLive fun s => s.srtCommand 9 index

/-! ## Key use and notices (R80, R92) -/

/-- LIFE_LIMIT with 0 read as 2^48. -/
def State.lifeLimit (s : State) (k : Nat) : Nat :=
  let l := s.key k Key.LIFE_LIMIT
  if l = 0 then 2 ^ 48 else l

/-- An SRTP notice (R92, 14 R408). -/
def State.srtNotice (s : State) (code unit : Nat) : State :=
  s.post1 3 (s.get F.SRT_NOTICE_CFG.EVQ 0) code unit 0 0

/-- A lifetime notice of a key set: once between two KEY_WRITEs, posted with LIFE_EN 1. One met with LIFE_EN 0 is spent
until the next KEY_WRITE (DESIGN CHOICE, log 97). -/
def State.lifeNotice (s : State) (k code : Nat) : State :=
  let n := Tbl.at 0 s.srt.noticed k
  if bitAt n (code - 1) then s
  else
    let s := { s with srt := { s.srt with noticed := Tbl.put 0 s.srt.noticed k (n + 2 ^ (code - 1)) } }
    if s.isSet F.SRT_NOTICE_CFG.LIFE_EN 0 then s.srtNotice code k else s

/-- USED of a key set has reached its limit. With LIFE_LIMIT 0 the limit is 2^48 and the 48-bit USED wraps to 0 there, so
the key set never expires (DEDUCED, log 97). -/
def State.expired (s : State) (k : Nat) : Bool := decide (s.lifeLimit k ≤ s.key k Key.USED)

/-- One more packet under a key set (R80). The margin notice comes at the first packet at or past its point, so at the
first packet of all where LIFE_LIMIT is below MARGIN (DESIGN CHOICE, log 97). -/
def State.useKey (s : State) (k : Nat) : State :=
  let used := s.key k Key.USED + 1
  let s := s.setKey k Key.USED used
  let s := if s.lifeLimit k ≤ used + s.get F.SRT_LIFE_MARGIN.MARGIN 0 then s.lifeNotice k 1 else s
  if s.lifeLimit k ≤ used then s.lifeNotice k 2 else s

/-! ## Ingress (R76 to R83) -/

/-- Index of a packet's SRTP record (R77). -/
def State.rtpIndex (s : State) (scid extSeq : Nat) : Nat :=
  (s.sin scid SIn.ROC_INIT * 65536 + extSeq + 2 ^ 48 - 65536) % 2 ^ 48

/-- Extended sequence number of an index under a ROC_INIT: the inverse of R77. -/
def seqOf (rocInit index : Nat) : Nat := (index + 65536 + 2 ^ 48 - rocInit * 65536 % 2 ^ 48) % 2 ^ 48

/-- The 31-bit index that an SRTCP packet carries, at the place its suite sets (R79); 0 for SUITE 0, which carries none
(DEDUCED, log 29). -/
def srtcpIndex (suite : Nat) (pay : List Byte) : Nat :=
  if suite = 0 then 0
  else
    let off := if suite ≤ 2 then pay.length - 4 - tagLen suite true else pay.length - 4
    beAt pay off 4 % 2 ^ 31

/-- Key set and index of a packet when it starts: whether KSID_NEXT is used, and the index (R77, R79). -/
def State.pickKey (s : State) (scid : Nat) (rtcp : Bool) (extSeq : Nat) (pay : List Byte) : Bool × Nat :=
  let sw := s.sin scid SIn.SWITCH_IDX
  let pend := s.sin scid SIn.NEXT_VALID = 1
  if rtcp then
    let i0 := srtcpIndex (s.key (s.sin scid SIn.KSID) Key.SUITE) pay
    let i1 := srtcpIndex (s.key (s.sin scid SIn.KSID_NEXT) Key.SUITE) pay
    if pend && sw ≤ i0 && sw ≤ i1 then (true, i1) else (false, i0)
  else
    let i := s.rtpIndex scid extSeq
    (pend && sw ≤ i, i)

/-- A packet's index is a replay of a record (R82); on is the REPLAY_EN under which the packet started (R75). -/
def State.isReplay (s : State) (scid : Nat) (on : Bool) (index : Nat) : Bool :=
  let top := s.sin scid SIn.AUTH_IDX
  on && s.sin scid SIn.AUTH_VALID = 1
    && (index + 64 ≤ top || (index ≤ top && bitAt (s.sin scid SIn.REPLAY_MAP) (top - index)))

/-- Ingress SRTP starts a packet on an engine: key set read, VALID and lifetime checked, USED advanced, first replay
check, plaintext (R70, R71, R80 to R82, R85). -/
def State.startSrtp (s : State) (engine scid : Nat) (rtcp : Bool) (extSeq : Nat) (pay : List Byte) :
    Srtp × List Byte × State :=
  let (next, index) := s.pickKey scid rtcp extSeq pay
  let k := s.sin scid (if next then SIn.KSID_NEXT else SIn.KSID)
  let suite := s.key k Key.SUITE
  let on := s.sin scid SIn.REPLAY_EN = 1
  let s := s.inc F.SRT_IN_PKT_CNT.CNT engine
  let (plain, tagOk) := if suite = 0 then (pay, true) else srtpOpen (s.srtpKey k) rtcp (clearLen rtcp pay) index pay
  let mk := fun v r => ({ engine := engine, ksid := k, next := next, suite := suite, index := index, verdict := v
                          replay := r, replayOn := on, rocInit := s.sin scid SIn.ROC_INIT } : Srtp)
  if !s.keyValid k then (mk 2 false, plain, s.inc F.SRT_IN_NOKEY_CNT.CNT engine)
  else if s.expired k then (mk 3 false, plain, s.inc F.SRT_IN_EXPIRED_CNT.CNT engine)
  else (mk (b2n (!tagOk)) (suite ≠ 0 && s.isReplay scid on index), plain, s.useKey k)

/-- The window update of a successful tag check (R82). -/
def State.authWindow (s : State) (scid index extTs : Nat) : State :=
  let top := s.sin scid SIn.AUTH_IDX
  let valid := s.sin scid SIn.AUTH_VALID = 1
  let map := s.sin scid SIn.REPLAY_MAP
  if !valid || top < index then
    let shift := if valid then index - top else 64
    let map := if 64 ≤ shift then 1 else setBits (map <<< shift % 2 ^ 64) 0 1 1
    (((s.setSin scid SIn.REPLAY_MAP map).setSin scid SIn.AUTH_IDX index).setSin scid SIn.AUTH_TS extTs).setSin
      scid SIn.AUTH_VALID 1
  else s.setSin scid SIn.REPLAY_MAP (setBits map (top - index) 1 1)

/-- The key switch of a packet that authenticated under KSID_NEXT (R79). -/
def State.keySwitch (s : State) (scid : Nat) (p : Srtp) : State :=
  if p.next && s.sin scid SIn.NEXT_VALID = 1 && s.sin scid SIn.KSID_NEXT = p.ksid then
    let s := (s.setSin scid SIn.KSID p.ksid).setSin scid SIn.NEXT_VALID 0
    if s.isSet F.SRT_NOTICE_CFG.SWITCH_EN 0 then s.srtNotice 3 scid else s
  else s

/-- The end of a packet at ingress SRTP: whether AUTH_FAIL is set, and the record and counters after (R71, R76, R80,
R82). A packet under SUITE 0 has no tag check: nothing authenticates and no window moves (DEDUCED, log 29). A NOKEY or
expired packet is counted in FAIL_CNT alone, without a replay check, and a stale packet that authenticates under
KSID_NEXT makes no key switch (DESIGN CHOICE, log 98). -/
def State.endSrtp (s : State) (scid : Nat) (p : Srtp) (extTs : Nat) (stale : Bool) : Bool × State :=
  if stale then
    (p.verdict ≠ 0, if p.verdict = 1 then s.inc F.SRT_IN_AUTH_FAIL_CNT.CNT p.engine else s)
  else if 2 ≤ p.verdict then
    (true, s.setSin scid SIn.FAIL_CNT (s.sin scid SIn.FAIL_CNT + 1))
  else if p.suite = 0 then (false, s)
  else if p.replay || s.isReplay scid p.replayOn p.index then
    (true, (s.setSin scid SIn.REPLAY_CNT (s.sin scid SIn.REPLAY_CNT + 1)).inc F.SRT_IN_REPLAY_CNT.CNT p.engine)
  else if p.verdict = 1 then
    (true, (s.setSin scid SIn.FAIL_CNT (s.sin scid SIn.FAIL_CNT + 1)).inc F.SRT_IN_AUTH_FAIL_CNT.CNT p.engine)
  else (false, (s.authWindow scid p.index extTs).keySwitch scid p)

/-! ## Egress (R78, R88 to R91, R494) -/

/-- The number of the first egress check that a copy fails (R494): 1 NOKEY, 2 MISMATCH, 3 OVERSIZE, 4 and 5 EXPIRED; 0
where it passes all. len is the copy's length with tag and Original Header Block. -/
def State.egressCheck (s : State) (cgid k : Nat) (rtcp dbl : Bool) (len : Nat) : Nat :=
  let suite := s.key k Key.SUITE
  let dblOut := suite = 5 || suite = 6
  if !s.keyValid k then 1
  else if !rtcp && ((dbl && (!dblOut || s.sout cgid SOut.OHB_ID = 0)) || (!dbl && dblOut)) then 2
  else if 9216 < len then 3
  else if rtcp && s.sout cgid SOut.SRTCP_IDX = 0x7FFFFFFF then 4
  else if s.expired k then 5
  else 0

/-- Count a copy that egress SRTP drops at a check: DROP_CNT of its carriage and the engine's counter. -/
def State.countEgressDrop (s : State) (cgid engine check : Nat) : State :=
  let s := s.setSout cgid SOut.DROP_CNT (s.sout cgid SOut.DROP_CNT + 1)
  match check with
  | 1 => s.inc F.SRT_OUT_NOKEY_CNT.CNT engine
  | 2 => s.inc F.SRT_OUT_MISMATCH_CNT.CNT engine
  | 3 => s.inc F.SRT_OUT_OVERSIZE_CNT.CNT engine
  | _ => s.inc F.SRT_OUT_EXPIRED_CNT.CNT engine

/-- Encrypt a packet that passed the checks: index taken, USED advanced, counters (R78, R87, R494). len is the frame's
length as transmitted. -/
def State.seal (s : State) (cgid engine k : Nat) (rtcp : Bool) (out : Nat) (pay : List Byte) (len : Nat) :
    List Byte × State :=
  let suite := s.key k Key.SUITE
  let index := if rtcp then s.sout cgid SOut.SRTCP_IDX else out
  let bytes := if suite = 0 then pay
    else srtpSeal (s.srtpKey k) rtcp (clearLen rtcp pay) index pay
  let s := if rtcp then s.setSout cgid SOut.SRTCP_IDX (index + 1) else s
  let s := (s.useKey k).setSout cgid SOut.OUT_PKT_CNT (s.sout cgid SOut.OUT_PKT_CNT + 1)
  (bytes, (s.inc F.SRT_OUT_PKT_CNT.CNT engine).add F.SRT_OUT_OCT_CNT.CNT engine len)

end Sys2Proof.Machine
end

