-- ==== Sys2Proof/Machine/Ingress.lean ====
section
/-! DEFINITION. Ingress (02, 03): lane groups, receive MAC and FIFO, context commands, policer, classification of port
frames and of injected packets, verdicts on a packet. -/

namespace Sys2Proof.Machine

namespace Ctx
abbrev GEN : RecF := ⟨8, 0, 43, 8⟩
abbrev INIT : RecF := ⟨8, 0, 42, 1⟩
abbrev RTCP_ACT : RecF := ⟨8, 0, 40, 2⟩
abbrev OVH_PROF : RecF := ⟨8, 0, 36, 4⟩
abbrev DD_ID : RecF := ⟨8, 0, 28, 8⟩
abbrev LEVEL_ID : RecF := ⟨8, 0, 24, 4⟩
abbrev SL_FIXED_EN : RecF := ⟨8, 0, 23, 1⟩
abbrev SL_FIXED : RecF := ⟨8, 0, 21, 2⟩
abbrev LAYER_MODE : RecF := ⟨8, 0, 18, 3⟩
abbrev SCREEN : RecF := ⟨8, 0, 17, 1⟩
abbrev POL_EN : RecF := ⟨8, 0, 16, 1⟩
abbrev DCLASS : RecF := ⟨8, 0, 14, 2⟩
abbrev CFID : RecF := ⟨8, 0, 0, 14⟩
abbrev POL_BURST : RecF := ⟨8, 1, 32, 20⟩
abbrev POL_RATE : RecF := ⟨8, 1, 0, 32⟩
abbrev TOKENS : RecF := ⟨8, 2, 0, 52⟩
abbrev T_LAST : RecF := ⟨8, 3, 0, 32⟩
abbrev HI_SEQ : RecF := ⟨8, 4, 0, 48⟩
abbrev HI_TS : RecF := ⟨8, 5, 0, 64⟩
abbrev MATCHED : RecF := ⟨3, 0, 0, 48⟩
abbrev OCTETS : RecF := ⟨3, 1, 0, 64⟩
abbrev DROPPED : RecF := ⟨3, 2, 0, 48⟩
end Ctx

/-- A field of an ingress record. -/
def State.ctx (s : State) (i : Nat) (f : RecF) : Nat := recGet s.ing.recs i f

/-- Set a field of an ingress record. -/
def State.setCtx (s : State) (i : Nat) (f : RecF) (v : Nat) : State :=
  { s with ing := { s.ing with recs := recSet s.ing.recs i f v } }

/-- Raise a statistic of a context. -/
def State.addStat (s : State) (i : Nat) (f : RecF) (n : Nat) : State :=
  { s with ing := { s.ing with stats := recSet s.ing.stats i f (recGet s.ing.stats i f + n) } }

/-- A context is installed. -/
def State.inst (s : State) (scid : Nat) : Bool := Tbl.at false s.ing.installed scid

/-! ## Lane groups and ports (R33, 01 R16) -/

/-- Rates of R33 in Gb/s; none for a combination it does not list. -/
def groupRate (laneRate width : Nat) : Option Nat :=
  match laneRate, width with
  | 0, 0 => some 10
  | 1, 0 => some 25
  | 1, 2 => some 100
  | 2, 0 => some 50
  | 2, 1 => some 100
  | 2, 2 => some 200
  | 2, 3 => some 400
  | _, _ => none

/-- Rate of a port in Gb/s. -/
def State.portRate (s : State) (port : Nat) : Nat :=
  (groupRate (s.get F.PRT_GRP_CFG.LANE_RATE (port / 8)) (s.get F.PRT_GRP_CFG.WIDTH (port / 8))).getD 10

/-- A lane is the first lane of a port under its group's configuration. -/
def State.isPort (s : State) (port : Nat) : Bool :=
  decide (port < 256) && port % 8 % 2 ^ s.get F.PRT_GRP_CFG.WIDTH (port / 8) = 0

/-- The egress or ingress pipeline of a port (01 R16). -/
def pipeOf (port : Nat) : Nat := port / 32

/-- A write of PRT_GRP_CFG (R33). -/
def State.grpCfg (s : State) (g : Nat) (v : Word) : State :=
  let busy := (List.range 8).any fun l => s.isSet F.PRT_PORT_CFG.RX_EN (8 * g + l) || s.isSet F.PRT_PORT_CFG.TX_EN (8 * g + l)
  if busy || (groupRate (fld v 4 2) (fld v 0 3)).isNone then s.flag F.PRT_GRP_CFG.CFG_ERR g true
  else
    ((s.put F.PRT_GRP_CFG.LANE_RATE g (fld v 4 2)).put F.PRT_GRP_CFG.WIDTH g (fld v 0 3)).flag F.PRT_GRP_CFG.CFG_ERR g false

/-- PRT_GRP_CFG_WRITE. -/
def execPrtGrpCfgWrite (group : Nat) (value : Word) (s : State) : Out :=
  s.whenLive fun s => if group < 32 then s.grpCfg group value else s

/-! ## Receive MAC and FIFO (R34 to R38) -/

/-- Frames of a group's FIFO. -/
def State.fifo (s : State) (g : Nat) : List RxFrame := Tbl.at [] s.ing.fifo g

/-- A group's FIFO replaced. -/
def State.setFifo (s : State) (g : Nat) (fs : List RxFrame) : State :=
  { s with ing := { s.ing with fifo := Tbl.put [] s.ing.fifo g fs } }

/-- The receive FIFO holds 32 KiB; a frame that does not fit finds it full (01 R21). -/
def fifoFits (fs : List RxFrame) (len : Nat) : Bool := decide ((fs.map (·.bytes.length)).sum + len ≤ 32768)

/-- A stamp of a port, from its time base with its receive correction (R35, 13 R390). -/
def State.rxStamp (s : State) (port : Nat) : Nat :=
  portStamp (s.tb (s.get F.PRT_PORT_CFG.TB port)).total (sext (s.get F.TIM_PORT_CORR.RX_CORR port) 32)

/-- A frame with its FCS reaches a port. -/
def State.arriveFrame (s : State) (port : Nat) (bytes : List Byte) (fcs : FcsCheck) : State :=
  let g := port / 8
  let ctl := beAt bytes 12 2 = 0x8808
  if bytes.length < 64 then s.inc F.PRT_RX_RUNT_CNT.CNT port
  else if s.get F.PRT_PORT_CFG.MAX_LEN port < bytes.length then s.inc F.PRT_RX_OVERSIZE_CNT.CNT port
  else if fcs = .badEarly || (fcs = .badLate && ctl) then s.inc F.PRT_RX_FCS_CNT.CNT port
  else if ctl then s.inc F.PRT_RX_PAUSE_CNT.CNT port
  else
    let fits := fifoFits (s.fifo g) bytes.length
    let t := if fcs = .good then
        (s.inc F.PRT_RX_FRM_CNT.CNT port).add F.PRT_RX_OCT_CNT.CNT port bytes.length
      else if fits then s
      else s.inc F.PRT_RX_FCS_CNT.CNT port
    if fits then t.setFifo g (t.fifo g ++ [⟨port, bytes, fcs, s.rxStamp port⟩])
    else if fcs = .good then t.inc F.PRT_GRP_RX_OVF_CNT.CNT g
    else t

/-- FRAME_ARRIVAL: bytes run from the destination address to the FCS. A port with RX_EN 0 discards it uncounted, and so
does every port once the media plane is stopped (16 R460). -/
def execFrameArrival (port : Nat) (bytes : List Byte) (fcs : FcsCheck) (s : State) : Out :=
  s.whenLive fun s =>
    if !s.isPort port || !s.isSet F.PRT_PORT_CFG.RX_EN port || s.err.mediaStopped then s
    else s.arriveFrame port bytes fcs

/-! ## Context commands (R41 to R47) -/

/-- ING_CTX_STATUS after a command. -/
def State.ctxResult (s : State) (r dup : Nat) : State :=
  (s.put F.ING_CTX_STATUS.RESULT 0 r).put F.ING_CTX_STATUS.DUP_SCID 0 dup

/-- A key that R41 does not allow. -/
def badKey (k : List Word) : Bool :=
  let ty := (k.getD 1 0).toNat
  let v4 := ty % 16 = 4
  !(ty ∈ [0x04, 0x06, 0x14, 0x16])
    || (v4 && (fld (k.getD 2 0) 32 32 ≠ 0 || k.getD 3 0 ≠ 0 || fld (k.getD 4 0) 32 32 ≠ 0 || k.getD 5 0 ≠ 0))

/-- The installed context of a key (R44). -/
def State.findKey (s : State) (k : List Word) : Option Nat :=
  (s.ing.installed.find? fun e => recWords s.ing.keys 6 e.1 = k).map (·.1)

/-- Installed contexts other than one with SCREEN set (R46). -/
def State.screened (s : State) (but : Nat) : Nat :=
  (s.ing.installed.filter fun e => e.1 ≠ but && s.ctx e.1 Ctx.SCREEN = 1).length

/-- SCREEN_FULL for a context that would take record word 0. -/
def State.screenFull (s : State) (scid : Nat) (w0 : Word) : Bool :=
  bitAt w0.toNat 17 && decide (32768 ≤ s.screened scid)

/-- CLK_FWD cycle count, low 32 bits. -/
def State.fwd32 (s : State) : Nat := s.fwdNow % 2 ^ 32

/-- The configuration fields of words 0 and 1 as written, the hardware fields of word 0 given. -/
def ctxWords (w0 w1 : Word) (gen init : Nat) : List Word :=
  [setFld (setFld (w0 &&& wd (2 ^ 42 - 1)) 43 8 gen) 42 1 init, w1 &&& wd (2 ^ 52 - 1)]

/-- INSTALL. -/
def State.ctxInstall (s : State) (i : Nat) : State :=
  let d := s.dataWords .ING_CTX_DATA 8
  let k := d.take 6
  let w0 := d.getD 6 0
  if badKey k then s.ctxResult 5 0
  else if s.inst i then s.ctxResult 1 0
  else match s.findKey k with
    | some dup => s.ctxResult 3 dup
    | none =>
      if s.screenFull i w0 then s.ctxResult 4 0
      else
        let gen := (s.ctx i Ctx.GEN + 1) % 256
        let burst := fld (d.getD 7 0) 32 20
        let ws := ctxWords w0 (d.getD 7 0) gen 0 ++ [wd (burst * 2 ^ 32), wd s.fwd32, 0, 0, 0, 0]
        let s := (s.cure 0 i).ctxResult 0 0
        let src := putWords s.fwd.src 4 i 0 [0, 0, 0, setFld (recWord s.fwd.src 4 i 3) 44 20 0]
        { s with
          ing := { s.ing with
            installed := Tbl.put false s.ing.installed i true
            keys := putWords s.ing.keys 6 i 0 k
            recs := putWords s.ing.recs 8 i 0 ws
            stats := putWords s.ing.stats 3 i 0 [0, 0, 0]
            score := Tbl.put 0 s.ing.score i 0
            ch := Tbl.put none s.ing.ch i none
            seen := Tbl.put none s.ing.seen i none
            av1 := Tbl.put none s.ing.av1 i none
            fua := Tbl.put none s.ing.fua i none }
          fwd := { s.fwd with src := src } }

/-- REMOVE. -/
def State.ctxRemove (s : State) (i : Nat) : State :=
  if !s.inst i then s.ctxResult 2 0
  else
    let s := s.ctxResult 0 0
    { s with ing := { s.ing with installed := Tbl.put false s.ing.installed i false } }

/-- UPDATE. -/
def State.ctxUpdate (s : State) (i : Nat) : State :=
  let w0 := s.reg .ING_CTX_DATA 6
  let w1 := s.reg .ING_CTX_DATA 7
  if !s.inst i then s.ctxResult 2 0
  else if s.screenFull i w0 then s.ctxResult 4 0
  else
    let ws := ctxWords w0 w1 (s.ctx i Ctx.GEN) (s.ctx i Ctx.INIT)
      ++ [wd (min (s.ctx i Ctx.TOKENS) (fld w1 32 20 * 2 ^ 32))]
    let s := s.ctxResult 0 0
    { s with ing := { s.ing with recs := putWords s.ing.recs 8 i 0 ws } }

/-- READ: the key, then the record. -/
def State.ctxRead (s : State) (i : Nat) : State :=
  if !s.inst i then s.ctxResult 2 0
  else
    let ws := s.unpoisoned 0 i (recWords s.ing.keys 6 i ++ recWords s.ing.recs 8 i)
    (s.ctxResult 0 0).putData .ING_CTX_DATA 0 ws

/-- READ_STATS. -/
def State.ctxStats (s : State) (i : Nat) : State :=
  if !s.inst i then s.ctxResult 2 0
  else (s.ctxResult 0 0).putData .ING_CTX_DATA 0 (recWords s.ing.stats 3 i)

/-- A command of ING_CTX_CMD, started and ended in one step (R47, R48). -/
def State.ctxCommand (s : State) (op scid : Nat) : State :=
  let s := (s.put F.ING_CTX_CMD.OP 0 op).put F.ING_CTX_CMD.SCID 0 scid
  let i := scid % 2 ^ 20
  match op with
  | 1 => s.ctxInstall i
  | 2 => s.ctxRemove i
  | 3 => s.ctxUpdate i
  | 4 => s.ctxRead i
  | 5 => s.ctxStats i
  | _ => s.ctxResult 6 0

/-- INSTALL (R47). -/
def execInstall (scid : Nat) (s : State) : Out := s.whenLive fun s => s.ctxCommand 1 scid

/-- REMOVE (R47). -/
def execRemove (scid : Nat) (s : State) : Out := s.whenLive fun s => s.ctxCommand 2 scid

/-- UPDATE (R47). -/
def execUpdate (scid : Nat) (s : State) : Out := s.whenLive fun s => s.ctxCommand 3 scid

/-- READ (R47). -/
def execRead (scid : Nat) (s : State) : Out := s.whenLive fun s => s.ctxCommand 4 scid

/-- READ_STATS (R47). -/
def execReadStats (scid : Nat) (s : State) : Out := s.whenLive fun s => s.ctxCommand 5 scid

/-! ## Policer (R55 to R57) -/

/-- The refill of R55. -/
def State.polRefill (s : State) (i : Nat) : State :=
  let elapsed := (s.fwd32 + 2 ^ 32 - s.ctx i Ctx.T_LAST) % 2 ^ 32
  let tokens := min (s.ctx i Ctx.POL_BURST * 2 ^ 32) (s.ctx i Ctx.TOKENS + s.ctx i Ctx.POL_RATE * elapsed)
  (s.setCtx i Ctx.TOKENS tokens).setCtx i Ctx.T_LAST s.fwd32

/-- What R55 charges a frame, in 2^−32 byte. -/
def State.polCharge (s : State) (i len : Nat) : Nat :=
  ((len : Int) + sext (s.get F.ING_POL_OVH.OVH (s.ctx i Ctx.OVH_PROF)) 7).toNat * 2 ^ 32

/-- Police a frame: accepted or not (R55, R56). -/
def State.police (s : State) (i len : Nat) : Bool × State :=
  if s.ctx i Ctx.POL_EN = 0 then (true, s)
  else
    let s := s.polRefill i
    let charge := s.polCharge i len
    let tokens := s.ctx i Ctx.TOKENS
    if charge ≤ tokens then (true, s.setCtx i Ctx.TOKENS (tokens - charge))
    else (false, s.addStat i Ctx.DROPPED 1)

/-- POLICER_SCRUB: the scrub visits the next context and refills it if it is installed and policed. -/
def execPolicerScrub (s : State) : Out :=
  s.whenLive fun s =>
    let i := s.ing.scrub
    let s := if s.inst i && s.ctx i Ctx.POL_EN = 1 then s.polRefill i else s
    { s with ing := { s.ing with scrub := (i + 1) % 2 ^ 20 } }

/-! ## Classification (R39 to R54) -/

/-- Sequence and timestamp extension (R53): the packet's values and the record after. -/
def State.extendSeq (s : State) (i seq ts : Nat) : Nat × Nat × State :=
  if s.ctx i Ctx.INIT = 0 then
    let es := 65536 + seq
    let et := 2 ^ 32 + ts
    (es, et, ((s.setCtx i Ctx.HI_SEQ es).setCtx i Ctx.HI_TS et).setCtx i Ctx.INIT 1)
  else
    let hs := s.ctx i Ctx.HI_SEQ
    let ht := s.ctx i Ctx.HI_TS
    let d := sext (seq + 65536 - hs % 65536) 16
    let es := wrapInt (hs + d) 48
    let et := wrapInt (ht + sext (ts + 2 ^ 32 - ht % 2 ^ 32) 32) 64
    (es, et, if 0 < d then (s.setCtx i Ctx.HI_SEQ es).setCtx i Ctx.HI_TS et else s)

/-- Whether an H.264 packet is the first of its frame, and the context's memory after: RFC 6184 marks no start, so a frame
is the packets of one extended timestamp and one SL, its first packet the first that comes of them, and a packet of an
older timestamp is the first of none (04 R96: DEDUCED, log 103). -/
def firstOfFrame (seen : Option (Nat × Nat)) (extTs sl : Nat) : Bool × Option (Nat × Nat) :=
  match seen with
  | none => (true, some (extTs, 2 ^ sl))
  | some (t, m) =>
    if t < extTs then (true, some (extTs, 2 ^ sl))
    else if t = extTs then (!bitAt m sl, some (t, m ||| 2 ^ sl))
    else (false, some (t, m))

/-- SL, TL and SWP of an RTP packet by LAYER_MODE, if they resolve, and the context's template, FU-A and frame memory
after (R52, 04 R96, R97). frame is the stored frame, p the RTP header's offset; inner is set for SUITE 5 and 6. -/
def State.layersOf (s : State) (i : Nat) (frame : List Byte) (p extSeq extTs : Nat) (inner : Bool) :
    Option (Nat × Nat × Bool) × State :=
  let pay := (frame.take 512).drop (p + rtpHeader frame p)
  let mode := s.ctx i Ctx.LAYER_MODE
  if mode = 1 then
    let id := s.ctx i Ctx.DD_ID
    match if id = 0 then none else (elems frame p).find? (·.id = id) with
    | none => (none, s)
    | some e =>
      let (r, held) := resolveAv1 (Tbl.at none s.ing.av1 i) (slice frame e.off e.len)
      (r, { s with ing := { s.ing with av1 := Tbl.put none s.ing.av1 i held } })
  else if inner then (none, s)
  else if mode = 2 then (resolveVp9 pay, s)
  else if mode = 3 then
    let (r, fua) := resolveH264 (Tbl.at none s.ing.fua i) extSeq pay
    let s := { s with ing := { s.ing with fua := Tbl.put none s.ing.fua i fua } }
    match r with
    | none => (none, s)
    | some (sl, tl, swp) =>
      let (first, seen) := firstOfFrame (Tbl.at none s.ing.seen i) extTs sl
      (some (sl, tl, swp && first), { s with ing := { s.ing with seen := Tbl.put none s.ing.seen i seen } })
  else if mode = 4 then (resolveVp8 pay, s)
  else (none, s)

/-- Tag words of a packet with its layer and level fields zero (R58). -/
def tagBase (inj rtcp : Bool) (dclass cfid gen scid : Nat) (stamp extTs extSeq : Nat) (m pt len pipe port head : Nat) :
    List Word :=
  [wd (dclass % 4 * 2 ^ 62 + b2n inj * 2 ^ 60 + b2n rtcp * 2 ^ 59 + cfid * 2 ^ 28 + gen * 2 ^ 20 + scid),
   tagTime stamp,
   wd (extTs / 2 ^ 32 % 2 ^ 32 * 2 ^ 32 + extSeq / 65536 % 2 ^ 32),
   wd (m * 2 ^ 51 + pt * 2 ^ 44 + len % 16384 * 2 ^ 30 + pipe * 2 ^ 27 + port * 2 ^ 19 + head)]

/-- The layer fields of a tag; with SL_FIXED_EN set, SL is SL_FIXED (R52). -/
def State.setLayers (s : State) (i : Nat) (r : Option (Nat × Nat × Bool)) (p : Pkt) : Pkt :=
  let p := match r with
    | some (sl, tl, swp) =>
      (((p.set Tag.LAYER_VALID 1).set Tag.SL sl).set Tag.TL tl).set Tag.SWP (b2n swp)
    | none => p
  if s.ctx i Ctx.SL_FIXED_EN = 1 then p.set Tag.SL (s.ctx i Ctx.SL_FIXED) else p

/-- The level fields of a tag (R51). -/
def setLevel (r : Option (Nat × Nat)) (p : Pkt) : Pkt :=
  match r with
  | some (level, vad) => ((p.set Tag.LVL_VALID 1).set Tag.LEVEL level).set Tag.VAD vad
  | none => p.set Tag.LEVEL 127

/-- The layer and level fields of an injection request (R54, 07 R233). -/
def Pkt.setInj (p : Pkt) (w : Word) : Pkt :=
  let p := (((p.set Tag.LAYER_VALID (fld w 19 1)).set Tag.SL (fld w 17 2)).set Tag.TL (fld w 14 3)).set Tag.SWP (fld w 13 1)
  ((p.set Tag.LVL_VALID (fld w 12 1)).set Tag.VAD (fld w 11 1)).set Tag.LEVEL (fld w 4 7)

/-- A new stored packet with one hold, that of the decision or delivery to come. -/
def State.addPkt (s : State) (p : Pkt) : State :=
  let id := s.tm.nextPkt
  { s with tm := { s.tm with pkts := Tbl.put none s.tm.pkts id (some p), nextPkt := id + 1 } }

/-- Deliver bytes to a receive ring for a reason (R60, R61). -/
def State.giveRing (s : State) (w : RingWait) (bs : List Byte) : State :=
  s.deliver (.media w.ring) (w.scid * 2 ^ 36 + w.port * 2 ^ 28 + w.reason * 2 ^ 24) w.stamp bs

/-- Two deliveries whose order R61 keeps. -/
def RingWait.same (a b : RingWait) : Bool := a.port = b.port && a.ring = b.ring

/-- The deliveries that wait, in order: each goes once nothing of its port and ring is ahead of it and, for a packet, its
verdicts are final; a packet that has ended goes nowhere. held is what still waits. -/
def State.drainRings (s : State) : List RingWait → List RingWait → State
  | [], held => { s with ing := { s.ing with ringWait := held } }
  | w :: ws, held =>
    if held.any w.same then s.drainRings ws (held ++ [w])
    else match w.pkt with
      | none => State.drainRings ((s.giveRing w w.bytes).freeCells w.cells) ws held
      | some id =>
        match s.pkt id with
        | none => s.drainRings ws held
        | some p =>
          if p.dead then s.drainRings ws held
          else if p.authOpen || p.fcsOpen then s.drainRings ws (held ++ [w])
          else State.drainRings ((s.giveRing w (s.pktBytes p)).unhold id) ws held

/-- Give on what waits for a receive ring. -/
def State.serveRings (s : State) : State := s.drainRings s.ing.ringWait []

/-- A delivery takes its place behind those of its port and ring. -/
def State.waitRing (s : State) (w : RingWait) : State :=
  { s with ing := { s.ing with ringWait := s.ing.ringWait ++ [w] } }

/-- A frame that leaves the parse graph with a reason passes the packet buffer under DCLASS_DEF of its port and goes to
the ring that ING_RING_MAP names, behind what waits of its port (R39, R61, 05 R152). -/
def State.deliverFrame (s : State) (reason : Nat) (rx : RxFrame) : State :=
  let fb := rx.bytes.take (rx.bytes.length - 4)
  match s.admitFrame (s.get F.ING_PORT_CFG.DCLASS_DEF rx.port) rx.bytes.length fb with
  | (none, t) => t
  | (some cells, t) =>
    let w : RingWait := { port := rx.port, ring := t.get F.ING_RING_MAP.RING reason, reason := reason, scid := 0
                          stamp := tagTime rx.stamp, bytes := fb, cells := cells }
    if t.ing.ringWait.any w.same then t.waitRing w else (t.giveRing w fb).freeCells cells

/-- A frame that ends before its packet is made: counted as an FCS failure where its FCS is wrong (R36). -/
def State.endFrame (s : State) (rx : RxFrame) : State :=
  if rx.fcs = .good then s else s.inc F.PRT_RX_FCS_CNT.CNT rx.port

/-- A matched packet enters the packet buffer: ingress SRTP starts it, the classifier extracts its fields, its tag is
made (R51 to R58, 03 R81). fb is the frame without its FCS. MARKER, PT, TS_EXT and SEQ_EXT, which R58 takes from RTP, are
0 in the tag of an RTCP packet (DESIGN CHOICE, log 103). -/
def State.storePacket (s : State) (rx : RxFrame) (fb : List Byte) (i : Nat) (rtcp : Bool) (u : Udp) (extSeq extTs : Nat) :
    State :=
  let toRing := rtcp && s.ctx i Ctx.RTCP_ACT = 2
  let dclass := if toRing then s.get F.ING_PORT_CFG.DCLASS_DEF rx.port else s.ctx i Ctx.DCLASS
  let pay := slice fb u.off u.len
  let k := s.sin i (if (s.pickKey i rtcp extSeq pay).1 then SIn.KSID_NEXT else SIn.KSID)
  let n := u.len - suiteGrowth (s.key k Key.SUITE) rtcp
  let len := u.off + n + 4
  if s.poisoned 1 i then (s.inc F.FWD_STALE_CNT.CNT (pipeOf rx.port)).endFrame rx
  else match s.admitPart dclass len with
  | (none, t) => t.endFrame rx
  | (some (cells, whole), t) =>
    let (sr, plain, t) := t.startSrtp (rx.port / 8) i rtcp extSeq pay
    let frame := fb.take u.off ++ plain
    let t := { t with tm := { t.tm with buf := putCells t.tm.buf cells frame } }
    let m := if rtcp then 0 else byteAt fb (u.off + 1) / 128
    let pt := if rtcp then 0 else byteAt fb (u.off + 1) % 128
    let tag := tagBase false rtcp dclass (t.ctx i Ctx.CFID) (t.ctx i Ctx.GEN) i rx.stamp extTs extSeq m pt len
      (pipeOf rx.port) rx.port (cells.headD 0)
    let p : Pkt := { tag := tag, cells := cells, holds := 1, l4 := u.off, pay := n, extSeq := extSeq, extTs := extTs
                     srtp := sr, fcsOpen := rx.fcs ≠ .good, authOpen := true, toRing := toRing, short := !whole }
    if rtcp then
      let t := if toRing then
          t.waitRing { port := rx.port, ring := t.get F.ING_RING_MAP.RING Reason.RTCP_SW, reason := Reason.RTCP_SW
                       scid := i, stamp := tagTime rx.stamp, pkt := some t.tm.nextPkt }
        else t
      t.addPkt (t.setLayers i none (p.set Tag.LEVEL 127))
    else
      let (layers, t) := t.layersOf i frame u.off extSeq extTs (sr.suite = 5 || sr.suite = 6)
      t.addPkt (t.setLayers i layers (setLevel (levelOf frame u.off (t.ctx i Ctx.LEVEL_ID)) p))

/-- A frame whose key matches a context: counted, policed, extended, stored (R44, R45, R53, R55). -/
def State.matched (s : State) (rx : RxFrame) (fb : List Byte) (i : Nat) (rtcp : Bool) (u : Udp) : State :=
  let len := rx.bytes.length
  let s := (s.addStat i Ctx.MATCHED 1).addStat i Ctx.OCTETS len
  let (ok, s) := s.police i len
  let act := s.ctx i Ctx.RTCP_ACT
  if !ok then s.endFrame rx
  else if rtcp then if act = 1 || act = 2 then s.storePacket rx fb i true u 0 0 else s.endFrame rx
  else
    let (es, et, t) := s.extendSeq i (beAt fb (u.off + 2) 2) (beAt fb (u.off + 4) 4)
    t.storePacket rx fb i false u es et

/-- An ingress pipeline processes a port frame. One whose FCS is wrong makes no count before its lookup and is never
delivered (R37). -/
def State.classify (s : State) (rx : RxFrame) : State :=
  let fb := rx.bytes.take (rx.bytes.length - 4)
  let bad := rx.fcs ≠ .good
  let fcsDrop := s.inc F.PRT_RX_FCS_CNT.CNT rx.port
  match parseFrame fb with
  | .malformed => if bad then fcsDrop else s.inc F.ING_PORT_PARSE_DROP_CNT.CNT rx.port
  | .reason r => if bad then fcsDrop else s.deliverFrame r rx
  | .media rtcp u =>
    match s.findKey (keyOf fb rtcp u) with
    | none =>
      let t := s.inc F.ING_PORT_MISS_CNT.CNT rx.port
      if bad then t.endFrame rx
      else if s.isSet F.ING_PORT_CFG.MISS_ACT rx.port then t.deliverFrame Reason.LOOKUP_MISS rx
      else t
    | some i =>
      if s.poisoned 0 i then (s.inc F.FWD_STALE_CNT.CNT (pipeOf rx.port)).endFrame rx
      else s.matched rx fb i rtcp u

/-- An ingress pipeline processes an injected packet: no policing and no SRTP; level and layers from the request (01 R17,
R54, 07 R233), as they stand there. Its stamp is TB0 with no correction. A packet whose context is not installed is
admitted under drop-class 0 with CFID 0 (DESIGN CHOICE, log 103); its decision drops it as stale. -/
def State.classifyInj (s : State) (pipe : Nat) (j : Inj) : State :=
  let i := j.scid
  let len := j.rtp.length + 46
  let frame := slice (Config.injHeader s.freeCtr) 0 42 ++ j.rtp
  if s.poisoned 0 i then s.inc F.FWD_STALE_CNT.CNT pipe
  else
    let here := s.inst i
    let (es, et, s) := if here then s.extendSeq i (beAt j.rtp 2 2) (beAt j.rtp 4 4) else (0, 0, s)
    let dclass := if here then s.ctx i Ctx.DCLASS else 0
    match s.admitFrame dclass len frame with
    | (none, t) => t
    | (some cells, t) =>
      let t := { t with freeCtr := t.freeCtr + 1 }
      let tag := tagBase true false dclass (if here then t.ctx i Ctx.CFID else 0) (t.ctx i Ctx.GEN) i (t.tb 0).total et es
        (byteAt j.rtp 1 / 128) (byteAt j.rtp 1 % 128) len pipe 0 (cells.headD 0)
      let p : Pkt := { tag := tag, cells := cells, holds := 1, l4 := 42, pay := j.rtp.length, extSeq := es, extTs := et }
      t.addPkt (p.setInj j.word)

/-- The next group of a pipeline with a frame waiting, after the group served last (01 R18). -/
def State.nextGroup (s : State) (pipe : Nat) : Option Nat :=
  let last := Tbl.at 3 s.ing.lastGrp pipe
  ((List.range 4).map fun k => (last + 1 + k) % 4).find? fun g => s.fifo (4 * pipe + g) ≠ []

/-- Slots since the pipeline's last injected packet, counted to 7. -/
def State.slotsSince (s : State) (pipe : Nat) : Nat := Tbl.at 7 s.ing.since pipe

/-- Take the frame at the head of a group. -/
def State.takeFrame (s : State) (pipe g : Nat) : State :=
  match s.fifo (4 * pipe + g) with
  | [] => s
  | rx :: rest =>
    let t := s.setFifo (4 * pipe + g) rest
    ({ t with ing := { t.ing with lastGrp := Tbl.put 3 t.ing.lastGrp pipe g } }).classify rx

/-- One slot: one port frame or injected packet by the arbitration of 01 R18. With both waiting, an injected packet
is taken only when none of the seven slots before took one (DEDUCED, log 5). -/
def State.slot (s : State) (pipe : Nat) : State :=
  let inj := Tbl.at [] s.ing.injq pipe
  let since := s.slotsSince pipe
  let past := { s with ing := { s.ing with since := Tbl.put 7 s.ing.since pipe (min 7 (since + 1)) } }
  let port := s.nextGroup pipe
  match inj with
  | j :: rest =>
    if port.isNone || 7 ≤ since then
      ({ s with ing := { s.ing with
        since := Tbl.put 7 s.ing.since pipe 0
        injq := Tbl.put [] s.ing.injq pipe rest } }).classifyInj pipe j
    else match port with
      | none => past
      | some g => past.takeFrame pipe g
  | [] =>
    match port with
    | none => past
    | some g => past.takeFrame pipe g

/-- PIPELINE_SLOT. -/
def execPipelineSlot (pipe : Nat) (s : State) : Out := s.whenReady fun s => if pipe < 8 then s.slot pipe else s

/-! ## Verdicts (R37, 03 R76 to R84) -/

/-- FRAME_FCS_FAIL: the FCS check of a frame fails after its lookup: counted, cells released, no cart, copies in
transmission aborted (R37). -/
def execFrameFcsFail (pkt : Nat) (s : State) : Out :=
  s.whenReady fun s =>
    match s.pkt pkt with
    | none => s
    | some p =>
      if p.fcsOpen then
        let s := (s.inc F.PRT_RX_FCS_CNT.CNT (p.get Tag.PORT)).modPkt pkt fun q => { q with fcsOpen := false }
        (s.killPkt pkt fun t _ => t).serveRings
      else s

/-- A packet's GEN differs from its context's, or the context is no longer installed (R49, 03 R76, 04 R101). -/
def State.staleGen (s : State) (p : Pkt) : Bool :=
  let i := p.get Tag.SCID
  !s.inst i || s.ctx i Ctx.GEN ≠ p.get Tag.GEN

/-- The restore of a failed RTP packet that still owns HI_SEQ (03 R83). -/
def State.restoreExt (s : State) (p : Pkt) : State :=
  let i := p.get Tag.SCID
  if p.is Tag.RTCP || s.ctx i Ctx.HI_SEQ ≠ p.extSeq then s
  else if s.sin i SIn.AUTH_VALID = 1 then
    (s.setCtx i Ctx.HI_SEQ (seqOf p.srtp.rocInit (s.sin i SIn.AUTH_IDX))).setCtx i Ctx.HI_TS (s.sin i SIn.AUTH_TS)
  else s.setCtx i Ctx.INIT 0

/-- AUTH_FAIL becomes 1: copies in transmission end and are counted on their egress engines, nothing else of the packet
is sent (03 R84). -/
def State.failAuth (s : State) (id : Nat) : State :=
  (s.modPkt id fun p => p.set Tag.AUTH_FAIL 1).killPkt id fun t g => t.inc F.SRT_OUT_ABORT_CNT.CNT g

/-- The tag check of a packet ends, as does the packet where that says so. -/
def State.endAuth (s : State) (id : Nat) (p : Pkt) : State :=
  let i := p.get Tag.SCID
  let stale := s.staleGen p
  let (fail, s) := s.endSrtp i p.srtp p.extTs stale
  let s := if fail && !stale then s.restoreExt p else s
  let s := s.modPkt id fun q => { q with authOpen := false }
  if fail then s.failAuth id
  else if p.toRing || p.fcsOpen then s
  else (s.releaseCarts id).sweepPkt id

/-- The verdict of a packet at its last byte: one that found no free cell is dropped whole (05 R154), one whose ingress SRTP
record is poisoned by now is dropped as stale (16 R453), every other has its tag check ended. -/
def State.verdict (s : State) (id : Nat) (p : Pkt) : State :=
  if p.short then (s.inc F.TM_BUF_EXH_CNT.CNT 0).killPkt id fun t _ => t
  else if s.poisoned 1 (p.get Tag.SCID) then (s.inc F.FWD_STALE_CNT.CNT (p.get Tag.PIPE)).killPkt id fun t _ => t
  else s.endAuth id p

/-- AUTH_VERDICT: the tag check of an ingress packet ends and AUTH_FAIL is final; what waited on it at a ring goes on. -/
def execAuthVerdict (pkt : Nat) (s : State) : Out :=
  s.whenReady fun s =>
    match s.pkt pkt with
    | none => s
    | some p => if p.authOpen then (s.verdict pkt p).serveRings else s

end Sys2Proof.Machine
end

