-- ==== Sys2Proof/Machine/Carriage.lean ====
section
/-! DEFINITION. Carriages (05 R135 to R146): records, commands, the shaper, the length of a copy, the checks that a copy
passes at enqueue. -/

namespace Sys2Proof.Machine

namespace Car
abbrev EN : RecF := ⟨12, 0, 63, 1⟩
abbrev PORT : RecF := ⟨12, 0, 55, 8⟩
abbrev LPROF : RecF := ⟨12, 0, 51, 4⟩
abbrev SHP_EN : RecF := ⟨12, 0, 50, 1⟩
abbrev IPV6 : RecF := ⟨12, 0, 49, 1⟩
abbrev VLAN_EN : RecF := ⟨12, 0, 48, 1⟩
abbrev PCP : RecF := ⟨12, 0, 45, 3⟩
abbrev VID : RecF := ⟨12, 0, 33, 12⟩
abbrev DSCP : RecF := ⟨12, 0, 27, 6⟩
abbrev ECN : RecF := ⟨12, 0, 25, 2⟩
abbrev TTL : RecF := ⟨12, 0, 17, 8⟩
abbrev UDP_CSUM : RecF := ⟨12, 0, 16, 1⟩
abbrev DST_MAC : RecF := ⟨12, 1, 0, 48⟩
abbrev SRC_MAC : RecF := ⟨12, 2, 0, 48⟩
abbrev SPORT : RecF := ⟨12, 3, 48, 16⟩
abbrev DPORT : RecF := ⟨12, 3, 32, 16⟩
abbrev RATE : RecF := ⟨12, 8, 0, 32⟩
abbrev BURST : RecF := ⟨12, 9, 32, 20⟩
abbrev DEBT_MAX : RecF := ⟨12, 9, 0, 20⟩
abbrev TOKENS : RecF := ⟨12, 10, 0, 54⟩
abbrev T_LAST : RecF := ⟨12, 11, 0, 32⟩
abbrev ENQ : RecF := ⟨4, 0, 0, 48⟩
abbrev OCT : RecF := ⟨4, 1, 0, 64⟩
abbrev SHP_DROP : RecF := ⟨4, 2, 0, 48⟩
abbrev OTHER : RecF := ⟨4, 3, 0, 48⟩
end Car

/-- A field of a carriage record. -/
def State.car (s : State) (c : Nat) (f : RecF) : Nat := recGet s.tm.car c f

/-- Set a field of a carriage record. -/
def State.setCar (s : State) (c : Nat) (f : RecF) (v : Nat) : State :=
  { s with tm := { s.tm with car := recSet s.tm.car c f v } }

/-- Raise a statistic of a carriage. -/
def State.carAdd (s : State) (c : Nat) (f : RecF) (n : Nat) : State :=
  { s with tm := { s.tm with carStat := recSet s.tm.carStat c f (recGet s.tm.carStat c f + n) } }

/-! ## The shaper (R140, R143 to R146) -/

/-- TOKENS as a signed number of 2^−32 byte. -/
def State.tokens (s : State) (c : Nat) : Int := sext (s.car c Car.TOKENS) 54

/-- TOKENS as refilled to now (R140, R142). -/
def State.refilled (s : State) (c : Nat) : Int :=
  let elapsed := (s.fwd32 + 2 ^ 32 - s.car c Car.T_LAST) % 2 ^ 32
  min ((s.car c Car.BURST * 2 ^ 32 : Nat) : Int) (s.tokens c + ((s.car c Car.RATE * elapsed : Nat) : Int))

/-- TOKENS and T_LAST set. -/
def State.setTokens (s : State) (c : Nat) (v : Int) : State :=
  (s.setCar c Car.TOKENS (wrapInt v 54)).setCar c Car.T_LAST s.fwd32

/-- The refill of a shaper. -/
def State.refill (s : State) (c : Nat) : State := s.setTokens c (s.refilled c)

/-- TOKENS set to BURST. -/
def State.fillTokens (s : State) (c : Nat) : State := s.setTokens c ((s.car c Car.BURST * 2 ^ 32 : Nat) : Int)

/-- Debt that forwarding reads: −floor(TOKENS) in bytes as refilled to now; 0 without a shaper or in credit (R142). -/
def State.debt (s : State) (c : Nat) : Nat :=
  if s.car c Car.SHP_EN = 0 then 0
  else
    let t := s.refilled c
    if 0 ≤ t then 0 else (-(t / 4294967296)).toNat

/-! ## Commands (R137, R138) -/

/-- RESULT of TM_STATUS. -/
def State.tmResult (s : State) (r : Nat) : State := s.put F.TM_STATUS.RESULT 0 r

/-- A non-zero reserved bit in words 0 to 9. -/
def badCarriage (d : List Word) : Bool :=
  let r := fun w lo n => fld (d.getD w 0) lo n ≠ 0
  r 0 0 16 || r 1 48 16 || r 2 48 16 || r 3 0 32 || r 8 32 32 || r 9 52 12 || r 9 20 12

/-- CAR_INIT. -/
def State.carInit (s : State) (c : Nat) : State :=
  let d := s.dataWords .TM_DATA 10
  if badCarriage d then s.tmResult 1
  else
    let s := (s.cure 8 c).tmResult 0
    ({ s with tm := { s.tm with
      car := putWords s.tm.car 12 c 0 d, carStat := putWords s.tm.carStat 4 c 0 [0, 0, 0, 0] } }).fillTokens c

/-- CAR_UPDATE: refill at the old rate, new words, TOKENS clipped to the new BURST; a shaper switched on starts full
(R143, R144). -/
def State.carUpdate (s : State) (c : Nat) : State :=
  let d := s.dataWords .TM_DATA 10
  if badCarriage d then s.tmResult 1
  else
    let was := s.car c Car.SHP_EN = 1
    let s := s.tmResult 0
    let s := if was then s.refill c else s
    let s := { s with tm := { s.tm with car := putWords s.tm.car 12 c 0 d } }
    let burst : Nat := s.car c Car.BURST * 2 ^ 32
    if !was && s.car c Car.SHP_EN = 1 then s.fillTokens c
    else if was && decide ((burst : Int) < s.tokens c) then s.setCar c Car.TOKENS burst
    else s

/-- CAR_READ. -/
def State.carRead (s : State) (c : Nat) : State :=
  (s.tmResult 0).putData .TM_DATA 0 (s.unpoisoned 8 c (recWords s.tm.car 12 c))

/-- CAR_STATS. -/
def State.carStats (s : State) (c : Nat) : State :=
  (s.tmResult 0).putData .TM_DATA 0 (recWords s.tm.carStat 4 c)

/-- A command of TM_CMD, started and ended in one step. -/
def State.tmCommand (s : State) (op cgid : Nat) : State :=
  let s := (s.put F.TM_CMD.OP 0 op).put F.TM_CMD.CGID 0 cgid
  let c := cgid % 131072
  match op with
  | 1 => s.carInit c
  | 2 => s.carUpdate c
  | 3 => s.carRead c
  | 4 => s.carStats c
  | 5 => (s.tmResult 0).fillTokens c
  | _ => s.tmResult 2

/-- CAR_INIT (R137). -/
def execCarInit (cgid : Nat) (s : State) : Out := s.whenLive fun s => s.tmCommand 1 cgid

/-- CAR_UPDATE (R137). -/
def execCarUpdate (cgid : Nat) (s : State) : Out := s.whenLive fun s => s.tmCommand 2 cgid

/-- CAR_READ (R137). -/
def execCarRead (cgid : Nat) (s : State) : Out := s.whenLive fun s => s.tmCommand 3 cgid

/-- CAR_STATS (R137). -/
def execCarStats (cgid : Nat) (s : State) : Out := s.whenLive fun s => s.tmCommand 4 cgid

/-- TOKEN_RESET (R137). -/
def execTokenReset (cgid : Nat) (s : State) : Out := s.whenLive fun s => s.tmCommand 5 cgid

/-- SHAPER_SCRUB: the scrub visits the next carriage and refills it if its shaper is on (R145). -/
def execShaperScrub (s : State) : Out :=
  s.whenLive fun s =>
    let c := s.tm.scrub
    let s := if s.car c Car.SHP_EN = 1 then s.refill c else s
    { s with tm := { s.tm with scrub := (c + 1) % 131072 } }

/-! ## Length, charge and enqueue (R139 to R141, R147) -/

/-- Header bytes through UDP of a copy: H_out. -/
def State.headOut (s : State) (c : Nat) : Nat :=
  14 + 4 * s.car c Car.VLAN_EN + (if s.car c Car.IPV6 = 1 then 40 else 20) + 8

/-- L_copy of a copy with P bytes of UDP payload. -/
def State.copyLen (s : State) (c p : Nat) : Nat := s.headOut c + p + 4

/-- What the shaper charges a length, in bytes. -/
def State.charge (s : State) (c len : Nat) : Nat :=
  ((len : Int) + sext (s.get F.TM_LEN_PROF.OVH (s.car c Car.LPROF)) 8).toNat

/-- A frame refused for its port's TX_EN 0 (R150). -/
def State.dropTxDis (s : State) (port : Nat) : State := s.inc F.TM_PORT_TXDIS_CNT.CNT port

/-- The queue cannot take so many cells more (R140, R147). -/
def State.queueFull (s : State) (port q cells : Nat) : Bool :=
  decide (s.get F.TM_PQ_CFG.QMAX (qkey port q) < s.depth port q + cells)

/-- The shaper of a carriage: refilled, then over its debt limit or charged (R140). -/
def State.shape (s : State) (c len : Nat) : Bool × State :=
  if s.car c Car.SHP_EN = 0 then (true, s)
  else
    let s := s.refill c
    let t := s.tokens c
    if t < -((s.car c Car.DEBT_MAX * 2 ^ 32 : Nat) : Int) then (false, s)
    else (true, s.setCar c Car.TOKENS (wrapInt (t - ((s.charge c len * 2 ^ 32 : Nat) : Int)) 54))

/-- The checks of R140 for a carriage, decided by an egress pipeline, for a queue of a port: whether the frame may be
enqueued, charged and counted. len is L_copy. -/
def State.enqCheck (s : State) (pipe c port q cells len : Nat) : Bool × State :=
  if !s.isSet F.PRT_PORT_CFG.TX_EN port then (false, (s.dropTxDis port).carAdd c Car.OTHER 1)
  else if s.car c Car.EN = 0 || s.poisoned 8 c then (false, s.carAdd c Car.OTHER 1)
  else if !s.isPort port || pipeOf port ≠ pipe then
    (false, (s.inc F.TM_PIPE_MISROUTE_CNT.CNT pipe).carAdd c Car.OTHER 1)
  else if s.queueFull port q cells then
    (false, (s.inc F.TM_Q_DROP_CNT.CNT (qkey port q)).carAdd c Car.OTHER 1)
  else
    let (ok, t) := s.shape c len
    if ok then (true, (t.carAdd c Car.ENQ 1).carAdd c Car.OCT len)
    else (false, (t.inc F.TM_PIPE_SHP_DROP_CNT.CNT pipe).carAdd c Car.SHP_DROP 1)

/-- A frame enters a queue. -/
def State.enqueue (s : State) (port q : Nat) (f : QFrame) : State := s.setQueue port q (s.queue port q ++ [f])

end Sys2Proof.Machine
end

