-- ==== Sys2Proof/Machine/Forwarding.lean ====
section
/-! DEFINITION. The forwarding engine at a packet's decision (04 R98 to R110, R126 to R130): records and commands, talker
screening, carts, keyframe requests, rate hints, hand-over to the replicators. -/

namespace Sys2Proof.Machine

namespace FSrc
abbrev FWD_EN : RecF := ⟨4, 0, 63, 1⟩
abbrev LEAD_SCID : RecF := ⟨4, 0, 43, 20⟩
abbrev MIXROLE : RecF := ⟨4, 0, 41, 2⟩
abbrev SLOT : RecF := ⟨4, 0, 38, 3⟩
abbrev LADDER : RecF := ⟨4, 0, 37, 1⟩
abbrev TALKER_CART : RecF := ⟨4, 0, 36, 1⟩
abbrev COID : RecF := ⟨4, 0, 20, 16⟩
abbrev CPROF : RecF := ⟨4, 0, 16, 4⟩
abbrev FB_VALID : RecF := ⟨4, 1, 63, 1⟩
abbrev FB_CGID : RecF := ⟨4, 1, 45, 17⟩
abbrev ENC : RecF := ⟨4, 1, 40, 5⟩
abbrev LADDER_ID : RecF := ⟨4, 1, 32, 8⟩
abbrev FB_SSRC : RecF := ⟨4, 1, 0, 32⟩
abbrev FB_MIN : RecF := ⟨4, 2, 56, 8⟩
abbrev KF_NEED : RecF := ⟨4, 2, 55, 1⟩
abbrev LAST_FB : RecF := ⟨4, 2, 39, 16⟩
abbrev FIR_SEQ : RecF := ⟨4, 2, 31, 8⟩
abbrev KF_SL : RecF := ⟨4, 2, 29, 2⟩
abbrev RTP_SCID : RecF := ⟨4, 3, 44, 20⟩
abbrev SUBS : RecF := ⟨4, 3, 28, 16⟩
end FSrc

namespace Conf
abbrev EN : RecF := ⟨1, 0, 63, 1⟩
abbrev NM1 : RecF := ⟨1, 0, 60, 3⟩
abbrev SMOOTH : RecF := ⟨1, 0, 57, 3⟩
abbrev VAD_REQ : RecF := ⟨1, 0, 56, 1⟩
abbrev MIN_SCORE : RecF := ⟨1, 0, 49, 7⟩
abbrev HYST : RecF := ⟨1, 0, 43, 6⟩
abbrev ENTER_MS : RecF := ⟨1, 0, 33, 10⟩
abbrev STAY_4MS : RecF := ⟨1, 0, 23, 10⟩
abbrev IDLE_4MS : RecF := ⟨1, 0, 13, 10⟩
abbrev NOTICE_EN : RecF := ⟨1, 0, 12, 1⟩
abbrev EVQ : RecF := ⟨1, 0, 6, 6⟩
end Conf

namespace FSub
abbrev VALID : RecF := ⟨8, 0, 63, 1⟩
abbrev KIND : RecF := ⟨8, 0, 61, 2⟩
abbrev CGID : RecF := ⟨8, 0, 44, 17⟩
abbrev RBID : RecF := ⟨8, 0, 36, 8⟩
abbrev STEER : RecF := ⟨8, 0, 32, 4⟩
abbrev QUEUE : RecF := ⟨8, 0, 29, 3⟩
abbrev CLASS : RecF := ⟨8, 0, 27, 2⟩
abbrev MAX_SL : RecF := ⟨8, 0, 25, 2⟩
abbrev MAX_TL : RecF := ⟨8, 0, 22, 3⟩
abbrev START_SL : RecF := ⟨8, 0, 20, 2⟩
abbrev START_TL : RecF := ⟨8, 0, 17, 3⟩
abbrev FIR_EN : RecF := ⟨8, 0, 16, 1⟩
abbrev USE_PLI : RecF := ⟨8, 0, 15, 1⟩
abbrev TS_RATE : RecF := ⟨8, 0, 12, 3⟩
abbrev XMAP : RecF := ⟨8, 0, 8, 4⟩
abbrev RTCP_FWD : RecF := ⟨8, 0, 7, 1⟩
abbrev OUT_SSRC : RecF := ⟨8, 1, 32, 32⟩
abbrev POOL : RecF := ⟨8, 1, 28, 4⟩
abbrev PRIO : RecF := ⟨8, 1, 24, 4⟩
abbrev AUX : RecF := ⟨8, 1, 0, 20⟩
abbrev COID : RecF := ⟨8, 2, 48, 16⟩
abbrev OUT_EXT : RecF := ⟨8, 2, 0, 48⟩
abbrev TS_OFF : RecF := ⟨8, 3, 32, 32⟩
abbrev LAST_FWD_T : RecF := ⟨8, 3, 0, 32⟩
abbrev KF_WAIT : RecF := ⟨8, 4, 63, 1⟩
abbrev PEND_VALID : RecF := ⟨8, 4, 62, 1⟩
abbrev SUSP : RecF := ⟨8, 4, 61, 1⟩
abbrev OUT_VALID : RecF := ⟨8, 4, 60, 1⟩
abbrev CUR_SL : RecF := ⟨8, 4, 58, 2⟩
abbrev CUR_TL : RecF := ⟨8, 4, 55, 3⟩
abbrev PEND_SL : RecF := ⟨8, 4, 53, 2⟩
abbrev PEND_TL : RecF := ⟨8, 4, 50, 3⟩
abbrev CUR_SCID : RecF := ⟨8, 4, 30, 20⟩
abbrev LAST_IN : RecF := ⟨8, 5, 16, 48⟩
abbrev T_DOWN : RecF := ⟨8, 5, 0, 16⟩
abbrev LAST_DROP_IN : RecF := ⟨8, 6, 16, 48⟩
abbrev SEEN : RecF := ⟨8, 7, 32, 32⟩
abbrev OUT_TS_LAST : RecF := ⟨8, 7, 0, 32⟩
end FSub

/-- A field of a source record. -/
def State.src (s : State) (i : Nat) (f : RecF) : Nat := recGet s.fwd.src i f

/-- Set a field of a source record. -/
def State.setSrc (s : State) (i : Nat) (f : RecF) (v : Nat) : State :=
  { s with fwd := { s.fwd with src := recSet s.fwd.src i f v } }

/-- A field of a conference record. -/
def State.conf (s : State) (i : Nat) (f : RecF) : Nat := recGet s.fwd.conf i f

/-- A field of a subscription. -/
def State.sub (s : State) (i : Nat) (f : RecF) : Nat := recGet s.fwd.sub i f

/-- Set a field of a subscription. -/
def State.setSub (s : State) (i : Nat) (f : RecF) (v : Nat) : State :=
  { s with fwd := { s.fwd with sub := recSet s.fwd.sub i f v } }

/-- FWD_EN of a context as the datapath sees it: 0 for a poisoned record (16 R453). -/
def State.fwdEn (s : State) (i : Nat) : Bool := s.src i FSrc.FWD_EN = 1 && !s.poisoned 4 i

/-- EN of a conference as the datapath sees it. -/
def State.confEn (s : State) (i : Nat) : Bool := s.conf i Conf.EN = 1 && !s.poisoned 5 i

/-- Milliseconds from a to now_ms modulo 2^16. -/
def State.since16 (s : State) (a : Nat) : Nat := (s.nowMs + 65536 - a) % 65536

/-! ## Talker table (R104 to R107) -/

/-- A talker slot. -/
def State.slotAt (s : State) (cf m : Nat) : Option Talker := Tbl.at none s.fwd.slots (cf * 8 + m)

/-- A talker slot replaced. -/
def State.setSlot (s : State) (cf m : Nat) (t : Option Talker) : State :=
  { s with fwd := { s.fwd with slots := Tbl.put none s.fwd.slots (cf * 8 + m) t } }

/-- Slots that exist: N. -/
def State.slotCount (s : State) (cf : Nat) : Nat := s.conf cf Conf.NM1 + 1

/-- The slot of a context in a conference's table. -/
def State.slotOf (s : State) (cf scid : Nat) : Option Nat :=
  (List.range (s.slotCount cf)).find? fun m => (s.slotAt cf m).any (·.scid = scid)

/-- A change of a slot: the SCID that left and the one that entered, with its notice (R107, 14 R408). -/
def State.changeSlot (s : State) (cf m : Nat) (t : Option Talker) : State :=
  let old := (s.slotAt cf m).map (·.scid)
  let new := t.map (·.scid)
  let s := s.setSlot cf m t
  if s.conf cf Conf.NOTICE_EN = 1 then
    s.post1 4 (s.conf cf Conf.EVQ) 0 cf (m + b2n old.isSome * 8 + b2n new.isSome * 16)
      (old.getD 0 * 2 ^ 44 + new.getD 0 * 2 ^ 24)
  else s

/-- Free a slot that is held. -/
def State.freeSlot (s : State) (cf m : Nat) : State :=
  if (s.slotAt cf m).isSome then s.changeSlot cf m none else s

/-- The idle rule over a conference's slots. -/
def State.idleSlots (s : State) (cf : Nat) : State :=
  (List.range (s.slotCount cf)).foldl (fun t m =>
    match t.slotAt cf m with
    | some x => if t.conf cf Conf.IDLE_4MS * 4 < t.since16 x.last then t.changeSlot cf m none else t
    | none => t) s

/-- Smoothed score of a context. -/
def State.score (s : State) (c : Nat) : Nat := Tbl.at 0 s.ing.score c

/-- The score after a packet's level (R105): s += ((x << 8) − s) >> k, the shift arithmetic. -/
def State.scoreStep (s : State) (cf c x : Nat) : State :=
  let v : Int := s.score c
  let d := ((x * 256 : Nat) : Int) - v
  { s with ing := { s.ing with
    score := Tbl.put 0 s.ing.score c (wrapInt (v + d / ((2 ^ s.conf cf Conf.SMOOTH : Nat) : Int)) 15) } }

/-- Challenge time of a context. -/
def State.setCh (s : State) (c : Nat) (t : Option Nat) : State :=
  { s with ing := { s.ing with ch := Tbl.put none s.ing.ch c t } }

/-- A context takes a slot now. -/
def State.takeSlot (s : State) (cf c m : Nat) : State :=
  (s.changeSlot cf m (some ⟨c, s.nowMs, s.nowMs⟩)).setCh c none

/-- The valid slot with the lowest score, ties to the highest slot number. -/
def State.quietest (s : State) (cf : Nat) : Option (Nat × Talker) :=
  (List.range (s.slotCount cf)).foldl (fun best m =>
    match s.slotAt cf m with
    | none => best
    | some t =>
      match best with
      | none => some (m, t)
      | some b => if s.score t.scid ≤ s.score b.2.scid then some (m, t) else best) none

/-- Talker screening of a packet of context c (R105). -/
def State.screen (s : State) (cf c : Nat) (p : Pkt) : State :=
  let x := if p.is Tag.LVL_VALID && !(s.conf cf Conf.VAD_REQ = 1 && !p.is Tag.VAD) then 127 - p.get Tag.LEVEL else 0
  let s := (s.scoreStep cf c x).idleSlots cf
  match s.slotOf cf c with
  | some m =>
    match s.slotAt cf m with
    | some t => s.setSlot cf m (some { t with last := s.nowMs })
    | none => s
  | none =>
    match (List.range (s.slotCount cf)).find? fun m => (s.slotAt cf m).isNone with
    | some m => if s.conf cf Conf.MIN_SCORE * 256 ≤ s.score c then s.takeSlot cf c m else s
    | none =>
      match s.quietest cf with
      | none => s
      | some (m, q) =>
        if s.score q.scid + s.conf cf Conf.HYST * 256 < s.score c then
          match Tbl.at none s.ing.ch c with
          | none => s.setCh c (some s.nowMs)
          | some t0 =>
            if s.conf cf Conf.ENTER_MS ≤ s.since16 t0 ∧ s.conf cf Conf.STAY_4MS * 4 ≤ s.since16 q.entered then
              s.takeSlot cf c m
            else s
        else s.setCh c none

/-- TALKER_SWEEP: the idle rule over every enabled conference (R106). -/
def execTalkerSweep (s : State) : Out :=
  s.whenReady fun s => (s.fwd.conf.map (·.1)).foldl (fun t cf => if t.confEn cf then t.idleSlots cf else t) s

/-! ## Carts (R108 to R110, 06 R168) -/

/-- Operand words 2 to 7 of a cart (R109). -/
def cartOperands (p : Pkt) (slot aux : Nat) : List Word :=
  let g := p.get
  [wd (g Tag.LEN * 2 ^ 50 + g Tag.HEAD_CELL * 2 ^ 31 + g Tag.SCID * 2 ^ 11 + g Tag.GEN * 8 + slot),
   wd (g Tag.CFID * 2 ^ 50 + g Tag.LEVEL * 2 ^ 43 + g Tag.SL * 2 ^ 41 + g Tag.TL * 2 ^ 38 + g Tag.SWP * 2 ^ 37
     + g Tag.MARKER * 2 ^ 36 + g Tag.PT * 2 ^ 29 + aux),
   wd (p.extSeq * 65536), wd p.extTs, p.tag.getD 1 0, 0]

/-- Words of a talker cart: a PEA_FWD cart of profile CPROF and the source's COID. -/
def State.talkerWords (s : State) (src : List Word) (p : Pkt) (slot : Nat) : List Word :=
  let cp := wordsGet src FSrc.CPROF
  [wd (0x02 * 2 ^ 56 + wordsGet src FSrc.COID * 2 ^ 40 + s.get F.FWD_CPROF.PRIO cp * 2 ^ 36
     + s.get F.FWD_CPROF.WGRP cp * 2 ^ 33),
   wd (s.get F.FWD_CPROF.POD_MASK cp * 2 ^ 32 + s.get F.FWD_CPROF.ENTRY cp)] ++ cartOperands p slot 0

/-- Forwarding work queue of an ingress pipeline with the carts behind it. -/
def State.workQueue (s : State) (pipe : Nat) : List FwdCart := Tbl.at [] s.fwd.queue pipe

/-- A forwarding work queue replaced. -/
def State.setWork (s : State) (pipe : Nat) (cs : List FwdCart) : State :=
  { s with fwd := { s.fwd with queue := Tbl.put [] s.fwd.queue pipe cs } }

/-- The packet buffer is at the threshold of a drop-class. -/
def State.atThreshold (s : State) (dclass : Nat) : Bool := decide (s.get F.TM_BUF_THR.THR dclass ≤ s.occ)

/-- A cart and its hold on a packet end under R153. -/
def State.countHeldDrop (s : State) (pipe dclass : Nat) : State :=
  (s.inc F.TM_BUF_DROP_CNT.CNT dclass).inc F.FWD_WQ_DROP_CNT.CNT pipe

/-- A cart is built of a packet: into its pipeline's work queue, behind it when 512 are there, or dropped there while the
packet buffer is at the threshold (R110, 01 R31, 05 R153). -/
def State.pushCart (s : State) (id : Nat) (p : Pkt) (words : List Word) : State :=
  let pipe := p.get Tag.PIPE
  let q := s.workQueue pipe
  let full := 512 ≤ q.length
  let s := (s.inc F.FWD_CART_CNT.CNT pipe).modPkt id fun p => { p with made := true }
  if full && s.atThreshold (p.get Tag.DCLASS) then s.countHeldDrop pipe (p.get Tag.DCLASS)
  else
    let s := if full then s.inc F.FWD_WQ_HOLD_CNT.CNT pipe else s
    let s := (s.hold id).setWork pipe (q ++ [⟨words, id, !p.authOpen && !p.fcsOpen, s.fwd.cartOrder⟩])
    { s with fwd := { s.fwd with cartOrder := s.fwd.cartOrder + 1 } }

/-- Carts held behind a full work queue whose packet's drop-class is at its threshold, with their pipelines. -/
def State.heldCarts (s : State) : List (Nat × FwdCart) :=
  s.fwd.queue.flatMap fun e => ((e.2.drop 512).filter fun c =>
    match s.pkt c.pkt with
    | some p => s.atThreshold (p.get Tag.DCLASS)
    | none => false).map fun c => (e.1, c)

/-- The cart built first among some. -/
def oldestCart : List (Nat × FwdCart) → Option (Nat × FwdCart)
  | [] => none
  | c :: cs =>
    match oldestCart cs with
    | none => some c
    | some d => if c.2.order ≤ d.2.order then some c else some d

/-- HELD_PACKET_DROP: the oldest held packet of a class at its threshold loses its cart (05 R153). -/
def execHeldPacketDrop (s : State) : Out :=
  s.whenLive fun s =>
    match oldestCart s.heldCarts with
    | none => s
    | some (pipe, c) =>
      let d := match s.pkt c.pkt with
        | some p => p.get Tag.DCLASS
        | none => 0
      let t := s.setWork pipe ((s.workQueue pipe).filter fun x => x.order ≠ c.order)
      (t.countHeldDrop pipe d).unhold c.pkt

/-- A packet becomes a talker cart when it meets every point of R108. -/
def State.talkerCart (s : State) (id : Nat) (p : Pkt) (src : List Word) : State :=
  let cf := p.get Tag.CFID
  if !s.confEn cf || wordsGet src FSrc.TALKER_CART = 0 || p.is Tag.INJ || p.srtp.suite = 5 || p.srtp.suite = 6 then s
  else match s.slotOf cf (p.get Tag.SCID) with
    | none => s
    | some m => s.pushCart id p (s.talkerWords src p m)

/-! ## Hints, keyframe requests and rate hints (R126 to R130, 01 R21) -/

/-- Key of a ladder's waiting entry. -/
def hintKey (enc ladder : Nat) : Nat := enc * 256 + ladder

/-- The waiting entry of a ladder, empty where none waits. -/
def State.hint (s : State) (k : Nat) : Hint := (Tbl.at none s.fwd.hints k).getD ⟨[], 0⟩

/-- A waiting entry replaced. -/
def State.setHint (s : State) (k : Nat) (h : Hint) : State :=
  { s with fwd := { s.fwd with hints := Tbl.put none s.fwd.hints k (some h) } }

/-- A keyframe request sets KF_NEED, KF_SL and the form of the request, unless it has nowhere to go (R126). -/
def State.raiseKf (s : State) (leader : Nat) (lead : List Word) (sl : Nat) (pli : Bool) : State :=
  if wordsGet lead FSrc.FB_VALID = 0 && wordsGet lead FSrc.LADDER = 0 then s
  else
    let s := (s.setSrc leader FSrc.KF_NEED 1).setSrc leader FSrc.KF_SL sl
    { s with fwd := { s.fwd with pli := Tbl.put false s.fwd.pli leader pli } }

/-- An FIR or PLI (R128). -/
def fbPacket (pli : Bool) (sender media firSeq : Nat) : List Byte :=
  if pli then beBytes 4 (0x81CE0002) ++ beBytes 4 sender ++ beBytes 4 media
  else beBytes 4 (0x84CE0004) ++ beBytes 4 sender ++ beBytes 4 0 ++ beBytes 4 media ++ [BitVec.ofNat 8 firSeq, 0, 0, 0]

/-- A request to a received source goes out on carriage FB_CGID as a packet that forwarding builds (R128, 05 R140). -/
def State.sendFb (s : State) (leader : Nat) (lead : List Word) (media : Nat) : State :=
  let pli := Tbl.at false s.fwd.pli leader
  let s := if pli then s else s.setSrc leader FSrc.FIR_SEQ (s.src leader FSrc.FIR_SEQ + 1)
  let body := fbPacket pli (wordsGet lead FSrc.FB_SSRC) media (s.src leader FSrc.FIR_SEQ)
  let c := wordsGet lead FSrc.FB_CGID
  let port := s.car c Car.PORT
  let q := s.get F.FWD_FB_CFG.QUEUE 0
  let len := s.copyLen c body.length
  let (ok, t) := s.enqCheck (pipeOf port) c port q (ceilDiv len 256) len
  if ok then t.enqueue port q { body := body, depth := ceilDiv len 256, cgid := c, srtp := 2 } else t

/-- A waiting request is issued by a packet of the group once FB_MIN has passed (R127 to R129). An RTCP packet belongs to
the group by its record; it comes from the member that RTP_SCID names, and its first SSRC is the media SSRC (DEDUCED,
log 65). -/
def State.issueKf (s : State) (p : Pkt) (leader : Nat) (src lead : List Word) : State :=
  let rtcp := p.is Tag.RTCP
  let member := if rtcp then wordsGet src FSrc.RTP_SCID else p.get Tag.SCID
  let simul := s.ctx member Ctx.SL_FIXED_EN = 1
  let from_ := if rtcp then s.ctx member Ctx.SL_FIXED else p.get Tag.SL
  let due := s.src leader FSrc.KF_NEED = 1 && s.src leader FSrc.FB_MIN * 10 ≤ s.since16 (s.src leader FSrc.LAST_FB)
  let sl := s.src leader FSrc.KF_SL
  if !due || (simul && from_ ≠ sl) then s
  else
    let media := beAt (s.pktPayload p) (if rtcp then 4 else 8) 4
    let s := (s.setSrc leader FSrc.LAST_FB s.nowMs).setSrc leader FSrc.KF_NEED 0
    let s := s.inc F.FWD_KF_REQ_CNT.CNT (p.get Tag.PIPE)
    if wordsGet lead FSrc.LADDER = 1 then
      let k := hintKey (wordsGet lead FSrc.ENC) (wordsGet lead FSrc.LADDER_ID)
      let h := s.hint k
      s.setHint k { h with mask := setBits h.mask sl 1 1 % 8 }
    else if wordsGet lead FSrc.FB_VALID = 1 then s.sendFb leader lead media
    else s

/-- Subscriptions of a leader's sublist. -/
def State.sublist (s : State) (leader k : Nat) : List Nat := Tbl.at [] s.fwd.lists (leader * 9 + k)

/-- A leader's rung counts (R130), saturated at 65,535; a poisoned subscription has VALID 0 (16 R453). -/
def State.rungs (s : State) (leader : Nat) : List Nat :=
  let subs := (List.range 8).flatMap (s.sublist leader)
  (List.range 3).map fun sl => min 65535
    (subs.filter fun i => !s.poisoned 6 i && s.sub i FSub.SUSP = 0 && s.sub i FSub.CUR_SL = sl).length

/-- The counts of a leader's last rate hint. -/
def State.lastHint (s : State) (leader : Nat) : List Nat := Tbl.at [0, 0, 0] s.fwd.hintSent leader

/-- Send a rate hint: it replaces the counts of the ladder's waiting entry and keeps the mask. -/
def State.sendHint (s : State) (leader : Nat) : State :=
  let c := s.rungs leader
  let k := hintKey (s.src leader FSrc.ENC) (s.src leader FSrc.LADDER_ID)
  let s := s.setHint k { s.hint k with counts := c }
  { s with fwd := { s.fwd with
    hintSent := Tbl.put [0, 0, 0] s.fwd.hintSent leader c
    hintTime := Tbl.put 0 s.fwd.hintTime leader (s.clock + 1) } }

/-- A rate hint is sent at once when the set of rungs with a non-zero count changes (R130). -/
def State.rateEvent (s : State) (leader : Nat) : State :=
  let c := s.rungs leader
  let last := s.lastHint leader
  if s.src leader FSrc.LADDER = 1 && decide (c.map (fun x => decide (x ≠ 0)) ≠ last.map (fun x => decide (x ≠ 0))) then s.sendHint leader else s

/-- RATE_HINT: a changed count of a ladder's leader is sent 100 ms after the last hint. -/
def execRateHint (scid : Nat) (s : State) : Out :=
  s.whenLive fun s =>
    let t := Tbl.at 0 s.fwd.hintTime scid
    let due := t = 0 || decide (t + 100000000 ≤ s.clock + 1)
    if s.src scid FSrc.LADDER = 1 && s.rungs scid ≠ s.lastHint scid && due then s.sendHint scid else s

/-! ## The decision (R98, R99, R101, R132) -/

/-- Words of the rule block that a subscription's RBID names: block 0 when it is poisoned or is 0 (R118, 16 R453). -/
def State.ruleWords (s : State) (rb : Nat) : List Word :=
  if rb = 0 || s.poisoned 7 rb then [] else recWords s.fwd.rules 16 rb

/-- A subscription as a job holds it. -/
def State.jobSub (s : State) (i : Nat) : JobSub :=
  let st := s.sub i FSub.STEER
  let xm := s.sub i FSub.XMAP
  ⟨i, recWord s.fwd.sub 8 i 0, s.ruleWords (s.sub i FSub.RBID), s.reg .FWD_STEER_A st, s.reg .FWD_STEER_B st,
    s.reg .FWD_XMAP_LO xm, s.reg .FWD_XMAP_HI xm⟩

/-- Hand a packet to one walker: a job, or none where the job queue of 4,096 is full (R99). -/
def State.pushJob (s : State) (w id leader : Nat) (src lead : List Word) (subs : List Nat) : State :=
  if subs = [] then s
  else
    let q := Tbl.at [] s.fwd.jobs w
    if 4096 ≤ q.length then s.inc F.FWD_REPL_OVF_CNT.CNT (w % 8)
    else
      let j : Job := ⟨id, leader, src, lead, subs.map s.jobSub⟩
      let s := (s.hold id).modPkt id fun p => { p with jobs := p.jobs + 1 }
      { s with fwd := { s.fwd with jobs := Tbl.put [] s.fwd.jobs w (q ++ [j]) } }

/-- A packet that no walker replicates any more, of which neither cart nor copy was made (R102, R108). -/
def State.countUnmade (s : State) (p : Pkt) : State :=
  if p.made || p.dead then s
  else if p.screened then s.inc F.FWD_SCREEN_DROP_CNT.CNT (p.get Tag.PIPE)
  else s.inc F.FWD_NODEST_CNT.CNT (p.get Tag.PIPE)

/-- A packet whose decision is over gives back the hold it was stored with; without jobs its fate is counted. -/
def State.closeDecision (s : State) (id : Nat) : State :=
  let s := match s.pkt id with
    | some p => if p.jobs = 0 then s.countUnmade p else s
    | none => s
  s.unhold id

/-- Talker screening of a screened context's RTP packet, and the talker cart of an RTP packet (cycle 2, R105, R108). -/
def State.screenPkt (s : State) (id : Nat) (p : Pkt) (src : List Word) : State :=
  let i := p.get Tag.SCID
  let cf := p.get Tag.CFID
  if p.is Tag.RTCP then s
  else
    let s := if s.ctx i Ctx.SCREEN = 1 then
        let s := s.modPkt id fun p => { p with screened := true }
        if s.confEn cf then s.screen cf i p else s
      else s
    if wordsGet src FSrc.FWD_EN = 1 then s.talkerCart id p src else s

/-- The decision on a packet at header-complete. -/
def State.decide04 (s : State) (id : Nat) (p : Pkt) : State :=
  let pipe := p.get Tag.PIPE
  let i := p.get Tag.SCID
  let s := (s.modPkt id fun p => { p with decided := true }).inc F.FWD_IN_PKT_CNT.CNT pipe
  if s.staleGen p then (s.inc F.FWD_STALE_CNT.CNT pipe).unhold id
  else
    let src := if s.poisoned 4 i then [0, 0, 0, 0] else recWords s.fwd.src 4 i
    let leader := wordsGet src FSrc.LEAD_SCID
    let lead := recWords s.fwd.src 4 leader
    let s := s.screenPkt id p src
    if wordsGet src FSrc.FWD_EN = 0 then (s.inc F.FWD_NODEST_CNT.CNT pipe).unhold id
    else
      let s := s.issueKf p leader src lead
      let s := (List.range 8).foldl (fun t w => t.pushJob w id leader src lead (t.sublist leader w)) s
      (s.pushJob (8 + pipe) id leader src lead (s.sublist leader 8)).closeDecision id

/-- FORWARDING_DECISION. -/
def execForwardingDecision (pkt : Nat) (s : State) : Out :=
  s.whenReady fun s =>
    match s.pkt pkt with
    | none => s
    | some p => if p.decided || p.dead || p.toRing then s else s.decide04 pkt p

/-! ## Commands (R131 to R133) -/

/-- RESULT of FWD_STATUS. -/
def State.fwdResult (s : State) (r : Nat) : State := s.put F.FWD_STATUS.RESULT 0 r

/-- A context may serve as leader (BAD_LEAD). -/
def State.leaderOk (s : State) (l : Nat) : Bool := s.inst l && s.fwdEn l && s.src l FSrc.LEAD_SCID = l

/-- SRC_WRITE: the software fields. -/
def State.fwdSrcWrite (s : State) (i : Nat) : State :=
  let d := s.dataWords .FWD_DATA 4
  let l := wordsGet d FSrc.LEAD_SCID
  if !s.inst i then s.fwdResult 2
  else if l ≠ i && !s.leaderOk l then s.fwdResult 3
  else
    let ws := [d.getD 0 0 &&& ~~~(wd 0xFFFF), d.getD 1 0 &&& ~~~(wd (2 ^ 62)),
      setFld (recWord s.fwd.src 4 i 2) 56 8 (wordsGet d FSrc.FB_MIN),
      setFld (recWord s.fwd.src 4 i 3) 44 20 (wordsGet d FSrc.RTP_SCID)]
    let s := (s.cure 4 i).fwdResult 0
    { s with fwd := { s.fwd with src := putWords s.fwd.src 4 i 0 ws } }

/-- SRC_READ. -/
def State.fwdSrcRead (s : State) (i : Nat) : State :=
  if !s.inst i then s.fwdResult 2
  else (s.fwdResult 0).putData .FWD_DATA 0 (s.unpoisoned 4 i (recWords s.fwd.src 4 i))

/-- BAD_RULE of a word 0: RBID names a block never loaded, for a kind other than DECODE. -/
def State.badRule (s : State) (w0 : List Word) : Bool :=
  let rb := wordsGet w0 FSub.RBID
  wordsGet w0 FSub.KIND ≠ 1 && rb ≠ 0 && !Tbl.at false s.fwd.loaded rb

/-- BAD_FIELD of a word 0: a reserved KIND or TS_RATE, or MAX_TL above 2. -/
def badSubField (w0 : List Word) : Bool :=
  wordsGet w0 FSub.KIND = 3 || 4 ≤ wordsGet w0 FSub.TS_RATE || 2 < wordsGet w0 FSub.MAX_TL

/-- Words 4 and 5 of a new subscription: waiting for a keyframe at START clipped to MAX, or at MAX for DECODE. -/
def State.subStart (s : State) (w0 : List Word) : List Word :=
  let dec := wordsGet w0 FSub.KIND = 1
  let sl := if dec then wordsGet w0 FSub.MAX_SL else min (wordsGet w0 FSub.START_SL) (wordsGet w0 FSub.MAX_SL)
  let tl := if dec then wordsGet w0 FSub.MAX_TL else min (wordsGet w0 FSub.START_TL) (wordsGet w0 FSub.MAX_TL)
  [wd (2 ^ 63 + sl * 2 ^ 58 + tl * 2 ^ 55), wd s.nowMs]

/-- The sublist of a new subscription (R115). -/
def State.sublistOf (s : State) (w0 : List Word) : Nat :=
  if wordsGet w0 FSub.KIND = 1 then 8 else pipeOf (s.car (wordsGet w0 FSub.CGID) Car.PORT)

/-- A subscription has entered KF_WAIT: with FIR_EN a request is raised (R126). -/
def State.enterWait (s : State) (i leader : Nat) : State :=
  if s.sub i FSub.FIR_EN = 1 then
    s.raiseKf leader (recWords s.fwd.src 4 leader) (s.sub i FSub.CUR_SL) (s.sub i FSub.USE_PLI = 1)
  else s

/-- SUB_ADD. -/
def State.fwdSubAdd (s : State) (i : Nat) : State :=
  let d := s.dataWords .FWD_DATA 5
  let leader := fld (d.getD 4 0) 0 20
  if s.sub i FSub.VALID = 1 then s.fwdResult 1
  else if !s.leaderOk leader then s.fwdResult 3
  else if s.src leader FSrc.SUBS = 65535 then s.fwdResult 4
  else if s.badRule d then s.fwdResult 5
  else if badSubField d then s.fwdResult 9
  else
    let ws := [setFld (d.getD 0 0) 63 1 1 &&& ~~~(wd 127), d.getD 1 0 &&& ~~~(wd 0xF00000), d.getD 2 0,
      d.getD 3 0 &&& ~~~(wd 0xFFFFFFFF)] ++ s.subStart d ++ [0, 0]
    let k := leader * 9 + s.sublistOf d
    let s := ((s.cure 6 i).fwdResult 0).setSrc leader FSrc.SUBS (s.src leader FSrc.SUBS + 1)
    let s := { s with fwd := { s.fwd with
      sub := putWords s.fwd.sub 8 i 0 ws
      leadOf := Tbl.put 0 s.fwd.leadOf i leader
      lists := Tbl.put [] s.fwd.lists k (Tbl.at [] s.fwd.lists k ++ [i]) } }
    (s.enterWait i leader).rateEvent leader

/-- SUB_UPDATE: word 0 but for VALID and the START fields. -/
def State.fwdSubUpdate (s : State) (i : Nat) : State :=
  let d := s.dataWords .FWD_DATA 1
  let old := recWord s.fwd.sub 8 i 0
  let same := fun f => wordsGet d f = wordsGet [old] f
  if s.sub i FSub.VALID = 0 then s.fwdResult 2
  else if !(same FSub.KIND && same FSub.CGID && same FSub.TS_RATE) then s.fwdResult 6
  else if s.badRule d then s.fwdResult 5
  else if badSubField d then s.fwdResult 9
  else
    let w := setFld (setFld (d.getD 0 0) 63 1 1) 17 5 (fld old 17 5) &&& ~~~(wd 127)
    let s := s.fwdResult 0
    { s with fwd := { s.fwd with sub := putWords s.fwd.sub 8 i 0 [w] } }

/-- The packets, each with its walker, whose replication on the sublist of a subscription has begun (R133). -/
def State.begunJobs (s : State) (i : Nat) : List (Nat × Nat) :=
  let leader := Tbl.at 0 s.fwd.leadOf i
  let mine := (List.range 9).filter fun k => i ∈ s.sublist leader k
  s.fwd.jobs.flatMap fun e =>
    if min e.1 8 ∈ mine then (e.2.filter fun j => j.leader = leader).map fun j => (e.1, j.pkt) else []

/-- SUB_REMOVE starts: unlinked, VALID 0, GO 1 until SUB_REMOVE_DONE (R133). -/
def State.fwdSubRemove (s : State) (i : Nat) : State :=
  if s.sub i FSub.VALID = 0 then s.fwdResult 2
  else
    let leader := Tbl.at 0 s.fwd.leadOf i
    let begun := s.begunJobs i
    let s := (s.setSub i FSub.VALID 0).setSrc leader FSrc.SUBS (s.src leader FSrc.SUBS - 1)
    let lists := (List.range 9).foldl (fun t k =>
      Tbl.put [] t (leader * 9 + k) ((Tbl.at [] t (leader * 9 + k)).filter (· ≠ i))) s.fwd.lists
    let s := { s with fwd := { s.fwd with lists := lists, removing := some ⟨i, begun⟩ } }
    (s.flag F.FWD_CMD.GO 0 true).rateEvent leader

/-- SUB_READ. -/
def State.fwdSubRead (s : State) (i : Nat) : State :=
  if s.sub i FSub.VALID = 0 then s.fwdResult 2
  else (s.fwdResult 0).putData .FWD_DATA 0
    (s.unpoisoned 6 i (recWords s.fwd.sub 8 i) ++ [wd (Tbl.at 0 s.fwd.leadOf i)])

/-- A rule block image that RB_LOAD refuses (R118). -/
def badRuleBlock (ws : List Word) : Bool :=
  let h := ws.getD 0 0
  let n := fld h 0 4
  fld h 56 8 ≠ 0 || fld h 48 8 ≠ 1 || fld h 4 44 ≠ 0 || n = 0
    || (ws.drop 1).zipIdx.any fun p =>
      if p.2 < n then
        let w := p.1
        fld w 0 11 ≠ 0 || 7 < fld w 12 4 || nand64 (fld w 16 24) (2 ^ 24 - 1 - fld w 40 24) ≠ 0
      else p.1 ≠ 0

/-- RB_LOAD. -/
def State.fwdRbLoad (s : State) (i : Nat) : State :=
  let d := s.dataWords .FWD_DATA 16
  if i = 0 || 255 < i then s.fwdResult 7
  else if badRuleBlock d then s.fwdResult 5
  else
    let s := (s.cure 7 i).fwdResult 0
    { s with fwd := { s.fwd with
      rules := putWords s.fwd.rules 16 i 0 d, loaded := Tbl.put false s.fwd.loaded i true } }

/-- RB_READ. -/
def State.fwdRbRead (s : State) (i : Nat) : State :=
  if i = 0 || 255 < i then s.fwdResult 7
  else (s.fwdResult 0).putData .FWD_DATA 0 (s.unpoisoned 7 i (recWords s.fwd.rules 16 i))

/-- CONF_WRITE: the record, then slots at or above the new N freed under it. -/
def State.fwdConfWrite (s : State) (i : Nat) : State :=
  if 16384 ≤ i then s.fwdResult 7
  else
    let s := (s.cure 5 i).fwdResult 0
    let s := { s with fwd := { s.fwd with
      conf := Tbl.put 0 s.fwd.conf i (s.reg .FWD_DATA 0 &&& ~~~(wd 63)) } }
    ((List.range 8).filter (s.slotCount i ≤ ·)).foldl (fun t m => t.freeSlot i m) s

/-- A slot as CONF_READ returns it. -/
def State.slotWord (s : State) (cf m : Nat) : Word :=
  match s.slotAt cf m with
  | none => 0
  | some t => wd (2 ^ 63 + t.scid * 2 ^ 43 + s.score t.scid * 2 ^ 28 + t.entered * 2 ^ 12)

/-- CONF_READ. -/
def State.fwdConfRead (s : State) (i : Nat) : State :=
  if 16384 ≤ i then s.fwdResult 7
  else (s.fwdResult 0).putData .FWD_DATA 0
    (s.unpoisoned 5 i [Tbl.at 0 s.fwd.conf i] ++ (List.range 8).map (s.slotWord i))

/-- TALKER_CLEAR. -/
def State.fwdTalkerClear (s : State) (i : Nat) : State :=
  if 16384 ≤ i then s.fwdResult 7
  else (List.range 8).foldl (fun t m => t.freeSlot i m) (s.fwdResult 0)

/-- A command of FWD_CMD; ignored while GO reads 1 (R131). -/
def State.fwdCommand (s : State) (op index : Nat) : State :=
  if s.fwd.removing.isSome then s
  else
    let s := (s.put F.FWD_CMD.OP 0 op).put F.FWD_CMD.INDEX 0 index
    let i := index % 2 ^ 20
    match op with
    | 1 => s.fwdSrcWrite i
    | 2 => s.fwdSrcRead i
    | 3 => s.fwdSubAdd i
    | 4 => s.fwdSubUpdate i
    | 5 => s.fwdSubRemove i
    | 6 => s.fwdSubRead i
    | 7 => s.fwdRbLoad i
    | 8 => s.fwdRbRead i
    | 9 => s.fwdConfWrite i
    | 10 => s.fwdConfRead i
    | 11 => s.fwdTalkerClear i
    | _ => s.fwdResult 8

/-- SRC_WRITE (R131). -/
def execSrcWrite (index : Nat) (s : State) : Out := s.whenReady fun s => s.fwdCommand 1 index

/-- SRC_READ (R131). -/
def execSrcRead (index : Nat) (s : State) : Out := s.whenReady fun s => s.fwdCommand 2 index

/-- SUB_ADD (R131). -/
def execSubAdd (index : Nat) (s : State) : Out := s.whenReady fun s => s.fwdCommand 3 index

/-- SUB_UPDATE (R131). -/
def execSubUpdate (index : Nat) (s : State) : Out := s.whenReady fun s => s.fwdCommand 4 index

/-- SUB_REMOVE (R131, R133). -/
def execSubRemove (index : Nat) (s : State) : Out := s.whenReady fun s => s.fwdCommand 5 index

/-- A packet whose replication had begun is still to pass the sublist. -/
def State.inJobs (s : State) (r : Removal) : Bool :=
  r.begun.any fun b => (Tbl.at [] s.fwd.jobs b.1).any fun j => j.pkt = b.2

/-- SUB_REMOVE_DONE: GO clears once every begun packet has passed the sublist (R133). -/
def execSubRemoveDone (s : State) : Out :=
  s.whenLive fun s =>
    match s.fwd.removing with
    | none => s
    | some r =>
      if s.inJobs r then s
      else (({ s with fwd := { s.fwd with removing := none } }).flag F.FWD_CMD.GO 0 false).fwdResult 0

/-- SUB_READ (R131). -/
def execSubRead (index : Nat) (s : State) : Out := s.whenReady fun s => s.fwdCommand 6 index

/-- RB_LOAD (R118, R131). -/
def execRbLoad (index : Nat) (s : State) : Out := s.whenReady fun s => s.fwdCommand 7 index

/-- RB_READ (R131). -/
def execRbRead (index : Nat) (s : State) : Out := s.whenReady fun s => s.fwdCommand 8 index

/-- CONF_WRITE (R131). -/
def execConfWrite (index : Nat) (s : State) : Out := s.whenReady fun s => s.fwdCommand 9 index

/-- CONF_READ (R131). -/
def execConfRead (index : Nat) (s : State) : Out := s.whenReady fun s => s.fwdCommand 10 index

/-- TALKER_CLEAR (R131). -/
def execTalkerClear (index : Nat) (s : State) : Out := s.whenReady fun s => s.fwdCommand 11 index

end Sys2Proof.Machine
end

