-- ==== Sys2Proof/Machine/Work.lean ====
section
/-! DEFINITION. The Work Dispatcher's store (06): cart words, the checks of R167, coaches, readiness, ends, retirement,
VT of the engine pools. Both sides hold the same state, so it stands here once (06 R200; log 34). -/

namespace Sys2Proof.Machine

/-- A command of the CLK_PEA or CLK_VID domain acts only while the part runs and those clocks do (16 R460). -/
def State.whenClk (s : State) (f : State → State) : Out :=
  .next (if s.live && !s.err.clkStopped then { f s with pending := s.pending } else s)

/-- Such a command that posts items or reaches HBM: nothing holds it. -/
def State.whenClkReady (s : State) (f : State → State) : Out := s.whenClk fun s => s.attempt f

/-! ## Cart words (R165, R166) -/

/-- TYPE of a cart. -/
def cartType (ws : List Word) : Nat := fld (ws.getD 0 0) 56 8

/-- COID of a cart. -/
def cartCoid (ws : List Word) : Nat := fld (ws.getD 0 0) 40 16

/-- PRIO of a cart. -/
def cartPrio (ws : List Word) : Nat := fld (ws.getD 0 0) 36 4

/-- WGRP of a cart. -/
def cartGroup (ws : List Word) : Nat := fld (ws.getD 0 0) 33 3

/-- NOTIFY of a cart. -/
def cartNotify (ws : List Word) : Bool := bitAt (ws.getD 0 0).toNat 32

/-- NOPRE of a cart. -/
def cartNopre (ws : List Word) : Bool := bitAt (ws.getD 0 0).toNat 31

/-- EVQ of a cart. -/
def cartEvq (ws : List Word) : Nat := fld (ws.getD 0 0) 24 6

/-- POD_MASK of a cart. -/
def cartPods (ws : List Word) : Nat := fld (ws.getD 1 0) 32 32

/-- POOL of a cart. -/
def cartPool (ws : List Word) : Nat := fld (ws.getD 1 0) 16 4

/-- FUNC of a cart. -/
def cartFunc (ws : List Word) : Nat := fld (ws.getD 1 0) 0 12

/-- PEA or PEA_FWD. -/
def isPeaType (t : Nat) : Bool := t = 0x01 || t = 0x02

/-- PEA_FWD or VDEC_FWD. -/
def isFwdType (t : Nat) : Bool := t = 0x02 || t = 0x11

/-- Engine kind of a type, as KIND of a pool names it: 1 decode, 2 composition, 3 encode; 0 for no engine. -/
def engineKind (t : Nat) : Nat :=
  if t = 0x10 || t = 0x11 then 1 else if t = 0x20 then 2 else if t = 0x30 then 3 else 0

/-- Engines of a kind. -/
def engineCount (k : Nat) : Nat := if k = 1 then 64 else if k = 2 then 16 else if k = 3 then 32 else 0

/-- Who submits a cart (R166). -/
inductive Submitter where
  | forwarding
  | pea
  | voxotte
  | software
  deriving DecidableEq, Repr

/-- Types a submitter may use (R166). -/
def Submitter.types : Submitter → List Nat
  | .forwarding => [0x02, 0x11]
  | .voxotte => [0x01, 0x20, 0x30]
  | _ => [0x01, 0x10, 0x20, 0x30, 0x40]

/-- A cart is malformed (R167). -/
def State.malformed (s : State) (who : Submitter) (ws : List Word) : Bool :=
  let t := cartType ws
  let w0 := (ws.getD 0 0).toNat
  let w1 := (ws.getD 1 0).toNat
  t ∉ who.types
    || bitAt w0 30 || bitsOf w0 0 24 ≠ 0 || bitsOf w1 20 12 ≠ 0 || bitsOf w1 12 4 ≠ 0
    || (isPeaType t && (cartPods ws = 0 || cartPool ws ≠ 0))
    || (engineKind t ≠ 0 && (s.get F.WD_POOL_CFG.KIND (cartPool ws) ≠ engineKind t || cartPods ws ≠ 0
        || bitsOf w1 8 4 ≠ 0))
    || (t = 0x40 && (cartPods ws ≠ 0 || cartPool ws ≠ 0 || cartFunc ws ≠ 0))

/-! ## The store -/

/-- Entries of the cart store. -/
def storeSize : Nat := 16384

/-- Sequence number a is earlier than b: (int32_t)(a − b) is negative (R175). -/
def seqEarlier (a b : Nat) : Bool := decide (sext ((a + 2 ^ 32 - b % 2 ^ 32) % 2 ^ 32) 32 < 0)

/-- The cart of a sequence number. -/
def State.cart (s : State) (q : Nat) : Option Cart := s.work.store.find? fun c => c.seq = q

/-- The store with another list of carts. -/
def State.setStore (s : State) (cs : List Cart) : State := { s with work := { s.work with store := cs } }

/-- Change the cart of a sequence number. -/
def State.modCart (s : State) (q : Nat) (f : Cart → Cart) : State :=
  s.setStore (s.work.store.map fun c => if c.seq = q then f c else c)

/-- A cart that runs, is suspended, parked or armed (R176). -/
def Cart.active (c : Cart) : Bool := c.st = .running || c.st = .suspended || c.st = .parked || c.st = .armed

/-- A cart that waits to start. -/
def Cart.idle (c : Cart) : Bool := c.st = .waiting || c.st = .ready

/-- Unretired carts of a coach, earliest first. -/
def State.coachCarts (s : State) (coid : Nat) : List Cart := s.work.store.filter fun c => cartCoid c.words = coid

/-- Age of a cart: from its number to the next one the counter gives (R195). -/
def State.age (s : State) (c : Cart) : Nat := (s.work.seq + 2 ^ 32 - c.seq % 2 ^ 32) % 2 ^ 32

/-- Age at which a cart expires. -/
def expiryAge : Nat := 2 ^ 31 - 2 ^ 24

/-- A cart at the expiry age stops acceptance (R195) (log 35). -/
def State.aged (s : State) : Bool := s.work.store.any fun c => expiryAge ≤ s.age c

/-- A notice of the dispatcher (R196, 14 R408); a gap holds it, as every output (R201). -/
def State.wdNotice (s : State) (code v0 v1 : Nat) : State :=
  let q := s.get F.WD_CFG.EVQ 0
  if s.work.gap = 0 then s.post1 5 q code 0 v0 v1
  else { s with work := { s.work with heldOut := s.work.heldOut ++ [(q, [itemHeader 5 code 0 0 v0, wd v1])] } }

/-! ## Coaches (R176 to R178) -/

/-- Record of a coach: MODE, HOLD, MAXPAR in place; coach 0 is always FREE. -/
def State.coachRec (s : State) (coid : Nat) : Word :=
  if coid = 0 then wd (2 ^ 55) else Tbl.at (wd (2 ^ 55)) s.work.coach coid

/-- MODE of a coach record. -/
def coachMode (w : Word) : Nat := fld w 62 2

/-- HOLD of a coach record. -/
def coachHold (w : Word) : Bool := bitAt w.toNat 61

/-- MAXPAR of a coach record, 0 read as 1. -/
def coachMaxpar (w : Word) : Nat := max 1 (fld w 55 6)

/-- Smallest VT, as signed differences modulo 2^48, among some groups of a pool (R184). -/
def minVt (vt : Nat → Nat) : List Nat → Option Nat
  | [] => none
  | g :: gs =>
    match minVt vt gs with
    | none => some (vt g)
    | some m => if sext ((vt g + 2 ^ 48 - m % 2 ^ 48) % 2 ^ 48) 48 ≤ 0 then some (vt g) else some m

/-- VT of a group of a pool. -/
def State.vt (s : State) (p g : Nat) : Nat := Tbl.at 0 s.work.vt (p * 8 + g)

/-- A VT replaced, modulo 2^48. -/
def State.setVt (s : State) (p g v : Nat) : State :=
  { s with work := { s.work with vt := Tbl.put 0 s.work.vt (p * 8 + g) (v % 2 ^ 48) } }

/-- An engine cart of a group of a pool that is ready or active. -/
def Cart.ofGroup (c : Cart) (p g : Nat) : Bool :=
  engineKind (cartType c.words) ≠ 0 && cartPool c.words = p && cartGroup c.words = g && (c.st = .ready || c.active)

/-- Raise the VT of a group that had no cart ready or active (R184). -/
def State.raiseVt (s : State) (c : Cart) : State :=
  let p := cartPool c.words
  let g := cartGroup c.words
  if engineKind (cartType c.words) = 0 || s.work.store.any (fun d => d.ofGroup p g) then s
  else
    let busy := (List.range 8).filter fun h => s.work.store.any fun d => d.ofGroup p h
    match minVt (s.vt p) busy with
    | none => s
    | some m => if 0 < sext ((m + 2 ^ 48 - s.vt p g) % 2 ^ 48) 48 then s.setVt p g m else s

/-- A waiting cart becomes ready. -/
def State.makeReady (s : State) (c : Cart) : State := (s.raiseVt c).modCart c.seq fun d => { d with st := .ready }

/-- Waiting carts of a coach become ready as its mode allows, in sequence order: in RETIRE while fewer than MAXPAR are
active, which READY carts are not (R176 to R178; log 36). -/
def State.stepCoach (s : State) (coid : Nat) : State :=
  let r := s.coachRec coid
  let cs := s.coachCarts coid
  let ready := (cs.filter fun c => c.st = .waiting).foldl State.makeReady s
  if coachHold r then s
  else match coachMode r with
    | 0 => ready
    | 1 => match cs with
      | c :: _ => if c.st = .waiting then s.makeReady c else s
      | [] => s
    | _ => if (cs.filter fun c => c.active).length < coachMaxpar r then ready else s

/-! ## Ends and retirement (R192 to R194) -/

/-- Charge a group with an engine's run time (R184). -/
def State.chargeVt (s : State) (c : Cart) : State :=
  if engineKind (cartType c.words) = 0 || !c.ran then s
  else
    let p := cartPool c.words
    let g := cartGroup c.words
    let w := max 1 (fld (s.reg .WD_POOL_WGT p) (8 * g) 8)
    s.setVt p g (s.vt p g + ceilDiv (s.clock - c.started) 1000 * 256 / w)

/-- A cart is over with a status and a RESULT; one of forwarding that never ran gives up its cells (R192, R194). -/
def State.closeCart (s : State) (c : Cart) (status : Nat) (result : Word) : State :=
  let s := s.chargeVt c
  let s := s.modCart c.seq fun d => { d with st := .ended, status := status, result := result }
  if isFwdType (cartType c.words) && !c.ran && (3 ≤ status && status ≤ 5) then
    match c.pkt with
    | some id => s.unhold id
    | none => s
  else s

/-- A cart ends, and its coach may let others start. -/
def State.endCart (s : State) (q status : Nat) (result : Word) : State :=
  match s.cart q with
  | none => s
  | some c => (s.closeCart c status result).stepCoach (cartCoid c.words)

/-- The crossing to the control complex takes another item of the dispatcher (01 R21). -/
def State.wdRoom (s : State) : Bool := (Tbl.at [] s.ctl.crossing 5).length < 16

/-- An ended cart may retire under its coach's mode (R176). -/
def State.mayRetire (s : State) (c : Cart) : Bool :=
  c.st = .ended
    && (c.malformed || coachMode (s.coachRec (cartCoid c.words)) ≠ 2
      || (s.coachCarts (cartCoid c.words)).all fun d => !seqEarlier d.seq c.seq)
    && (!cartNotify c.words || s.wdRoom)

/-- An ended cart retires: its completion item, then its entry (R193). -/
def State.retire (s : State) (q : Nat) : State :=
  match s.cart q with
  | none => s
  | some c =>
    if s.mayRetire c then
      let s := if cartNotify c.words then
          s.post2 5 (cartEvq c.words) 0 (cartCoid c.words) (cartType c.words * 65536 + c.status) c.seq
            c.result.toNat 0
        else s
      (s.setStore (s.work.store.filter fun d => d.seq ≠ q)).stepCoach (cartCoid c.words)
    else s

/-- CART_RETIRE: an ended cart retires; nothing retires in a gap (R201). -/
def execCartRetire (seq : Nat) (s : State) : Out :=
  s.whenClkReady fun s => if s.work.gap = 0 then s.retire seq else s

/-- AGE_NOTICE: a cart's age has reached 2^30; the notice is raised once (R195). -/
def execAgeNotice (seq : Nat) (s : State) : Out :=
  s.whenClkReady fun s =>
    match s.cart seq with
    | none => s
    | some c =>
      if 2 ^ 30 ≤ s.age c && !c.aged then
        (s.modCart seq fun d => { d with aged := true }).wdNotice 2 0 seq
      else s

/-! ## Acceptance (R169 to R174) -/

/-- A cart takes an entry and a sequence number; a malformed one of a hardware producer ends at once (R173, R174). -/
def State.acceptCart (s : State) (who : Submitter) (prod : Nat) (ws : List Word) (pkt : Option Nat) : State :=
  let q := s.work.seq
  let bad := who ≠ .software && s.malformed who ws
  let s := s.inc F.WD_ACCEPT_CNT.CNT 0
  let s := { s with work := { s.work with
    seq := (q + 1) % 2 ^ 32
    store := s.work.store ++ [({ seq := q, words := ws, pkt := pkt, malformed := bad } : Cart)] } }
  if bad then (((s.endCart q 5 0).retire q).inc F.WD_HW_BAD_CNT.CNT 0).wdNotice 3 prod q
  else s.stepCoach (cartCoid ws)

/-- A mix engine. -/
def State.mixEng (s : State) (e : Nat) : MixEng := Tbl.at {} s.mix.engs e

/-- The engine whose cart queue feeds the Voxotte cart port next: the first with a cart after the one served last
(09 R289). -/
def State.mixTurn (s : State) : Option Nat :=
  ((List.range 8).map fun i => (s.mix.turn + 1 + i) % 8).find? fun e => (s.mixEng e).carts ≠ []

/-- The cart at the head of a hardware producer, if it waits to be accepted (R169, 01 R27): its words and packet. -/
def State.headOf (s : State) (prod : Nat) : Option (List Word × Option Nat) :=
  if prod < 8 then
    match s.workQueue prod with
    | c :: _ => if c.complete then some (c.words, some c.pkt) else none
    | [] => none
  else if prod < 40 then ((Tbl.at [] s.work.port (prod - 8)).head?).map fun c => (c.words, none)
  else if prod = 40 then
    match s.mixTurn with
    | some e => (s.mixEng e).carts.head?.map fun ws => (ws, none)
    | none => none
  else none

/-- A hardware producer is held: it has a cart that waits (R171) (log 37). -/
def State.hardwareHeld (s : State) : Bool := (List.range 41).any fun p => (s.headOf p).isSome

/-- The dispatcher can take a cart of a hardware producer (R169, R172, R195, R201). -/
def State.canAccept (s : State) : Bool :=
  s.isSet F.WD_CFG.EN 0 && s.work.gap = 0 && s.work.store.length < storeSize && !s.aged

/-- The producer whose turn it is: the first with a waiting cart after the one served last (R170). -/
def State.nextProducer (s : State) : Option Nat :=
  ((List.range 41).map fun i => (s.work.turn + 1 + i) % 41).find? fun p => (s.headOf p).isSome

/-- What a software submission answers: 1 ACCEPTED, 2 BUSY, 3 BAD_CART, 4 DISABLED (R171, R173) (log 37). -/
def State.submission (s : State) (ws : List Word) : Nat :=
  if !s.isSet F.WD_CFG.EN 0 then 4
  else if s.malformed .software ws then 3
  else if s.work.gap ≠ 0 || storeSize - s.work.store.length ≤ s.get F.WD_CFG.SW_RSV 0 || s.hardwareHeld || s.aged then 2
  else 1

/-- A submission window's cart is accepted or refused (R171, R173, R197). -/
def State.submitWindow (s : State) (h : Nat) : State :=
  let ws := (List.range 8).map fun i => s.reg .WD_SUB_DATA (h * 8 + i)
  let r := s.submission ws
  let q := s.work.seq
  if r = 1 then
    ((s.acceptCart .software 0 ws none).put F.WD_SUB_RESULT.SEQ h q).put F.WD_SUB_RESULT.RESULT h 1
  else
    let s := s.put F.WD_SUB_RESULT.RESULT h r
    if r = 3 then s else s.inc F.WD_SW_BUSY_CNT.CNT 0

/-- WD_SUB_GO: a write of 1 to the window of a hart's number. -/
def execWdSubGo (hart : Nat) (s : State) : Out := s.whenClk fun s => s.submitWindow hart

/-! ## Pools (R184, R185) -/

/-- Engines of a pool: those of its mask that exist and that no lower pool of its kind names (R185). -/
def State.poolEngines (s : State) (p : Nat) : List Nat :=
  let k := s.get F.WD_POOL_CFG.KIND p
  (List.range (engineCount k)).filter fun e =>
    bitAt (s.get F.WD_POOL_MASK.MASK p) e
      && (List.range p).all fun q => !(s.get F.WD_POOL_CFG.KIND q = k && bitAt (s.get F.WD_POOL_MASK.MASK q) e)

/-- The cart an engine of a kind runs. -/
def State.engineCart (s : State) (kind e : Nat) : Option Cart :=
  s.work.store.find? fun c => engineKind (cartType c.words) = kind && c.st = .running && c.unit = e

/-- The lowest idle engine of a pool. -/
def State.idleEngine (s : State) (p : Nat) : Option Nat :=
  (s.poolEngines p).find? fun e => (s.engineCart (s.get F.WD_POOL_CFG.KIND p) e).isNone

/-- Ready engine carts of a pool. -/
def State.poolReady (s : State) (p : Nat) : List Cart :=
  s.work.store.filter fun c => engineKind (cartType c.words) ≠ 0 && cartPool c.words = p && c.st = .ready

/-- The candidate of a pool: the lowest level with a ready cart, the group of smallest VT, ties to the lowest group, the
earliest cart (R184). -/
def State.poolCandidate (s : State) (p : Nat) : Option Cart :=
  let rs := s.poolReady p
  let l := rs.foldl (fun m c => min m (cartPrio c.words)) 16
  let at_ := rs.filter fun c => cartPrio c.words = l
  let groups := (List.range 8).filter fun g => at_.any fun c => cartGroup c.words = g
  match minVt (s.vt p) groups with
  | none => none
  | some m => match groups.find? fun g => s.vt p g = m with
    | none => none
    | some g => at_.find? fun c => cartGroup c.words = g

/-- A write of WD_POOL_CFG or WD_POOL_MASK (R185). -/
def State.poolWrite (s : State) (p : Nat) (mask : Bool) (v : Word) : State :=
  let busy := s.work.store.any fun c =>
    engineKind (cartType c.words) ≠ 0 && cartPool c.words = p && (c.st = .ready || c.st = .running)
  if busy then s.flag F.WD_POOL_CFG.CFG_ERR p true
  else
    let s := if mask then s.setReg .WD_POOL_MASK p v else s.put F.WD_POOL_CFG.KIND p (fld v 0 2)
    s.flag F.WD_POOL_CFG.CFG_ERR p false

/-- WD_POOL_CFG_WRITE: a write of a pool's CFG or MASK. -/
def execWdPoolCfgWrite (pool : Nat) (mask : Bool) (value : Word) (s : State) : Out :=
  s.whenClk fun s => s.poolWrite pool mask value

/-! ## Sides (R200 to R203) -/

/-- A side's detected-error flag is set (R200). -/
def State.flagSide (s : State) (side : Nat) : State :=
  { s with work := { s.work with flagged := Tbl.put 0 s.work.flagged side (s.clock + 1) } }

/-- A side's flag was set within the 63 CLK_PEA cycles before now, 42 ns (R201). -/
def State.sideFlagged (s : State) (side : Nat) : Bool :=
  let t := Tbl.at 0 s.work.flagged side
  decide (t ≠ 0) && decide (s.clock + 1 - t ≤ 42)

/-- A gap ends: the outputs it held are released (R201). -/
def State.endGap (s : State) : State :=
  let t := s.work.heldOut.foldl (fun t o => t.post 5 o.1 o.2) s
  ({ t with work := { t.work with gap := 0, heldOut := [] } }).flag F.WD_LOCK_STATUS.GAP 0 false

/-- A side is retired and the other drives the outputs: one Corrected error (R201). -/
def State.retireSide (s : State) (sideB : Bool) : State :=
  let s := s.flag (if sideB then F.WD_LOCK_STATUS.B_OFF else F.WD_LOCK_STATUS.A_OFF) 0 true
  let s := s.flag F.WD_LOCK_STATUS.ACTIVE 0 (!sideB)
  { (s.raiseFree 1 6 0x20 0) with work := { s.work with gap := 1 } }

/-- The outputs of the sides differ: one flagged side is retired, else the part has no verdict (R201, R202). A flag is
one set before the mismatch or, as the command tells, after it. While one side is offline nothing is compared; a swap
under way is given up, and SWAP reads 0. -/
def State.mismatch (s : State) (flagA flagB : Bool) : State :=
  if s.isSet F.WD_LOCK_STATUS.A_OFF 0 || s.isSet F.WD_LOCK_STATUS.B_OFF 0 || s.work.gap = 1 || s.work.gap = 3 then s
  else
    let a := flagA || s.sideFlagged 0
    let b := flagB || s.sideFlagged 1
    let s := (s.inc F.WD_MISMATCH_CNT.CNT 0).flag F.WD_LOCK_STATUS.GAP 0 true
    let s := s.flag F.WD_LOCK_CMD.SWAP 0 false
    if a = b then ({ s with work := { s.work with gap := 3 } }).raiseFree 4 6 0x21 0
    else s.retireSide b

/-- SIDE_MISMATCH: with the detected-error flags of cycles 0 to 3. -/
def execSideMismatch (flagA flagB : Bool) (s : State) : Out := s.whenClk fun s => s.mismatch flagA flagB

/-- SWITCHOVER_RELEASE: the gap of a switchover ends; outputs are released and the notice leaves (R201) (log 34). -/
def execSwitchoverRelease (s : State) : Out :=
  s.whenClkReady fun s =>
    if s.work.gap = 1 then
      s.endGap.wdNotice 4 (b2n (s.isSet F.WD_LOCK_STATUS.B_OFF 0)) 0
    else s

/-- SWAP: ignored while a side is retired or a gap runs (R203). -/
def State.swap (s : State) : State :=
  if s.isSet F.WD_LOCK_STATUS.A_OFF 0 || s.isSet F.WD_LOCK_STATUS.B_OFF 0 || s.work.gap ≠ 0 then s
  else
    let s := ({ s with work := { s.work with gap := 2 } }).flag F.WD_LOCK_STATUS.GAP 0 true
    s.flag F.WD_LOCK_CMD.SWAP 0 true

/-- SWAP: WD_LOCK_CMD with SWAP 1. -/
def execSwap (s : State) : Out := s.whenClk fun s => s.swap

/-- SWAP_DONE: the swap's gap ends. -/
def execSwapDone (s : State) : Out :=
  s.whenClkReady fun s =>
    if s.work.gap = 2 then
      let s := (s.endGap.flag F.WD_LOCK_CMD.SWAP 0 false).inc F.WD_SWAP_CNT.CNT 0
      let b := !s.isSet F.WD_LOCK_STATUS.ACTIVE 0
      (s.flag F.WD_LOCK_STATUS.ACTIVE 0 b).wdNotice 5 (b2n b) 0
    else s

/-- AUTO_SWAP: with the feature accepted, device firmware writes SWAP once an hour (14 R424). -/
def execAutoSwap (s : State) : Out := s.whenClk fun s => if bitAt s.ctl.ryuAccepted 4 then s.swap else s

end Sys2Proof.Machine
end

