-- ==== Sys2Proof/Machine/Operands.lean ====
section
/-! DEFINITION. Operand forms of the Pea cores (07 R204 to R219, 08 R241 to R248): the fields of a bundle, rotated
register names, the pointer unit and its updates, data addresses and the memories behind them, the checks of R242. -/

namespace Sys2Proof.Machine

/-! ## Registers (R210, R217, R245) -/

/-- Physical number of the name gn under a rotation base (R217). -/
def gphys (rot n : Nat) : Nat := if n < 16 then n else 16 + (n - 16 + rot) % 16

/-- The g register of a name. -/
def PeaRun.gr (r : PeaRun) (n : Nat) : BitVec 32 := Tbl.at 0 r.g (gphys r.rot n)

/-- A physical g register replaced. -/
def PeaRun.setPhys (r : PeaRun) (k : Nat) (v : BitVec 32) : PeaRun := { r with g := Tbl.put 0 r.g k v }

/-- An accumulator. -/
def PeaRun.acc (r : PeaRun) (i : Nat) : BitVec 72 := Tbl.at 0 r.ac i

/-- An accumulator replaced. -/
def PeaRun.setAcc (r : PeaRun) (i : Nat) (v : BitVec 72) : PeaRun := { r with ac := Tbl.put 0 r.ac i v }

/-- A register of the pointer unit by its selector (R245). -/
def PeaRun.ptr (r : PeaRun) (sel : Nat) : BitVec 24 := Tbl.at 0 r.pu sel

/-- A register of the pointer unit replaced. -/
def PeaRun.setPtr (r : PeaRun) (sel : Nat) (v : BitVec 24) : PeaRun := { r with pu := Tbl.put 0 r.pu sel v }

/-- The two low bits' reversal: the low k bits of n in reverse order. -/
def revBits : Nat → Nat → Nat
  | 0, _ => 0
  | k + 1, n => n % 2 * 2 ^ k + revBits k (n / 2)

/-- rev_add of R215: addition over bits k − 1 to 0 with the carry running towards bit 0; bits above stay (log 38). -/
def revAdd (x y : BitVec 24) (k : Nat) : BitVec 24 :=
  let lo := revBits k ((revBits k (x.toNat % 2 ^ k) + revBits k (y.toNat % 2 ^ k)) % 2 ^ k)
  BitVec.ofNat 24 (x.toNat / 2 ^ k * 2 ^ k + lo)

/-- New value of a pointer on post-modify (R215). -/
def postModify (p b l m : BitVec 24) : BitVec 24 :=
  if l = 0 then p + m
  else if l.getLsbD 23 then b + revAdd (p - b) m (log2Below 23 (l.toNat % 2 ^ 23))
  else
    let n := p + m
    if (b + l).toNat ≤ n.toNat then n - l
    else if n.toNat < b.toNat then n + l
    else n

/-- The post-modified value of pointer i of a cart. -/
def PeaRun.stepped (r : PeaRun) (i : Nat) : BitVec 24 :=
  postModify (r.ptr i) (r.ptr (8 + i)) (r.ptr (16 + i)) (r.ptr (24 + i))

/-! ## Data addresses (R208) -/

/-- The memories a data address reaches. -/
inductive PeaSpace where
  | x
  | y
  | shared
  deriving DecidableEq, Repr

/-- Memory and index of bytes at a data address, for the X column or the Y column of R208; none outside it. -/
def placeOf (core half : Nat) (ysel : Bool) (a len : Nat) : Option (PeaSpace × Nat) :=
  if a + len ≤ 0x8000 then some (if ysel then .y else .x, core * 65536 + half * 32768 + a)
  else if 0x100000 ≤ a && a + len ≤ 0x200000 then some (.shared, core / 16 * 2 ^ 20 + (a - 0x100000))
  else none

/-- Bytes of a pod memory. -/
def Pea.load (p : Pea) (sp : PeaSpace) (i n : Nat) : List Byte :=
  match sp with
  | .x => Tbl.getList 0 p.x i n
  | .y => Tbl.getList 0 p.y i n
  | .shared => Tbl.getList 0 p.shared i n

/-- Bytes of a pod memory replaced. -/
def Pea.store (p : Pea) (sp : PeaSpace) (i : Nat) (bs : List Byte) : Pea :=
  match sp with
  | .x => { p with x := Tbl.putList 0 p.x i bs }
  | .y => { p with y := Tbl.putList 0 p.y i bs }
  | .shared => { p with shared := Tbl.putList 0 p.shared i bs }

/-! ## Fields and the checks of R242 -/

/-- A field of a bundle. -/
def bf (w : Word) (lo len : Nat) : Nat := bitsOf w.toNat lo len

/-- OPC of a compute slot. -/
def opcOf (w : Word) : Nat := bf w 52 7

/-- Some fields of a bundle are zero. -/
def allZero (w : Word) (fs : List (Nat × Nat)) : Bool := fs.all fun f => bf w f.1 f.2 = 0

/-- A compute slot holds no reserved opcode or value and no unused field that is not zero (R242, R244, R253 to R257). -/
def compLegal (w : Word) : Bool :=
  let op := opcOf w
  let b := (37, 5)
  let imm5 := (32, 5)
  let d := (47, 5)
  if op = 0 then allZero w [(32, 20), (59, 3)]
  else if op ≤ 0x0C || (0x10 ≤ op && op ≤ 0x13) || op = 0x1D then allZero w [imm5]
  else if op ≤ 0x0F || (0x19 ≤ op && op ≤ 0x1C) then allZero w [b, imm5]
  else if op ≤ 0x17 then allZero w [b]
  else if op = 0x18 then allZero w [d, imm5]
  else if op = 0x20 then true
  else if op = 0x21 then allZero w [d]
  else if op = 0x30 then allZero w [(32, 17)]
  else if 0x31 ≤ op && op ≤ 0x35 then allZero w [(32, 14)]
  else if op = 0x36 then allZero w [(41, 5), (38, 2)]
  else if op = 0x37 then allZero w [(32, 8)]
  else if op = 0x38 then allZero w [(32, 14)]
  else if op = 0x39 then allZero w [(46, 3), (40, 1), (32, 6)] && bf w 38 2 ≠ 3
  else if op = 0x3A then allZero w [(49, 3), (32, 6)] && bf w 38 2 ≠ 3
  else if op = 0x3B then allZero w [(49, 3), (32, 9)]
  else if 0x40 ≤ op && op ≤ 0x42 then
    let f := bf w 36 3
    f ≤ 4 && allZero w [(32, 2)]
      && ((f ≠ 2 && f ≠ 4) || bf w 35 1 = 0)
      && ((f ≠ 1 && f ≠ 2 && f ≠ 4) || bf w 34 1 = 0)
  else if op = 0x50 || op = 0x51 then allZero w [(32, 10)]
  else if op = 0x52 then allZero w [(42, 5)]
  else if op = 0x53 then allZero w [(32, 10)] && bf w 47 5 ≤ 4
  else if op = 0x54 then allZero w [(32, 10)] && bf w 42 5 ≤ 4
  else if op = 0x55 then allZero w [(42, 5)] && bf w 47 5 ≤ 4
  else false

/-- MOP of the move slot whose lowest bit is at lo. -/
def mopOf (w : Word) (lo : Nat) : Nat := bf w (lo + 12) 4

/-- A move slot is legal (R242, R246, R259). -/
def moveLegal (w : Word) (lo : Nat) : Bool :=
  let op := mopOf w lo
  if op = 0 then bf w lo 12 = 0
  else if op ≤ 7 then true
  else if op ≤ 9 then true
  else if op = 10 then bf w (lo + 4) 5 = 0 && bf w (lo + 3) 1 = 1
  else false

/-- A control bundle uses only the fields of its operation (R242, R248, R262, R263). -/
def controlLegal (w : Word) : Bool :=
  match bf w 56 6 with
  | 0x00 => bf w 0 56 = 0
  | 0x01 => bf w 12 44 = 0
  | 0x02 => bf w 12 40 = 0 && bf w 52 4 ≠ 15
  | 0x03 => bf w 51 5 = 0 && bf w 12 34 = 0
  | 0x04 => bf w 51 5 = 0 && bf w 0 46 = 0
  | 0x05 => bf w 32 14 = 0 && bf w 12 4 = 0 && (if bf w 51 1 = 1 then bf w 16 16 = 0 else bf w 46 5 = 0)
  | 0x06 => bf w 53 3 = 0 && bf w 0 52 = 0
  | 0x07 => bf w 54 2 = 0 && bf w 51 1 = 0 && bf w 32 14 = 0 && bf w 0 16 = 0
  | 0x08 => bf w 54 2 = 0 && bf w 51 1 = 0 && bf w 0 46 = 0
  | 0x09 => bf w 51 5 = 0 && bf w 32 9 = 0 && bf w 0 16 = 0
  | _ => false

/-- A long bundle is legal (R247, R261). -/
def longLegal (w : Word) : Bool :=
  1 ≤ bf w 55 7 && bf w 55 7 ≤ 4 && bf w 48 2 = 0 && (bf w 55 7 ≠ 2 || bf w 40 8 = 0)
    && bf w 0 3 = 0 && moveLegal w 0

/-- A bundle is legal (R242): the guards of standard and long bundles are zero. -/
def bundleLegal (w : Word) : Bool :=
  match bf w 62 2 with
  | 0 => compLegal w && moveLegal w 16 && moveLegal w 0 && allZero w [(59, 3), (16, 3), (0, 3)]
  | 1 => longLegal w
  | 2 => controlLegal w
  | _ => compLegal w && moveLegal w 16 && moveLegal w 0

end Sys2Proof.Machine
end

