-- ==== Sys2Proof/Machine/PeaCore.lean ====
section
/-! DEFINITION. A cart on a Pea core (07 R206, R217 to R236): entry, loops and branches, exceptions, ends, parking,
packet cells, and the gate through which every bundle issues. -/

namespace Sys2Proof.Machine

/-! ## Cores and what they hold -/

/-- A core of the part. -/
def State.core (s : State) (k : Nat) : Core := Tbl.at {} s.pea.cores k

/-- A core replaced. -/
def State.setCore (s : State) (k : Nat) (c : Core) : State :=
  { s with pea := { s.pea with cores := Tbl.put {} s.pea.cores k c } }

/-- Where a core holds a cart. -/
inductive Seat where
  | run
  | slot0
  | slot1
  deriving DecidableEq, Repr

/-- The cart in a seat. -/
def Core.at (c : Core) : Seat → Option PeaRun
  | .run => c.run
  | .slot0 => c.slot0
  | .slot1 => c.slot1

/-- A seat replaced. -/
def Core.put (c : Core) (r : Option PeaRun) : Seat → Core
  | .run => { c with run := r }
  | .slot0 => { c with slot0 := r }
  | .slot1 => { c with slot1 := r }

/-- The save slot of a number. -/
def slotSeat (n : Nat) : Seat := if n = 0 then .slot0 else .slot1

/-- The first free save slot (R188; log 39). -/
def Core.freeSlot (c : Core) : Option Nat :=
  if c.slot0.isNone then some 0 else if c.slot1.isNone then some 1 else none

/-- Carts a core holds. -/
def Core.held (c : Core) : List PeaRun := [c.run, c.slot0, c.slot1].filterMap id

/-- RUN of PEA_CORE_STATE. -/
def Core.runState (c : Core) : Nat :=
  if c.saving.isSome then 2 else if c.run.isSome then 1 else if c.held = [] then 0 else 4

/-- Half of a cart, 0 where there is none. -/
def halfIn (r : Option PeaRun) : Nat := (r.map fun x => x.half).getD 0

/-- PEA_CORE_STATE of a core. -/
def Core.stateWord (c : Core) : Word :=
  let r := match c.run with
    | some x => x.seq * 2 ^ 32 + x.pc % 4096 * 2 ^ 20 + x.half * 2 ^ 7
    | none => 0
  wd (r + halfIn c.slot1 * 2 ^ 6 + halfIn c.slot0 * 2 ^ 5 + b2n c.slot1.isSome * 2 ^ 4 + b2n c.slot0.isSome * 2 ^ 3
    + c.runState)

/-- The cart in a seat of a core changed. -/
def State.setSeat (s : State) (k : Nat) (seat : Seat) (r : PeaRun) : State :=
  s.setCore k ((s.core k).put (some r) seat)

/-! ## Entry (R206, R224) -/

/-- The half a new cart takes: the one that no saved cart of its core holds, else 0 (R206). -/
def Core.newHalf (c : Core) : Nat :=
  if [c.slot0, c.slot1].any fun r => r.any fun x => x.half = 0 then 1 else 0

/-- A cart as it enters a core (R224). -/
def entryRun (c : Cart) (core half : Nat) : PeaRun :=
  let lo := fun i => BitVec.ofNat 32 ((c.words.getD (2 + i) 0).toNat)
  let hi := fun i => BitVec.ofNat 32 ((c.words.getD (2 + i) 0).toNat / 2 ^ 32)
  let g := (List.range 6).foldl (fun t i => Tbl.put 0 (Tbl.put 0 t (2 * i) (lo i)) (2 * i + 1) (hi i)) []
  let g := Tbl.put 0 g 12 (BitVec.ofNat 32 c.seq)
  let g := Tbl.put 0 g 13 (BitVec.ofNat 32 (cartType c.words * 2 ^ 24 + cartPrio c.words * 2 ^ 20 + cartCoid c.words))
  let g := Tbl.put 0 g 14 (BitVec.ofNat 32 (core * 2 + half))
  { seq := c.seq, words := c.words, pkt := c.pkt, half := half, g := g, pc := cartFunc c.words }

/-- A cart starts on a core that runs none. -/
def State.startRun (s : State) (k q : Nat) : State :=
  match s.cart q with
  | none => s
  | some c =>
    let x := s.core k
    s.setCore k { x with run := some (entryRun c k x.newHalf), saving := none, submitting := false, stalled := false }

/-! ## Ends (R225, R227, R228) -/

/-- A PEA_FWD cart releases its packet's cells, once (R227). -/
def State.releaseRun (s : State) (r : PeaRun) : State × PeaRun :=
  if r.released || cartType r.words ≠ 0x02 then (s, r)
  else
    match r.pkt with
    | some id => (s.unhold id, { r with released := true })
    | none => (s, { r with released := true })

/-- A SUBMIT of a core that no producer's turn has taken yet is given up. -/
def State.dropSubmit (s : State) (k : Nat) : State :=
  let port := Tbl.at [] s.work.port (k / 16)
  let port := Tbl.put [] s.work.port (k / 16) (port.filter fun b => b.core ≠ k)
  { s with work := { s.work with port := port } }

/-- The running cart of a core ends: cells not yet released are, its waiting SUBMIT is given up, and a cart that waits
for the core starts, but not in a gap of the dispatcher (06 R201). -/
def State.endRun (s : State) (k status : Nat) (result : Word) : State :=
  let c := s.core k
  match c.run with
  | none => s
  | some r =>
    let s := (s.releaseRun r).1.dropSubmit k
    let s := s.setCore k { c with run := none, submitting := false, stalled := false }
    let s := s.endCart r.seq status result
    match c.saving with
    | some q => if s.work.gap = 0 then s.startRun k q else s
    | none => s

/-- A cart's transfers are in flight. -/
def PeaRun.moving (r : PeaRun) : Bool := r.chans.any fun e => e.2.active

/-- A cart that an exception ended leaves once its channels have finished or faulted (R228). -/
def State.finishEnd (s : State) (k : Nat) : State :=
  match (s.core k).run with
  | none => s
  | some r =>
    match r.ending with
    | none => s
    | some res => if r.moving then s else (s.inc F.PEA_CORE_EXC_CNT.CNT k).endRun k 1 res

/-- An exception: its code, and the offending address (R228, R229). -/
structure PeaExc where
  code : Nat
  addr : Nat := 0
  deriving DecidableEq, Repr

/-- RESULT of an exception (R228, 08 R265). -/
def excResult (e : PeaExc) (pc : Nat) : Word := wd (e.code * 2 ^ 56 + min pc 4095 * 2 ^ 32 + e.addr % 2 ^ 24)

/-- The running cart takes an exception. -/
def State.except (s : State) (k : Nat) (r : PeaRun) (e : PeaExc) : State :=
  let s := (s.dropSubmit k).setSeat k .run { r with ending := some (excResult e r.pc) }
  (s.setCore k { s.core k with submitting := false }).finishEnd k

/-! ## Parking (R188, R234) -/

/-- FLID of a save slot (R188). -/
def flidOf (core slot : Nat) : Nat := core * 2 + slot

/-- The running cart parks on a faulted channel. -/
def State.park (s : State) (k : Nat) (r : PeaRun) (ch : Nat) : State :=
  let c := s.core k
  match c.freeSlot with
  | none => s
  | some n =>
    let c := { c with run := none, stalled := false }
    let s := s.setCore k (c.put (some { r with parkedOn := some ch }) (slotSeat n))
    let s := s.modCart r.seq fun d => { d with st := .parked, slot := n }
    (s.inc F.WD_FAULT_CNT.CNT 0).wdNotice 1 (flidOf k n) r.seq

/-! ## Loops (R217 to R219, 08 R266 to R268) -/

/-- A kernel-only loop is active. -/
def hasKernel (ls : List PeaLoop) : Bool := ls.any fun l => 2 ≤ l.stages

/-- STG is 0 whenever no kernel-only loop is active (R219). -/
def PeaRun.tidyStg (r : PeaRun) : PeaRun := if hasKernel r.loops then r else { r with flags := withStg r.flags 0 }

/-- End of an iteration of the innermost active loop l: lc, ROT, STG; the loop ends or its body runs again (08 R266). -/
def PeaRun.endIteration (r : PeaRun) (l : PeaLoop) : PeaRun :=
  let lvl := r.loops.length - 1
  let n := Tbl.at 0 r.lc lvl - 1
  let stg := (stgOf r.flags * 2 + b2n (l.iter + 1 < l.count)) % 2 ^ l.stages
  let r := { r with
    lc := Tbl.put 0 r.lc lvl n
    rot := if l.rotate then (r.rot + 15) % 16 else r.rot
    flags := if 2 ≤ l.stages then withStg r.flags stg else r.flags }
  if n = 0 then ({ r with loops := r.loops.dropLast }).tidyStg
  else { r with loops := r.loops.dropLast ++ [{ l with iter := l.iter + 1 }], pc := l.first }

/-- The next bundle after one that did not transfer control: the end steps of the loops that end here, the inner one
first (08 R266, R267). -/
def PeaRun.advanceGo : Nat → PeaRun → PeaRun
  | 0, r => { r with pc := r.pc + 1 }
  | fuel + 1, r =>
    match r.loops.getLast? with
    | none => { r with pc := r.pc + 1 }
    | some l =>
      if r.pc = l.last then
        let t := r.endIteration l
        if t.loops.length < r.loops.length then PeaRun.advanceGo fuel t else t
      else { r with pc := r.pc + 1 }

/-- The bundle is done and does not transfer control. -/
def PeaRun.advance (r : PeaRun) : PeaRun := { (PeaRun.advanceGo 2 r) with fresh := false }

/-- A taken branch: loops whose body does not hold the target end (R218). -/
def PeaRun.branch (r : PeaRun) (tgt : Nat) : PeaRun :=
  ({ r with
    loops := r.loops.takeWhile fun l => l.first ≤ tgt && tgt ≤ l.last
    pc := tgt
    fresh := false }).tidyStg

/-- The bundle is the end bundle of an active loop. -/
def PeaRun.atEnd (r : PeaRun) : Bool := r.loops.any fun l => l.last = r.pc

/-! ## Issue -/

/-- The running cart of a core whose next bundle may issue: no pre-emption waits, no SUBMIT waits, no exception. -/
def State.issuable (s : State) (k : Nat) : Option PeaRun :=
  let c := s.core k
  match c.run with
  | none => none
  | some r => if c.saving.isSome || c.submitting || r.ending.isSome then none else some r

/-- The bundle at a cart's PC. -/
def State.bundle (s : State) (k : Nat) (r : PeaRun) : Word := Tbl.at 0 s.pea.prog (k * 4096 + r.pc)

/-- A bundle stalls: it has no effect and issues again. -/
def State.stall (s : State) (k : Nat) : State := s.setCore k { s.core k with stalled := true }

/-- The cart goes on with new registers. -/
def State.commit (s : State) (k : Nat) (r : PeaRun) : State :=
  s.setCore k { s.core k with run := some r, stalled := false }

/-- Issue the bundle at PC if it is one the command names; an encoding that R242 refuses raises ILLEGAL. -/
def State.issue (s : State) (k : Nat) (want : Word → Bool) (f : PeaRun → Word → State) : State :=
  match s.issuable k with
  | none => s
  | some r =>
    let w := s.bundle k r
    if 4096 ≤ r.pc || !want w then s
    else if !bundleLegal w then s.except k r ⟨1, 0⟩
    else f r w

end Sys2Proof.Machine
end

