-- ==== Sys2Proof/Machine/PeaBundle.lean ====
section
/-! DEFINITION. Standard, staged, long and branching bundles of the Pea cores (08 R241 to R268). -/

namespace Sys2Proof.Machine

/-! ## The compute slot (R253 to R258) -/

/-- A g-register result takes effect. -/
def PeaRun.putAlu (r : PeaRun) (d : Nat) (o : AluOut) : PeaRun :=
  let r := { r with flags := o.flags r.flags }
  if o.write then r.setPhys d o.val else r

/-- An accumulator result takes effect, with AOV (R212). -/
def PeaRun.putAcc (r : PeaRun) (i : Nat) (z : Int) : PeaRun :=
  let (v, o) := satAcc z
  ({ r with flags := stick r.flags flagAov o }).setAcc i v

/-- Shift of an accumulator by a signed amount (R255). -/
def accShift (a : Int) (sh : Int) (rnd : Bool) : Int :=
  if 0 ≤ sh then a * (2 ^ sh.toNat : Nat) else shiftRound a (-sh).toNat rnd

/-- A special register as it reads (R258, R268). -/
def PeaRun.special (r : PeaRun) (sel : Nat) : BitVec 32 :=
  match sel with
  | 0 => BitVec.ofNat 32 (if 0 < r.loops.length then Tbl.at 0 r.lc 0 else 0)
  | 1 => BitVec.ofNat 32 (if 1 < r.loops.length then Tbl.at 0 r.lc 1 else 0)
  | 2 => BitVec.ofNat 32 r.bx
  | 3 => BitVec.ofNat 32 r.rot
  | _ => r.flags

/-- A write of a special register (R258). -/
def PeaRun.setSpecial (r : PeaRun) (sel v : Nat) : PeaRun :=
  match sel with
  | 0 => { r with lc := Tbl.put 0 r.lc 0 (v % 2 ^ 16) }
  | 1 => { r with lc := Tbl.put 0 r.lc 1 (v % 2 ^ 16) }
  | 2 => { r with bx := v % 32 }
  | 3 => { r with rot := v % 16 }
  | _ => { r with flags := BitVec.ofNat 32 (setBits r.flags.toNat 0 6 v) }

/-- A write of the lc of an active kernel-only level, which raises LOOP (R258). -/
def lcRefused (r : PeaRun) (w : Word) : Bool :=
  (opcOf w = 0x53 || opcOf w = 0x55) && (match r.loops[bf w 47 5]? with
    | some l => decide (2 ≤ l.stages)
    | none => false)

/-- The compute operation of a bundle: operands are read from r0, results written to r. -/
def computeOp (r0 r : PeaRun) (w : Word) : PeaRun :=
  let op := opcOf w
  let d := gphys r0.rot (bf w 47 5)
  let a := r0.gr (bf w 42 5)
  let b := r0.gr (bf w 37 5)
  let ad := bf w 49 3
  let as := (r0.acc (bf w 46 3)).toInt
  let adv := (r0.acc ad).toInt
  let gn := bf w 41 5
  let rnd := bf w 40 1 = 1
  let fmt := bf w 38 2
  let imm10 := sext (bf w 32 10) 10
  let prod := product (bf w 36 3) (r0.gr (bf w 44 5)) (r0.gr (bf w 39 5)) (bf w 35 1 = 1) (bf w 34 1 = 1)
  if op = 0 then r
  else if op ≤ 0x1D then r.putAlu d (alu op a b (bf w 32 5))
  else match op with
  | 0x20 => r.putAlu d (alu op a b imm10)
  | 0x21 => r.putAlu d (alu op a b imm10)
  | 0x30 => r.setAcc ad 0
  | 0x31 => r.setAcc ad (r0.acc (bf w 46 3))
  | 0x32 => r.putAcc ad (adv + as)
  | 0x33 => r.putAcc ad (adv - as)
  | 0x34 => r.putAcc ad (-as)
  | 0x35 => r.putAcc ad (if as < 0 then -as else as)
  | 0x36 => r.putAcc ad (accShift as (sext (bf w 32 6) 6) rnd)
  | 0x37 => r.putAcc ad (accShift as (sext (r0.gr gn).toNat 7) rnd)
  | 0x38 =>
    let zn := setFlag (setFlag r.flags flagZ (decide (adv - as = 0))) flagN (decide (adv - as < 0))
    { r with flags := setFlag zn flagV false }
  | 0x39 =>
    let v : Int := if fmt = 0 then halfOf (r0.gr gn) false else (r0.gr gn).toInt
    r.setAcc ad (BitVec.ofInt 72 (v * (2 ^ fmtShift fmt : Nat)))
  | 0x3A =>
    let o := accStore (r0.acc (bf w 46 3)) (fmtShift fmt) (if fmt = 0 then 16 else 32) rnd
    ({ r with flags := stick r.flags flagSat o.2 }).setPhys (gphys r0.rot gn) (BitVec.ofInt 32 o.1)
  | 0x3B => r.setPhys (gphys r0.rot gn) (BitVec.ofNat 32 (headroom 72 as))
  | 0x40 => r.putAcc ad prod
  | 0x41 => r.putAcc ad (adv + prod)
  | 0x42 => r.putAcc ad (adv - prod)
  | 0x50 => r.setPtr (bf w 47 5) (a.setWidth 24)
  | 0x51 => r.setPhys d ((r0.ptr (bf w 42 5)).setWidth 32)
  | 0x52 => r.setPtr (bf w 47 5) (r0.ptr (bf w 47 5) + BitVec.ofInt 24 imm10)
  | 0x53 => r.setSpecial (bf w 47 5) a.toNat
  | 0x54 => r.setPhys d (r0.special (bf w 42 5))
  | 0x55 => r.setSpecial (bf w 47 5) (bf w 32 10)
  | _ => r

/-! ## Move slots (R246, R259, R260) -/

/-- Width in bytes of a move's access; 0 for none. -/
def moveWidth (w : Word) (lo : Nat) : Nat :=
  match mopOf w lo with
  | 1 => 2
  | 2 => 4
  | 3 => 2
  | 4 => 4
  | 5 => 2
  | 6 => 2
  | 7 => 4
  | 8 => if bf w (lo + 7) 1 = 1 then 4 else 2
  | 9 => if bf w (lo + 7) 1 = 1 then 4 else 2
  | _ => 0

/-- Pointer of a move slot. -/
def movePtr (w : Word) (lo : Nat) : Nat := bf w (lo + 9) 3

/-- The ADDR or ALIGN exception of a move (R208, R251; log 38). -/
def moveFault (k : Nat) (r : PeaRun) (w : Word) (lo : Nat) (ysel : Bool) : Option PeaExc :=
  let n := moveWidth w lo
  let a := (r.ptr (movePtr w lo)).toNat
  if n = 0 then none
  else match placeOf k r.half ysel a n with
    | none => some ⟨2, a⟩
    | some _ => if a % n ≠ 0 then some ⟨3, a⟩ else none

/-- The value a store writes, at its width, and whether it saturated (R259). -/
def storeValue (r : PeaRun) (w : Word) (lo : Nat) : Int × Bool :=
  let v := r.gr (bf w (lo + 4) 5)
  let mode := bf w (lo + 7) 2
  let acc := r.acc (bf w (lo + 4) 3)
  match mopOf w lo with
  | 3 => (halfOf v false, false)
  | 4 => (v.toInt, false)
  | 5 => satTo 16 v.toInt
  | 6 => (halfOf v false, false)
  | 7 => (v.toInt, false)
  | _ => if mode % 2 = 0 then accStore acc 48 16 (decide (mode < 2)) else accStore acc 32 32 (decide (mode < 2))

/-- A move of the slot at lo: operands and memory are read as they stood at issue (r0, p0). -/
def moveOp (k : Nat) (r0 : PeaRun) (p0 : Pea) (w : Word) (lo : Nat) (ysel : Bool) (rp : PeaRun × Pea) : PeaRun × Pea :=
  let (r, p) := rp
  let op := mopOf w lo
  let n := moveWidth w lo
  let i := movePtr w lo
  let step := fun x : PeaRun => if bf w (lo + 3) 1 = 1 then x.setPtr i (r0.stepped i) else x
  if op = 0 then rp
  else if n = 0 then (step r, p)
  else match placeOf k r0.half ysel (r0.ptr i).toNat n with
    | none => rp
    | some (sp, a) =>
      if op ≤ 2 then
        let v := ofLe (p0.load sp a n)
        (step (r.setPhys (gphys r0.rot (bf w (lo + 4) 5)) (BitVec.ofInt 32 (sext v (8 * n)))), p)
      else
        let (z, o) := storeValue r0 w lo
        let track := op = 6 || op = 7 || op = 9
        let r := { r with
          flags := stick r.flags flagSat o
          bx := if track then min r.bx (headroom (8 * n) z) else r.bx }
        (step r, p.store sp a (leBytes n (wrapInt z (8 * n))))

/-! ## Bundles of three slots (R241, R243, R249 to R251) -/

/-- A staged slot whose guard bit of STG is 0 is left out (R243). -/
def guardOn (r : PeaRun) (staged : Bool) (g : Nat) : Bool := !staged || bitAt (stgOf r.flags) g

/-- A standard or staged bundle: exceptions in the order of R251, then compute, X move, Y move. -/
def State.slots (s : State) (k : Nat) (staged : Bool) (r : PeaRun) (w : Word) : State :=
  let cOn := guardOn r staged (bf w 59 3)
  let xOn := guardOn r staged (bf w 16 3)
  let yOn := guardOn r staged (bf w 0 3)
  if cOn && lcRefused r w then s.except k r ⟨5, 0⟩
  else match if xOn then moveFault k r w 16 false else none with
  | some e => s.except k r e
  | none => match if yOn then moveFault k r w 0 true else none with
    | some e => s.except k r e
    | none =>
      let c := if cOn then computeOp r r w else r
      let x := if xOn then moveOp k r s.pea w 16 false (c, s.pea) else (c, s.pea)
      let y := if yOn then moveOp k r s.pea w 0 true x else x
      ({ s with pea := y.2 }).commit k y.1.advance

/-- The bundle is of a reserved long or control operation, which STANDARD_BUNDLE refuses. -/
def reservedOp (w : Word) : Bool :=
  (bf w 62 2 = 1 && (bf w 55 7 = 0 || 4 < bf w 55 7)) || (bf w 62 2 = 2 && 9 < bf w 56 6)

/-- STANDARD_BUNDLE: a bundle of form 0; also the fetch past bundle 4,095 and reserved operations (R223). -/
def execStandardBundle (core : Nat) (s : State) : Out :=
  s.whenClk fun s =>
    match s.issuable core with
    | none => s
    | some r =>
      if 4096 ≤ r.pc then s.except core r ⟨4, 0⟩
      else s.issue core (fun w => bf w 62 2 = 0 || reservedOp w) (s.slots core false)

/-- STAGED_BUNDLE: a bundle of form 3. -/
def execStagedBundle (core : Nat) (s : State) : Out :=
  s.whenClk fun s => s.issue core (fun w => bf w 62 2 = 3) (s.slots core true)

/-! ## Long bundles (R261) -/

/-- A long bundle: its operation on g register or pointer-unit register D, then the Y move. -/
def State.longBundle (s : State) (k : Nat) (f : PeaRun → Nat → BitVec 32 → PeaRun) (r : PeaRun) (w : Word) : State :=
  match moveFault k r w 0 true with
  | some e => s.except k r e
  | none =>
    let y := moveOp k r s.pea w 0 true (f r (bf w 50 5) (BitVec.ofNat 32 (bf w 16 32)), s.pea)
    ({ s with pea := y.2 }).commit k y.1.advance

/-- A long bundle of an operation. -/
def isLong (op : Nat) (w : Word) : Bool := bf w 62 2 = 1 && bf w 55 7 = op

/-- LDI: D = IMM32. -/
def execLdi (core : Nat) (s : State) : Out :=
  s.whenClk fun s => s.issue core (isLong 1) (s.longBundle core fun r d v => r.setPhys (gphys r.rot d) v)

/-- LDIP: pointer-unit register D = IMM32 [23:0]. -/
def execLdip (core : Nat) (s : State) : Out :=
  s.whenClk fun s => s.issue core (isLong 2) (s.longBundle core fun r d v => r.setPtr d (v.setWidth 24))

/-- ADDIL: D = D + IMM32. -/
def execAddil (core : Nat) (s : State) : Out :=
  s.whenClk fun s => s.issue core (isLong 3) (s.longBundle core fun r d v =>
    r.putAlu (gphys r.rot d) (addFlags (r.gr d) v))

/-- CMPIL: flags of D − IMM32. -/
def execCmpil (core : Nat) (s : State) : Out :=
  s.whenClk fun s => s.issue core (isLong 4) (s.longBundle core fun r d v =>
    r.putAlu (gphys r.rot d) { subFlags (r.gr d) v with write := false })

/-! ## Control bundles that stay in the core (R262 to R268) -/

/-- A control bundle of an operation. -/
def isControl (op : Nat) (w : Word) : Bool := bf w 62 2 = 2 && bf w 56 6 = op

/-- TGT of a control bundle. -/
def tgtOf (w : Word) : Nat := bf w 0 12

/-- NOP. -/
def execControlNop (core : Nat) (s : State) : Out :=
  s.whenClk fun s => s.issue core (isControl 0) fun r _ => s.commit core r.advance

/-- A bundle that transfers control: LOOP where it is the end bundle of a loop (R267). -/
def State.jump (s : State) (k : Nat) (f : PeaRun → Word → PeaRun) (r : PeaRun) (w : Word) : State :=
  if r.atEnd then s.except k r ⟨5, 0⟩ else s.commit k (f r w)

/-- BR: branch to TGT. -/
def execBr (core : Nat) (s : State) : Out :=
  s.whenClk fun s => s.issue core (isControl 1) (s.jump core fun r w => r.branch (tgtOf w))

/-- BRC: branch to TGT when COND holds. -/
def execBrc (core : Nat) (s : State) : Out :=
  s.whenClk fun s => s.issue core (isControl 2) (s.jump core fun r w =>
    if condHolds (bf w 52 4) r.flags then r.branch (tgtOf w) else r.advance)

/-- CALL: RA takes the index after the CALL; branch to TGT. -/
def execCall (core : Nat) (s : State) : Out :=
  s.whenClk fun s => s.issue core (isControl 3) (s.jump core fun r w =>
    (r.setPhys (gphys r.rot (bf w 46 5)) (BitVec.ofNat 32 (r.pc + 1))).branch (tgtOf w))

/-- JR: branch to RA [11:0]. -/
def execJr (core : Nat) (s : State) : Out :=
  s.whenClk fun s => s.issue core (isControl 4) (s.jump core fun r w => r.branch ((r.gr (bf w 46 5)).toNat % 4096))

/-- Count of a LOOP (R266). -/
def loopCount (r : PeaRun) (w : Word) : Nat :=
  if bf w 51 1 = 1 then (r.gr (bf w 46 5)).toNat % 65536 else bf w 16 16

/-- Stages of a LOOP. -/
def loopStages (w : Word) : Nat := bf w 52 3 + 1

/-- A LOOP that raises LOOP: two levels active, TGT at or before it, an iteration count past 65,535, a TGT beyond the
enclosing loop's, or a kernel-only loop around it (R218, R219, R267; log 38). -/
def loopRefused (r : PeaRun) (w : Word) : Bool :=
  2 ≤ r.loops.length || tgtOf w ≤ r.pc || 65535 < loopCount r w + loopStages w - 1
    || r.loops.any (fun l => l.last < tgtOf w) || hasKernel r.loops

/-- A LOOP starts a loop, or skips its body where the count is 0 (R218, R266). -/
def startLoop (r : PeaRun) (w : Word) : PeaRun :=
  let n := loopCount r w
  let st := loopStages w
  if n = 0 then r.branch (tgtOf w + 1)
  else
    { r with
      loops := r.loops ++ [{ first := r.pc + 1, last := tgtOf w, stages := st, rotate := bf w 55 1 = 1, count := n }]
      lc := Tbl.put 0 r.lc r.loops.length (n + st - 1)
      flags := if 2 ≤ st then withStg r.flags 1 else r.flags
      pc := r.pc + 1
      fresh := false }

/-- LOOP. -/
def execLoop (core : Nat) (s : State) : Out :=
  s.whenClk fun s => s.issue core (isControl 5) fun r w =>
    if loopRefused r w then s.except core r ⟨5, 0⟩ else s.jump core startLoop r w

end Sys2Proof.Machine
end

