-- ==== Sys2Proof/Machine/PeaDma.lean ====
section
/-! DEFINITION. What a Pea cart does outside its core (07 R225 to R239): EXIT, DMA, DWAIT, SUBMIT, the transfers of the
pod DMA engines, and the pod memory window. -/

namespace Sys2Proof.Machine

/-! ## EXIT (R225) -/

/-- The lowest channel of a cart that keeps a fault. -/
def PeaRun.faulted (r : PeaRun) : Option Nat :=
  firstBelow 4 fun ch => (Tbl.at {} r.chans ch).fault.isSome

/-- EXIT: once every channel is idle the cart ends; a faulted channel parks it. -/
def execExit (core : Nat) (s : State) : Out :=
  s.whenClkReady fun s => s.issue core (isControl 6) fun r w =>
    match r.faulted with
    | some ch => s.park core r ch
    | none =>
      if r.moving then s.stall core
      else s.endRun core (bf w 52 1) (wd ((r.gr 1).toNat * 2 ^ 32 + (r.gr 0).toNat))

/-! ## DMA and DWAIT (R230 to R235) -/

/-- Address RA + IMM16 of a DMA or SUBMIT bundle (08 R264). -/
def dmaAddr (r : PeaRun) (w : Word) : Nat := ((r.gr (bf w 46 5)).toNat + bf w 16 16) % 2 ^ 24

/-- The exception of a DMA or SUBMIT address: n bytes in the cart's X window, aligned to al (08 R264). -/
def dmaAddrFault (a n al : Nat) : Option PeaExc :=
  if 0x8000 < a + n then some ⟨2, a⟩ else if a % al ≠ 0 then some ⟨3, a⟩ else none

/-- KIND of a descriptor. -/
def dmaKind (d : List Word) : Nat := fld (d.getD 0 0) 60 4

/-- RELEASE of a descriptor. -/
def dmaRelease (d : List Word) : Bool := bitAt (d.getD 0 0).toNat 55

/-- LOCAL of a descriptor. -/
def dmaLocal (d : List Word) : Nat := fld (d.getD 0 0) 24 24

/-- YSEL of a descriptor. -/
def dmaY (d : List Word) : Bool := bitAt (d.getD 0 0).toNat 23

/-- LEN of a descriptor. -/
def dmaLen (d : List Word) : Nat := fld (d.getD 0 0) 0 20

/-- A field of REMOTE of a descriptor. -/
def dmaRemote (d : List Word) (lo len : Nat) : Nat := fld (d.getD 1 0) lo len

/-- HEAD_CELL of a cart's word 2 (04 R109). -/
def cartHead (ws : List Word) : Nat := fld (ws.getD 2 0) 31 19

/-- A descriptor is refused (R227, R231, R232; log 40). -/
def dmaRefused (k : Nat) (r : PeaRun) (d : List Word) : Bool :=
  let kind := dmaKind d
  let len := dmaLen d
  let badLocal := len < 4 || len % 4 ≠ 0 || dmaLocal d % 4 ≠ 0
    || (placeOf k r.half (dmaY d) (dmaLocal d) len).isNone
  let badPkt := cartType r.words ≠ 0x02 || dmaRemote d 0 19 ≠ cartHead r.words
  match kind with
  | 1 => badLocal
  | 2 => badLocal
  | 3 => badLocal || badPkt
  | 4 => badPkt
  | 5 => badLocal || 9170 < len || len < 12
  | 6 => badLocal || dmaRemote d 0 22 % 4 ≠ 0 || 4194304 < dmaRemote d 0 22 + len
  | 7 => badLocal || dmaRemote d 0 22 % 4 ≠ 0 || 4194304 < dmaRemote d 0 22 + len
  | _ => true

/-- A transfer is in flight on a channel of a core: the running cart's or a saved one's (R230; log 39). -/
def State.chanBusy (s : State) (k ch : Nat) : Bool := (s.core k).held.any fun r => (Tbl.at {} r.chans ch).active

/-- A channel of a cart replaced. -/
def PeaRun.setChan (r : PeaRun) (ch : Nat) (c : Chan) : PeaRun := { r with chans := Tbl.put {} r.chans ch c }

/-- DMA: issue a descriptor on channel CH. -/
def execDma (core : Nat) (s : State) : Out :=
  s.whenClkReady fun s => s.issue core (isControl 7) fun r w =>
    let a := dmaAddr r w
    let ch := bf w 52 2
    match dmaAddrFault a 32 8 with
    | some e => s.except core r e
    | none =>
      if (Tbl.at {} r.chans ch).fault.isSome then s.park core r ch
      else if s.chanBusy core ch then s.stall core
      else
        let d := bytesWords 3 (s.pea.load .x (core * 65536 + r.half * 32768 + a) 24)
        if dmaRefused core r d then s.except core r ⟨6, 0⟩
        else
          let c : Chan := { desc := d, active := true, domain := s.get F.PEA_POD_CFG.DOMAIN (core / 16) }
          s.commit core (r.setChan ch c).advance

/-- Status of a channel (R230, 12 R362). -/
def Chan.status (c : Chan) : BitVec 32 :=
  BitVec.ofNat 32 (b2n c.auth * 2 ^ 31 + b2n c.memErr * 2 ^ 30 + c.done % 2 ^ 20)

/-- DWAIT: once channel CH is idle RA takes its status; a fault parks the cart. -/
def execDwait (core : Nat) (s : State) : Out :=
  s.whenClkReady fun s => s.issue core (isControl 8) fun r w =>
    let ch := bf w 52 2
    let c := Tbl.at {} r.chans ch
    if c.fault.isSome then s.park core r ch
    else if c.active then s.stall core
    else s.commit core (r.setPhys (gphys r.rot (bf w 46 5)) c.status).advance

/-! ## SUBMIT (R226) -/

/-- SUBMIT: the cart goes to the pod's submit port, and the core waits for its sequence number. -/
def execSubmit (core : Nat) (s : State) : Out :=
  s.whenClk fun s => s.issue core (isControl 9) fun r w =>
    let a := dmaAddr r w
    match dmaAddrFault a 64 64 with
    | some e => s.except core r e
    | none =>
      let ws := bytesWords 8 (s.pea.load .x (core * 65536 + r.half * 32768 + a) 64)
      let q := Tbl.at [] s.work.port (core / 16)
      let dest := gphys r.rot (bf w 41 5)
      let s := { s with work := { s.work with port := Tbl.put [] s.work.port (core / 16) (q ++ [(⟨core, ws, dest⟩ : Submit)]) } }
      s.setCore core { s.core core with submitting := true, stalled := true }

/-! ## Transfers (R232 to R235) -/

/-- The seat whose cart has a transfer of a kind in flight on a channel. -/
def State.transfer (s : State) (k ch kind : Nat) : Option (Seat × PeaRun × Chan) :=
  [Seat.run, Seat.slot0, Seat.slot1].findSome? fun seat =>
    match (s.core k).at seat with
    | none => none
    | some r =>
      let c := Tbl.at {} r.chans ch
      if c.active && dmaKind c.desc = kind then some (seat, r, c) else none

/-- A transfer stops after n more bytes, with what it found; a cart that waited for it may end (R228). -/
def State.stopTransfer (s : State) (k ch : Nat) (seat : Seat) (r : PeaRun) (c : Chan) (n : Nat) : State :=
  let s := s.add F.PEA_POD_DMA_OCT_CNT.CNT (k / 16) n
  let c := { c with active := false, done := c.done + n, fault := if r.ending.isSome then none else c.fault }
  (s.setSeat k seat (r.setChan ch c)).finishEnd k

/-- Port HP3 to HP6, core, domain and stream of a pod's HBM transfers (12 R354, R375). -/
def dmaSrc (k ch domain : Nat) : Src := ⟨3 + k / 128, k, domain, 4 * k + ch⟩

/-- What a stopped HBM access leaves on its channel (R234, 12 R362). -/
def Chan.stopped (c : Chan) (stop : MemStop) (iova : Nat) (write : Bool) : Chan :=
  match stop with
  | .xlate => { c with fault := some (iova % 2 ^ 48, write) }
  | .memErr => { c with memErr := true }
  | _ => c

/-- An HBM transfer from bytes done on. -/
def State.hbmTransfer (s : State) (k ch : Nat) (write : Bool) : State :=
  match s.transfer k ch (if write then 2 else 1) with
  | none => s
  | some (seat, r, c) =>
    let iova := dmaRemote c.desc 0 48 + c.done
    let n := dmaLen c.desc - c.done
    match placeOf k r.half (dmaY c.desc) (dmaLocal c.desc) (dmaLen c.desc) with
    | none => s
    | some (sp, i) =>
      if write then
        let o := s.vwrite (dmaSrc k ch c.domain) iova (s.pea.load sp (i + c.done) n)
        if o.stop = .held then o.st
        else o.st.stopTransfer k ch seat r (c.stopped o.stop (iova + o.done) true) o.done
      else
        let o := s.vread (dmaSrc k ch c.domain) iova n
        if o.stop = .held then o.st
        else
          let t := { o.st with pea := o.st.pea.store sp (i + c.done) (o.bytes.take o.done) }
          t.stopTransfer k ch seat r (c.stopped o.stop (iova + o.done) false) o.done

/-- HBM_RD. -/
def execHbmRd (core ch : Nat) (s : State) : Out := s.whenClkReady fun s => s.hbmTransfer core ch false

/-- HBM_WR. -/
def execHbmWr (core ch : Nat) (s : State) : Out := s.whenClkReady fun s => s.hbmTransfer core ch true

/-- Bytes of a cart's stored frame and its AUTH_FAIL; free where the cart has released it (log 40). -/
def State.frameOf (s : State) (r : PeaRun) : List Byte × Bool × State :=
  match if r.released then none else r.pkt.bind s.pkt with
  | some p => (s.pktBytes p, p.is Tag.AUTH_FAIL, s)
  | none => (Config.releasedFrame s.freeCtr, bitAt (Config.free 6 s.freeCtr) 0, { s with freeCtr := s.freeCtr + 1 })

/-- PKT_RD: the stored frame from an offset on, to the frame's end; RELEASE gives up the cells. -/
def execPktRd (core ch : Nat) (s : State) : Out :=
  s.whenClk fun s =>
    match s.transfer core ch 3 with
    | none => s
    | some (seat, r, c) =>
      match placeOf core r.half (dmaY c.desc) (dmaLocal c.desc) (dmaLen c.desc) with
      | none => s
      | some (sp, i) =>
        let (frame, auth, s) := s.frameOf r
        let data := (frame.drop (dmaRemote c.desc 32 14)).take (dmaLen c.desc)
        let s := { s with pea := s.pea.store sp i data }
        let (s, r) := if dmaRelease c.desc then s.releaseRun r else (s, r)
        s.stopTransfer core ch seat r { c with auth := auth } data.length

/-- PKT_FREE: the cart's packet cells are released. -/
def execPktFree (core ch : Nat) (s : State) : Out :=
  s.whenClk fun s =>
    match s.transfer core ch 4 with
    | none => s
    | some (seat, r, c) =>
      let (s, r) := s.releaseRun r
      s.stopTransfer core ch seat r c 0

/-- Packets an injection queue holds (01 R21). -/
def injDepth : Nat := 256

/-- An RTP packet enters the injection queue of an ingress pipeline. -/
def State.injectPkt (s : State) (pipe : Nat) (i : Inj) : State :=
  { s with ing := { s.ing with injq := Tbl.put [] s.ing.injq pipe (Tbl.at [] s.ing.injq pipe ++ [i]) } }

/-- The injection queue of a pipeline is full. -/
def State.injFull (s : State) (pipe : Nat) : Bool := injDepth ≤ (Tbl.at [] s.ing.injq pipe).length

/-- INJECT: a full injection queue holds the transfer (R233). -/
def execInject (core ch : Nat) (s : State) : Out :=
  s.whenClk fun s =>
    match s.transfer core ch 5 with
    | none => s
    | some (seat, r, c) =>
      match placeOf core r.half (dmaY c.desc) (dmaLocal c.desc) (dmaLen c.desc) with
      | none => s
      | some (sp, i) =>
        let pipe := dmaRemote c.desc 20 3
        if s.injFull pipe then s
        else
          let rtp := s.pea.load sp i (dmaLen c.desc)
          let s := s.injectPkt pipe ⟨dmaRemote c.desc 0 20, rtp, c.desc.getD 2 0⟩
          s.stopTransfer core ch seat r c (dmaLen c.desc)

/-- Sample memory words as bytes (09 R271). -/
def sampleBytes (ws : List (BitVec 32)) : List Byte := ws.flatMap fun w => leBytes 4 w.toNat

/-- Words of a range of sample memory that hold an uncorrectable error, by their place in it. -/
def Mix.hurts (m : Mix) (a n : Nat) : List Nat := (List.range n).filter fun i => a + i ∈ m.bad

/-- A read of n words of sample memory. One that finds an uncorrectable error raises a Contained error, and reads a free
value in each word that holds one (R271; log 101). -/
def State.smemRead (s : State) (a n : Nat) : List (BitVec 32) × State :=
  let ws := Tbl.getList 0 s.mix.smem a n
  match s.mix.hurts a n with
  | [] => (ws, s)
  | i :: is =>
    let (d, s) := s.draw 61
    ((i :: is).foldl (fun ws j => ws.set j (BitVec.ofNat 32 (d / 2 ^ (32 * j)))) ws,
      s.raise false 3 8 0x02 0x7000 (wd (a + i)))

/-- Sample memory words from bytes, in ascending order; a word written whole holds no error. -/
def Mix.write (m : Mix) : Nat → List (BitVec 32) → Mix
  | _, [] => m
  | a, w :: ws => Mix.write { m with smem := Tbl.put 0 m.smem a w, bad := m.bad.filter fun b => b ≠ a } (a + 1) ws

/-- n 32-bit words from bytes. -/
def words32 : Nat → List Byte → List (BitVec 32)
  | 0, _ => []
  | n + 1, bs => BitVec.ofNat 32 (ofLe (slice bs 0 4)) :: words32 n (bs.drop 4)

/-- SMP_WR: local bytes to sample memory. -/
def execSmpWr (core ch : Nat) (s : State) : Out :=
  s.whenClk fun s =>
    match s.transfer core ch 6 with
    | none => s
    | some (seat, r, c) =>
      match placeOf core r.half (dmaY c.desc) (dmaLocal c.desc) (dmaLen c.desc) with
      | none => s
      | some (sp, i) =>
        let n := dmaLen c.desc
        let ws := words32 (n / 4) (s.pea.load sp i n)
        ({ s with mix := s.mix.write (dmaRemote c.desc 0 22 / 4) ws }).stopTransfer core ch seat r c n

/-- SMP_RD: sample memory to local bytes. -/
def execSmpRd (core ch : Nat) (s : State) : Out :=
  s.whenClk fun s =>
    match s.transfer core ch 7 with
    | none => s
    | some (seat, r, c) =>
      match placeOf core r.half (dmaY c.desc) (dmaLocal c.desc) (dmaLen c.desc) with
      | none => s
      | some (sp, i) =>
        let n := dmaLen c.desc
        let (ws, s) := s.smemRead (dmaRemote c.desc 0 22 / 4) (n / 4)
        ({ s with pea := s.pea.store sp i (sampleBytes ws) }).stopTransfer core ch seat r c n

/-! ## The pod memory window (R239) -/

/-- Bytes of a SPACE (R204). -/
def spaceBytes (sp : Nat) : Nat := if sp = 2 then 32768 else if sp = 3 then 1048576 else 65536

/-- Eight bytes of a memory of a core or its pod. -/
def State.podRead (s : State) (core sp a : Nat) : Word :=
  match sp with
  | 0 => wd (ofLe (s.pea.load .x (core * 65536 + a) 8))
  | 1 => wd (ofLe (s.pea.load .y (core * 65536 + a) 8))
  | 2 => Tbl.at 0 s.pea.prog (core * 4096 + a / 8)
  | _ => wd (ofLe (s.pea.load .shared (core / 16 * 2 ^ 20 + a) 8))

/-- Eight bytes written to a memory of a core or its pod. -/
def State.podWrite (s : State) (core sp a : Nat) (v : Word) : State :=
  let bs := leBytes 8 v.toNat
  match sp with
  | 0 => { s with pea := s.pea.store .x (core * 65536 + a) bs }
  | 1 => { s with pea := s.pea.store .y (core * 65536 + a) bs }
  | 2 => { s with pea := { s.pea with prog := Tbl.put 0 s.pea.prog (core * 4096 + a / 8) v } }
  | _ => { s with pea := s.pea.store .shared (core / 16 * 2 ^ 20 + a) bs }

/-- ADDR of the pod's window advances by 8 modulo the size of SPACE. -/
def State.podStep (s : State) (pod : Nat) : State :=
  let a := s.get F.PEA_POD_MEM_ADDR.ADDR pod / 8 * 8
  s.put F.PEA_POD_MEM_ADDR.ADDR pod ((a + 8) % spaceBytes (s.get F.PEA_POD_MEM_ADDR.SPACE pod))

/-- A write of PEA_POD_MEM_DATA: to X, Y or program memory of the named cores that have EN 0 and are IDLE. -/
def State.podStore (s : State) (pod : Nat) (v : Word) : State :=
  let sp := s.get F.PEA_POD_MEM_ADDR.SPACE pod
  let a := s.get F.PEA_POD_MEM_ADDR.ADDR pod / 8 * 8
  if spaceBytes sp ≤ a then (s.flag F.PEA_POD_MEM_STATUS.MEM_ERR pod true).podStep pod
  else if sp = 3 then ((s.podWrite (pod * 16) sp a v).flag F.PEA_POD_MEM_STATUS.MEM_ERR pod false).podStep pod
  else
    let named := (List.range 16).filter fun k => bitAt (s.get F.PEA_POD_MEM_ADDR.CORE_MASK pod) k
    let free := named.filter fun k =>
      !s.isSet F.PEA_CORE_CFG.EN (pod * 16 + k) && (s.core (pod * 16 + k)).runState = 0
    let t := free.foldl (fun u k => u.podWrite (pod * 16 + k) sp a v) s
    (t.flag F.PEA_POD_MEM_STATUS.MEM_ERR pod (free.length ≠ named.length)).podStep pod

/-- A read of PEA_POD_MEM_DATA. -/
def State.podLoad (s : State) (pod : Nat) : Word × State :=
  let sp := s.get F.PEA_POD_MEM_ADDR.SPACE pod
  let a := s.get F.PEA_POD_MEM_ADDR.ADDR pod / 8 * 8
  if spaceBytes sp ≤ a then (0, (s.flag F.PEA_POD_MEM_STATUS.MEM_ERR pod true).podStep pod)
  else (s.podRead (pod * 16 + s.get F.PEA_POD_MEM_ADDR.CORE pod) sp a, s.podStep pod)

/-- POD_MEM_DATA_ACCESS: a hart's write or read of PEA_POD_MEM_DATA. -/
def execPodMemDataAccess (hart pod : Nat) (write : Bool) (value : Word) (s : State) : Out :=
  s.whenClk fun s =>
    if write then s.podStore pod value
    else
      let (v, t) := s.podLoad pod
      t.respond hart v

end Sys2Proof.Machine
end

