-- ==== Sys2Proof/Machine/Dispatcher.lean ====
section
/-! DEFINITION. The Work Dispatcher's decisions (06 R170, R179 to R191, R195, R198): acceptance, dispatch, pre-emption,
the fault list, expiry, and the commands of WD_CMD. -/

namespace Sys2Proof.Machine

/-! ## Acceptance (R170) -/

/-- The cart of a producer leaves it. -/
def State.popProducer (s : State) (prod : Nat) : State :=
  if prod < 8 then s.setWork prod (s.workQueue prod).tail
  else if prod < 40 then
    let port := Tbl.put [] s.work.port (prod - 8) (Tbl.at [] s.work.port (prod - 8)).tail
    { s with work := { s.work with port := port } }
  else match s.mixTurn with
    | none => s
    | some e =>
      let m := s.mixEng e
      let m := { m with carts := m.carts.tail }
      { s with mix := { s.mix with engs := Tbl.put {} s.mix.engs e m, turn := e } }

/-- A SUBMIT completes: its register takes the sequence number (07 R226). -/
def State.submitDone (s : State) (b : Submit) (q : Nat) : State :=
  let c := s.core b.core
  match c.run with
  | none => s
  | some r =>
    s.setCore b.core { c with
      run := some (r.setPhys b.dest (BitVec.ofNat 32 q)).advance
      submitting := false
      stalled := false }

/-- Who submits through a producer. -/
def producerKind (prod : Nat) : Submitter := if prod < 8 then .forwarding else if prod < 40 then .pea else .voxotte

/-- One held hardware cart is accepted (R170). -/
def State.acceptNext (s : State) : State :=
  match s.nextProducer with
  | none => s
  | some p =>
    match s.headOf p with
    | none => s
    | some (ws, pkt) =>
      let q := s.work.seq
      let sub := (Tbl.at [] s.work.port (p - 8)).head?
      let s := s.popProducer p
      let s := { s with work := { s.work with turn := p } }
      let s := s.acceptCart (producerKind p) p ws pkt
      match if 8 ≤ p && p < 40 then sub else none with
      | some b => s.submitDone b q
      | none => s

/-- CART_ACCEPT. -/
def execCartAccept (s : State) : Out := s.whenClkReady fun s => if s.canAccept then s.acceptNext else s

/-! ## Dispatch (R180 to R184) -/

/-- a goes before b: the lower PRIO number, then the earlier sequence number (R182). -/
def before (a b : Cart) : Bool :=
  cartPrio a.words < cartPrio b.words || (cartPrio a.words = cartPrio b.words && seqEarlier a.seq b.seq)

/-- The cart that goes first among some. -/
def firstOf : List Cart → Option Cart
  | [] => none
  | c :: cs =>
    match firstOf cs with
    | none => some c
    | some d => some (if before d c then d else c)

/-- The core takes a new cart (R180, 07 R237). -/
def State.coreTakes (s : State) (k : Nat) (c : Cart) : Bool :=
  let x := s.core k
  s.isSet F.PEA_CORE_CFG.EN k && x.run.isNone && x.saving.isNone && x.freeSlot.isSome
    && [x.slot0, x.slot1].all fun o =>
      match o.bind fun r => s.cart r.seq with
      | none => true
      | some d => !((d.st = .suspended || d.st = .armed) && cartPrio d.words ≤ cartPrio c.words)

/-- Cores of a pod that run a cart. -/
def State.podRunning (s : State) (pod : Nat) : Nat :=
  ((List.range 16).filter fun i => (s.core (pod * 16 + i)).run.isSome).length

/-- The core that takes a Pea cart: in the pod with the fewest running cores, ties to the lowest pod, then the lowest
core (R181). -/
def State.pickCore (s : State) (c : Cart) : Option Nat :=
  let pods := (List.range 32).filter fun p =>
    bitAt (cartPods c.words) p && (List.range 16).any fun i => s.coreTakes (p * 16 + i) c
  let low := pods.foldl (fun m p => min m (s.podRunning p)) 17
  match pods.find? fun p => s.podRunning p = low with
  | none => none
  | some p => ((List.range 16).map fun i => p * 16 + i).find? fun k => s.coreTakes k c

/-- The saved cart that a core resumes: SUSPENDED or ARMED, on a core that runs none (R180). -/
def State.resumable (s : State) (k : Nat) : Option Cart :=
  let x := s.core k
  if x.run.isSome || x.saving.isSome then none
  else firstOf ((([x.slot0, x.slot1].filterMap id).filterMap fun r => s.cart r.seq).filter fun d =>
    d.st = .suspended || d.st = .armed)

/-- What a dispatch can do. -/
inductive Action where
  | fence (c : Cart)
  | start (c : Cart) (core : Nat)
  | resume (c : Cart) (core : Nat)
  | engine (c : Cart) (eng : Nat)
  deriving DecidableEq, Repr

/-- The cart of an action. -/
def Action.cart : Action → Cart
  | .fence c => c
  | .start c _ => c
  | .resume c _ => c
  | .engine c _ => c

/-- Candidates with a target able to take them (R182). -/
def State.candidates (s : State) : List Action :=
  let ready := s.work.store.filter fun c => c.st = .ready
  let pea := ready.filterMap fun c =>
    if cartType c.words = 0x40 then some (Action.fence c)
    else if isPeaType (cartType c.words) then (s.pickCore c).map fun k => Action.start c k
    else none
  let res := s.pea.cores.filterMap fun e => (s.resumable e.1).map fun c => Action.resume c e.1
  let eng := (List.range 16).filterMap fun p =>
    match s.idleEngine p, s.poolCandidate p with
    | some e, some c => some (Action.engine c e)
    | _, _ => none
  pea ++ res ++ eng

/-- The action that goes first. -/
def firstAction : List Action → Option Action
  | [] => none
  | a :: as =>
    match firstAction as with
    | none => some a
    | some b => some (if before b.cart a.cart then b else a)

/-- The ready Pea cart that goes first among those no core takes. -/
def State.unplaced (s : State) : Option Cart :=
  firstOf (s.work.store.filter fun c => c.st = .ready && isPeaType (cartType c.words) && (s.pickCore c).isNone)

/-- The running cart of a core may be pre-empted for another (R186, R187, 07 R237). -/
def State.victimOn (s : State) (k : Nat) : Option Cart :=
  let x := s.core k
  match x.run with
  | none => none
  | some r =>
    if x.saving.isSome || r.fresh || x.slot0.isSome || x.slot1.isSome || !s.isSet F.PEA_CORE_CFG.EN k then none
    else match s.cart r.seq with
      | none => none
      | some d =>
        if cartNopre d.words || cartPrio d.words < s.get F.WD_CFG.PRE_LEVEL 0 then none else some d

/-- The victim: the highest PRIO number, then the later sequence number, then the lowest core (R186). -/
def lastVictim : List (Nat × Cart) → Option (Nat × Cart)
  | [] => none
  | v :: vs =>
    match lastVictim vs with
    | none => some v
    | some w => some (if before v.2 w.2 then w else v)

/-- The core to pre-empt for a cart. -/
def State.victim (s : State) (c : Cart) : Option Nat :=
  (lastVictim ((List.range 512).filterMap fun k =>
    if bitAt (cartPods c.words) (k / 16) then (s.victimOn k).map fun d => (k, d) else none)).map fun v => v.1

/-- A ready cart starts on a core or engine. -/
def State.startOn (s : State) (c : Cart) (k : Nat) : State :=
  (s.modCart c.seq fun d => { d with st := .running, unit := k, ran := true, started := s.clock }).inc
    F.WD_DISPATCH_CNT.CNT 0

/-- The saved cart of a core resumes: its slot empties, and the channel whose fault parked it goes on (R180, R189,
07 R235). -/
def State.resumeOn (s : State) (c : Cart) (k : Nat) : State :=
  let x := s.core k
  let seat := slotSeat c.slot
  match x.at seat with
  | none => s
  | some r =>
    let r' := match r.parkedOn with
      | none => r
      | some ch =>
        let h : Chan := Tbl.at {} r.chans ch
        { (r.setChan ch { h with fault := none, active := true }) with parkedOn := none }
    let r' := { r' with fresh := decide (c.st = .suspended) }
    let y := x.put none seat
    let s := s.setCore k { y with run := some r' }
    let s := (s.modCart c.seq fun d => { d with st := .running }).inc F.WD_RESUME_CNT.CNT 0
    if r.bad then s.except k r' ⟨7, 0⟩ else s

/-- Carry out a dispatch. -/
def State.carryOut (s : State) : Action → State
  | .fence c => (s.inc F.WD_DISPATCH_CNT.CNT 0).endCart c.seq 0 0
  | .start c k => (s.startOn c k).startRun k c.seq
  | .resume c k => s.resumeOn c k
  | .engine c e => s.startOn c e

/-- A pre-emption begins: the victim's core is asked to yield, and the cart has its core (R186). -/
def State.preempt (s : State) (c : Cart) (k : Nat) : State :=
  let s := (s.startOn c k).inc F.WD_PREEMPT_CNT.CNT 0
  s.setCore k { s.core k with saving := some c.seq }

/-- One dispatch (R182, R183, R186). -/
def State.dispatchOne (s : State) : State :=
  let best := firstAction s.candidates
  let lone := match s.unplaced with
    | none => none
    | some c =>
      if cartPrio c.words < s.get F.WD_CFG.PRE_LEVEL 0 && (best.all fun a => before c a.cart) then
        (s.victim c).map fun k => (c, k)
      else none
  match lone with
  | some (c, k) => s.preempt c k
  | none => match best with
    | some a => s.carryOut a
    | none => s

/-- DISPATCH: nothing is dispatched in a gap (R201). -/
def execDispatch (s : State) : Out := s.whenClk fun s => if s.work.gap = 0 then s.dispatchOne else s

/-- The victim's state goes to a save slot and the waiting cart starts; a SUBMIT not yet accepted is abandoned (07 R236).
On a core that the victim has left, the waiting cart starts. -/
def State.preemptSave (s : State) (k : Nat) : State :=
  let x := s.core k
  match x.run, x.saving, x.freeSlot with
  | some r, some q, some n =>
    if r.ending.isSome then s
    else
      let s := s.dropSubmit k
      let y := ({ x with run := none, submitting := false, stalled := false }).put (some r) (slotSeat n)
      let s := (s.setCore k y).modCart r.seq fun d => { d with st := .suspended, slot := n }
      s.startRun k q
  | none, some q, _ => s.startRun k q
  | _, _, _ => s

/-- PREEMPT_SAVE: no cart starts in a gap (R201). -/
def execPreemptSave (core : Nat) (s : State) : Out :=
  s.whenClk fun s => if s.work.gap = 0 then s.preemptSave core else s

/-! ## Ends of saved carts (R190, R195) -/

/-- The slot of a parked or armed cart is emptied, with the release of 07 R227. -/
def State.emptySlot (s : State) (c : Cart) : State :=
  let x := s.core c.unit
  let seat := slotSeat c.slot
  match x.at seat with
  | none => s
  | some r => (s.releaseRun r).1.setCore c.unit (x.put none seat)

/-- CART_EXPIRE: a waiting, ready, parked or armed cart at the expiry age ends EXPIRED (R195). -/
def execCartExpire (seq : Nat) (s : State) : Out :=
  s.whenClk fun s =>
    match s.cart seq with
    | none => s
    | some c =>
      if s.age c < expiryAge then s
      else if c.idle then (s.endCart seq 4 0).inc F.WD_EXPIRE_CNT.CNT 0
      else if c.st = .parked || c.st = .armed then
        ((s.emptySlot c).endCart seq 4 0).inc F.WD_EXPIRE_CNT.CNT 0
      else s

/-! ## Commands (R198, R199) -/

/-- The cart in the save slot of a FLID, parked or armed, and its state on the core. -/
def State.faultEntry (s : State) (flid : Nat) : Option (Cart × PeaRun) :=
  match (s.core (flid / 2)).at (slotSeat (flid % 2)) with
  | none => none
  | some r => match s.cart r.seq with
    | none => none
    | some c => if c.st = .parked || c.st = .armed then some (c, r) else none

/-- WD_DATA words written. -/
def State.putWdData (s : State) (ws : List Word) : State :=
  ws.zipIdx.foldl (fun t e => t.setReg .WD_DATA e.2 e.1) s

/-- COACH_WRITE: the failures, then the new record; writes of coach 0 change nothing (R176, R198). -/
def State.coachWrite (s : State) (coid : Nat) : Nat × State :=
  let v := s.reg .WD_DATA 0
  let old := s.coachRec coid
  if coachMode v = 3 || fld v 0 55 ≠ 0 then (4, s)
  else if coid = 0 then (0, s)
  else if (coachMode v ≠ coachMode old || coachMaxpar v ≠ coachMaxpar old) && s.coachCarts coid ≠ [] then (1, s)
  else
    let s := { s with work := { s.work with coach := Tbl.put (wd (2 ^ 55)) s.work.coach coid v } }
    (0, s.stepCoach coid)

/-- COACH_READ: record and counts; where the coach holds no cart, the earliest number is free (log 41). -/
def State.coachRead (s : State) (coid : Nat) : State :=
  let cs := s.coachCarts coid
  let n := fun p : Cart → Bool => (cs.filter p).length
  let (first, s) := match cs with
    | c :: _ => (c.seq, s)
    | [] => let (v, s) := s.draw 7; (v % 2 ^ 32, s)
  s.putWdData [s.coachRec coid, wd (first * 2 ^ 32 + n Cart.idle),
    wd (n Cart.active * 2 ^ 32 + n fun c => c.st = .ended)]

/-- COACH_CANCEL: every waiting and ready cart of the coach ends CANCELLED at once (R199). -/
def State.coachCancel (s : State) (coid : Nat) : State :=
  let t := ((s.coachCarts coid).filter Cart.idle).foldl
    (fun t c => (t.closeCart c 3 0).inc F.WD_CANCEL_CNT.CNT 0) s
  t.stepCoach coid

/-- FLT_READ of an entry; the words of a free FLID are free but for DATA0 [63] (log 41). -/
def State.fltRead (s : State) (flid : Nat) : State :=
  match s.faultEntry flid with
  | none =>
    let (a, s) := s.draw 7
    let (b, s) := s.draw 7
    let (c, s) := s.draw 7
    s.putWdData [setFld (wd a) 63 1 0, wd b, wd c]
  | some (c, r) =>
    let h : Chan := Tbl.at {} r.chans (r.parkedOn.getD 0)
    let (iova, wr) := h.fault.getD (0, false)
    s.putWdData [wd (2 ^ 63 + b2n (decide (c.st = .armed)) * 2 ^ 62 + cartCoid c.words * 2 ^ 40
        + cartPrio c.words * 2 ^ 36 + c.seq),
      wd (b2n wr * 2 ^ 63 + h.domain * 2 ^ 48 + iova), wd (r.pc % 4096)]

/-- FLT_REARM: a parked cart becomes armed (R189). -/
def State.fltRearm (s : State) (flid : Nat) : Nat × State :=
  match s.faultEntry flid with
  | some (c, _) =>
    if c.st = .parked then (0, s.modCart c.seq fun d => { d with st := .armed }) else (2, s)
  | none => (2, s)

/-- FLT_CANCEL: a parked or armed cart ends CANCELLED and frees its slot (R190). -/
def State.fltCancel (s : State) (flid : Nat) : Nat × State :=
  match s.faultEntry flid with
  | some (c, _) => (0, ((s.emptySlot c).endCart c.seq 3 0).inc F.WD_CANCEL_CNT.CNT 0)
  | none => (2, s)

/-- WD_CMD with GO 1: the effect of OP on INDEX and the result. -/
def State.wdCommand (s : State) (op index : Nat) : State :=
  let s := (s.put F.WD_CMD.OP 0 op).put F.WD_CMD.INDEX 0 index
  let flid := index % 1024
  let (r, t) : Nat × State := match op with
    | 1 => s.coachWrite index
    | 2 => (0, s.coachRead index)
    | 3 => (0, s.coachCancel index)
    | 4 => (0, s.fltRead flid)
    | 5 => s.fltRearm flid
    | 6 => s.fltCancel flid
    | _ => (3, s)
  t.put F.WD_STATUS.RESULT 0 r

/-- COACH_WRITE: OP 1. -/
def execCoachWrite (index : Nat) (s : State) : Out := s.whenClk fun s => s.wdCommand 1 index

/-- COACH_READ: OP 2. -/
def execCoachRead (index : Nat) (s : State) : Out := s.whenClk fun s => s.wdCommand 2 index

/-- COACH_CANCEL: OP 3. -/
def execCoachCancel (index : Nat) (s : State) : Out := s.whenClk fun s => s.wdCommand 3 index

/-- FLT_READ: OP 4. -/
def execFltRead (index : Nat) (s : State) : Out := s.whenClk fun s => s.wdCommand 4 index

/-- FLT_REARM: OP 5. -/
def execFltRearm (index : Nat) (s : State) : Out := s.whenClk fun s => s.wdCommand 5 index

/-- FLT_CANCEL: OP 6. -/
def execFltCancel (index : Nat) (s : State) : Out := s.whenClk fun s => s.wdCommand 6 index

/-! ## Counters of cycles -/

/-- Cycles of CLK_PEA in one CLK_TIME cycle that begins at clock n. -/
def peaCycles (n : Nat) : Nat := (n + 1) * 3 / 2 - n * 3 / 2

/-- A core's busy and stalled cycles. -/
def State.coreCycles (s : State) (d k : Nat) (c : Core) : State :=
  if c.run.isSome then
    let s := s.add F.PEA_CORE_BUSY_CNT.CNT k d
    if c.stalled then s.add F.PEA_CORE_STALL_CNT.CNT k d else s
  else s

/-- An INJECT of a core of a pod waits on a full injection queue (07 R233). -/
def State.injHeld (s : State) (pod : Nat) : Bool :=
  s.pea.cores.any fun e => e.1 / 16 = pod && e.2.held.any fun r => r.chans.any fun h =>
    h.2.active && dmaKind h.2.desc = 5 && s.injFull (dmaRemote h.2.desc 20 3)

/-- The counters of CLK_PEA cycles over one CLK_TIME cycle (06, 07; log 42). -/
def State.countCycles (s : State) : State :=
  if s.err.clkStopped then s
  else
    let d := peaCycles s.clock
    let t := s.pea.cores.foldl (fun u e => u.coreCycles d e.1 e.2) s
    let t := s.work.port.foldl (fun u e => if e.2 = [] then u else u.add F.PEA_POD_SUBMIT_HOLD_CNT.CNT e.1 d) t
    let t := (List.range 32).foldl (fun u p => if s.injHeld p then u.add F.PEA_POD_INJ_HOLD_CNT.CNT p d else u) t
    if s.hardwareHeld then t.add F.WD_HW_HOLD_CNT.CNT 0 d else t

end Sys2Proof.Machine
end

