-- ==== Sys2Proof/Machine/Time.lean ====
section
/-! DEFINITION. The Time Unit (13): the CLK_TIME cycle, frequency lock, setting, slewing, latches, inputs, outputs,
transmit stamps. -/

namespace Sys2Proof.Machine

/-! ## One CLK_TIME cycle -/

/-- RATE_ADJ of a time base, signed. -/
def State.rateAdj (s : State) (t : Nat) : Int := sext (s.get F.TIM_TB_RATE.RATE_ADJ t) 40

/-- The time base that t follows, where SRC is FOLLOW. -/
def State.followed (s : State) (t : Nat) : Option Nat :=
  if s.get F.TIM_TB_CFG.SRC t = 3 then some (s.get F.TIM_TB_CFG.FOLLOW t) else none

/-- Whether n FOLLOW links from u lead to t. -/
def State.followsTo (s : State) (t : Nat) : Nat → Nat → Bool
  | 0, _ => false
  | n + 1, u =>
    match s.followed u with
    | none => false
    | some v => v = t || s.followsTo t n v

/-- A time base whose chain of FOLLOW links returns to itself copies nothing (R383). -/
def State.inLoop (s : State) (t : Nat) : Bool := s.followsTo t 8 t

/-- RATE_ADJ of a time base after one cycle: FOLLOW copies the previous cycle's value (R382). -/
def State.nextRate (s : State) (t : Nat) : Nat :=
  match s.followed t with
  | none => s.get F.TIM_TB_RATE.RATE_ADJ t
  | some u => if s.inLoop t then s.get F.TIM_TB_RATE.RATE_ADJ t else s.get F.TIM_TB_RATE.RATE_ADJ u

/-- The extra rate while an offset remains: the slew rate toward it, or the remainder in the last cycle (R387). -/
def slewExtra (rem rate : Int) : Int :=
  let e := if 0 < rem then rate else -rate
  if rem.natAbs < e.natAbs then rem else e

/-- The effective rate of a time base in this cycle (R387). -/
def effectiveRate (adj rem rate : Int) : Int :=
  if rem = 0 then adj else clampInt (adj + slewExtra rem rate) (-2 ^ 39) (2 ^ 39 - 1)

/-- One cycle of a time base at effective rate r (R381). -/
def TBase.advance (b : TBase) (r : Int) : TBase :=
  let f := ((b.f + 2 ^ 48 : Nat) + r).toNat
  if 1000000000 * 2 ^ 48 ≤ f then
    { b with sec := (b.sec + 1) % 2 ^ 48, f := f - 1000000000 * 2 ^ 48 }
  else { b with f := f }

/-- Time base t after the cycle (R381, R387). -/
def State.nextTb (s : State) (t : Nat) : TBase :=
  let b := s.tb t
  let adj := s.rateAdj t
  let r := effectiveRate adj b.rem (s.get F.TIM_TB_SLEW_RATE.RATE t)
  { b.advance r with rem := if b.rem = 0 then 0 else b.rem - (r - adj) }

/-- One cycle of time base t of the state s0 of the cycle's start, applied to s. -/
def State.tickTb (s0 s : State) (t : Nat) : State :=
  let s := (s.setTb t (s0.nextTb t)).put F.TIM_TB_RATE.RATE_ADJ t (s0.nextRate t)
  if (s0.tb t).rem ≠ 0 && (s0.nextTb t).rem = 0 then
    let s := s.flag F.TIM_TB_STATUS.SLEWING t false
    { s with tim := { s.tim with slewDone := Tbl.put 0 s.tim.slewDone t ((s0.nextTb t).total + 1) } }
  else s

/-- One CLK_TIME cycle: what step does on an empty queue (log 1). Nothing moves in full reset, halted, or without the
core reference. -/
def State.tick (s : State) : State :=
  if s.live && s.rst.refclk then
    let t := (List.range 8).foldl (fun u i => s.tickTb u i) s
    { t with clock := s.clock + 1 }
  else s

/-! ## Notices -/

/-- A notice of the Time Unit whose V2 and V3 are a time (R400, 14 R408). -/
def State.timeNotice (s : State) (queue code unit : Nat) (x : Nat) : State :=
  let (sec, ns, fr) := ofTotal x
  s.post2 11 queue code unit 0 0 sec (ns * 65536 + fr)

/-- A notice of a time base, if its NOTICE_EN is 1. -/
def State.tbNotice (s : State) (t code x : Nat) : State :=
  if s.isSet F.TIM_TB_CFG.NOTICE_EN t then s.timeNotice (s.get F.TIM_TB_CFG.EVQ t) code t x else s

/-- A notice of a time base that carries RATE_ADJ. -/
def State.rateNotice (s : State) (t code : Nat) : State :=
  if s.isSet F.TIM_TB_CFG.NOTICE_EN t then
    s.post1 11 (s.get F.TIM_TB_CFG.EVQ t) code t 0 (wrapInt (s.rateAdj t) 64)
  else s

/-- A notice of an input, if its NOTICE_EN is 1. -/
def State.inNotice (s : State) (i code x : Nat) : State :=
  if s.isSet F.TIM_IN_CFG.NOTICE_EN i then s.timeNotice (s.get F.TIM_IN_CFG.EVQ i) code i x else s

/-! ## Frequency lock (R382, R383) -/

/-- Block lock of a SerDes group. -/
def State.locked (s : State) (g : Nat) : Bool := Tbl.at false s.tim.blockLock g

/-- The source of a time base becomes lost: RATE_ADJ is held, SRC_LOST set, LOCKED cleared (R383). -/
def State.loseSource (s : State) (t : Nat) : State :=
  let s := { s with tim := { s.tim with
    gateRun := Tbl.put 0 s.tim.gateRun t 0, lockRun := Tbl.put 0 s.tim.lockRun t 0 } }
  let s := s.flag F.TIM_TB_STATUS.LOCKED t false
  if s.isSet F.TIM_TB_STATUS.SRC_LOST t then s
  else ((s.flag F.TIM_TB_STATUS.SRC_LOST t true).inc F.TIM_TB_SRC_LOST_CNT.CNT t).rateNotice t 5

/-- A gate finds a lost source present; the eighth in a row clears SRC_LOST and updates resume with the next. -/
def State.regainSource (s : State) (t : Nat) : State :=
  let n := Tbl.at 0 s.tim.gateRun t + 1
  if n < 8 then { s with tim := { s.tim with gateRun := Tbl.put 0 s.tim.gateRun t n } }
  else
    let s := { s with tim := { s.tim with gateRun := Tbl.put 0 s.tim.gateRun t 0 } }
    (s.flag F.TIM_TB_STATUS.SRC_LOST t false).rateNotice t 6

/-- A first-order step of gain 2^−k toward the measured error; an inexact step is rounded either way (log 13). -/
def lockStep (diff : Int) (k : Nat) : Int :=
  diff / (2 ^ k : Nat) + (if diff % (2 ^ k : Nat) = 0 then 0 else b2n (Config.lockRoundUp diff k))

/-- One update of RATE_ADJ and LOCKED (R382). -/
def State.lockUpdate (s : State) (t : Nat) (measured : Int) : State :=
  let st := lockStep (measured - s.rateAdj t) (s.get F.TIM_TB_CFG.K t)
  let n := if st.natAbs < 2 ^ 20 then min 64 (Tbl.at 0 s.tim.lockRun t + 1) else 0
  let s := s.put F.TIM_TB_RATE.RATE_ADJ t (wrapInt (s.rateAdj t + st) 40)
  let s := { s with tim := { s.tim with lockRun := Tbl.put 0 s.tim.lockRun t n } }
  s.flag F.TIM_TB_STATUS.LOCKED t (n = 64)

/-- RATE_LOCK_UPDATE: a 1 ms gate of a hardware-sourced time base; edges is REF10M_IN's count in the gate, measured the
reference's fractional frequency error in 2^−48. -/
def execRateLockUpdate (tb edges : Nat) (measured : Int) (s : State) : Out :=
  s.whenLive fun s =>
    let src := s.get F.TIM_TB_CFG.SRC tb
    if src = 1 || src = 2 then
      let present := if src = 1 then decide (9990 ≤ edges ∧ edges ≤ 10010) else s.locked (s.get F.TIM_TB_CFG.GRP tb)
      if !present then s.loseSource tb
      else if s.isSet F.TIM_TB_STATUS.SRC_LOST tb then s.regainSource tb
      else s.lockUpdate tb measured
    else s

/-- BLOCK_LOCK: a group gains or loses block lock; a recovered clock in use is lost with it (R383). -/
def execBlockLock (group : Nat) (locked : Bool) (s : State) : Out :=
  s.whenLive fun s =>
    let s := { s with tim := { s.tim with blockLock := Tbl.put false s.tim.blockLock group locked } }
    if locked then s
    else (List.range 8).foldl (fun u t =>
      if u.get F.TIM_TB_CFG.SRC t = 2 && u.get F.TIM_TB_CFG.GRP t = group then u.loseSource t else u) s

/-- A write of TIM_TB_CFG: RATE_ADJ stays; a change of source, GRP being part of it with SRC 2 alone, starts the lock anew,
and SERDES on a group with no block lock is lost at once (R383, R384) (log 18). -/
def State.tbCfg (s : State) (t : Nat) (v : Word) : State :=
  let same := fld v 5 2 = s.get F.TIM_TB_CFG.SRC t && (fld v 5 2 ≠ 2 || fld v 0 5 = s.get F.TIM_TB_CFG.GRP t)
  let s := s.setReg .TIM_TB_CFG t (mergeWrite .TIM_TB_CFG (s.reg .TIM_TB_CFG t) v)
  if same then s
  else
    let s := { s with tim := { s.tim with
      gateRun := Tbl.put 0 s.tim.gateRun t 0, lockRun := Tbl.put 0 s.tim.lockRun t 0 } }
    let s := (s.flag F.TIM_TB_STATUS.LOCKED t false).flag F.TIM_TB_STATUS.SRC_LOST t false
    if fld v 5 2 = 2 && !s.locked (fld v 0 5) then s.loseSource t else s

/-! ## Setting (R385) -/

/-- A time base takes its SET value, plus quarters of 0.25 ns since the edge. -/
def State.takeSet (s : State) (t quarters : Nat) : State :=
  let f := s.get F.TIM_TB_SET_NS.NS t * 2 ^ 48 + s.get F.TIM_TB_SET_NS.FRAC t * 2 ^ 32 + quarters * 2 ^ 46
  let sec := s.get F.TIM_TB_SET_SEC.SEC t
  let b : TBase :=
    if 1000000000 * 2 ^ 48 ≤ f then { sec := (sec + 1) % 2 ^ 48, f := f - 1000000000 * 2 ^ 48 }
    else { sec := sec, f := f }
  let s := s.setTb t { b with rem := (s.tb t).rem }
  let s := (s.flag F.TIM_TB_STATUS.SET_DONE t true).put F.TIM_TB_STATUS.RESULT t 0
  let s := s.flag F.TIM_TB_CMD.GO t false
  s.tbNotice t 8 b.total

/-- A PPS input that can set a time base: enabled and not LOST. -/
def State.ppsUsable (s : State) (i : Nat) : Bool :=
  s.get F.TIM_IN_CFG.EDGE i ≠ 0 && !s.isSet F.TIM_IN_STATUS.LOST i

/-- Why a SET is refused: BAD_OP 4, ALREADY_SET 1, BAD_FIELD 3, NO_PPS 2, in that order; 0 if it is not. -/
def State.setRefusal (s : State) (t op : Nat) : Nat :=
  if op = 0 || 3 < op then 4
  else if s.isSet F.TIM_TB_STATUS.SET_DONE t then 1
  else if 1000000000 ≤ s.get F.TIM_TB_SET_NS.NS t then 3
  else if op ≠ 1 && !s.ppsUsable (op - 2) then 2
  else 0

/-- TIM_TB_CMD with GO 1 and OP (R385). A write while GO reads 1 is ignored. -/
def State.timCommand (s : State) (t op : Nat) : State :=
  if s.isSet F.TIM_TB_CMD.GO t then s
  else
    let s := s.put F.TIM_TB_CMD.OP t op
    let r := s.setRefusal t op
    if r ≠ 0 then s.put F.TIM_TB_STATUS.RESULT t r
    else if op = 1 then s.takeSet t 0
    else s.flag F.TIM_TB_CMD.GO t true

/-- SET_NOW: TIM_TB_CMD with OP 1. -/
def execSetNow (tb : Nat) (s : State) : Out := s.whenLive fun s => s.timCommand tb 1

/-- SET_AT_PPS0: TIM_TB_CMD with OP 2. -/
def execSetAtPps0 (tb : Nat) (s : State) : Out := s.whenLive fun s => s.timCommand tb 2

/-- SET_AT_PPS1: TIM_TB_CMD with OP 3. -/
def execSetAtPps1 (tb : Nat) (s : State) : Out := s.whenLive fun s => s.timCommand tb 3

/-- Time bases whose SET waits for PPS input i. -/
def State.awaitsPps (s : State) (i t : Nat) : Bool :=
  s.isSet F.TIM_TB_CMD.GO t && s.get F.TIM_TB_CMD.OP t = i + 2

/-! ## Slewing (R387) -/

/-- A write of TIM_TB_SLEW_OFF: ignored before SET_DONE; otherwise it replaces the remainder. -/
def State.slewOff (s : State) (t : Nat) (v : Word) : State :=
  if s.isSet F.TIM_TB_STATUS.SET_DONE t then
    let rem := sext (fld v 0 48) 48 * 2 ^ 32
    (s.setTb t { s.tb t with rem := rem }).flag F.TIM_TB_STATUS.SLEWING t (rem ≠ 0)
  else s

/-- TIM_TB_SLEW_OFF_WRITE: the write. -/
def execTimTbSlewOffWrite (tb : Nat) (value : Word) (s : State) : Out := s.whenLive fun s => s.slewOff tb value

/-- SLEW_DONE: the remainder reached zero; the notice carries the time base's value then. -/
def execSlewDone (tb : Nat) (s : State) : Out :=
  s.whenLive fun s =>
    match Tbl.at 0 s.tim.slewDone tb with
    | 0 => s
    | x + 1 => ({ s with tim := { s.tim with slewDone := Tbl.put 0 s.tim.slewDone tb 0 } }).tbNotice tb 7 x

/-- The remainder as TIM_TB_SLEW_OFF reads it, rounded toward zero. -/
def State.slewRead (s : State) (t : Nat) : Nat := wrapInt (Int.tdiv (s.tb t).rem (2 ^ 32)) 48

/-! ## Reading (R388, R389) -/

/-- A read of TIM_TB_NOW_SEC latches the time base for the hart and returns seconds. -/
def State.nowSecRead (s : State) (hart tb : Nat) : State :=
  let b := s.tb tb
  let latch := Tbl.put none s.tim.latch (tb * 8 + hart) (some (b.sec, b.f))
  ({ s with tim := { s.tim with latch := latch } }).respond hart (wd b.sec)

/-- TIM_TB_NOW_SEC_READ: the read. -/
def execTimTbNowSecRead (hart tb : Nat) (s : State) : Out := s.whenLive fun s => s.nowSecRead hart tb

/-- Nanoseconds and 16-bit fraction of f. -/
def nsWord (f : Nat) : Word := wd (f / 2 ^ 48 * 65536 + f / 2 ^ 32 % 65536)

/-- A read of TIM_TB_NOW_NS returns the latched nanoseconds, or a fresh value where no latch is pending. -/
def State.nowNsRead (s : State) (hart tb : Nat) : State :=
  match Tbl.at none s.tim.latch (tb * 8 + hart) with
  | some (_, f) =>
    let latch := Tbl.put none s.tim.latch (tb * 8 + hart) none
    ({ s with tim := { s.tim with latch := latch } }).respond hart (nsWord f)
  | none => s.respond hart (nsWord (s.tb tb).f)

/-- TIM_TB_NOW_NS_READ: the read. -/
def execTimTbNowNsRead (hart tb : Nat) (s : State) : Out := s.whenLive fun s => s.nowNsRead hart tb

/-- TIM_XSNAP with GO 1 latches all eight time bases in one cycle. -/
def State.xsnap (s : State) : State :=
  (List.range 8).foldl (fun u t =>
    (u.setReg .TIM_XSNAP_SEC t (wd (s.tb t).sec)).setReg .TIM_XSNAP_NS t (nsWord (s.tb t).f)) s

/-- TIM_XSNAP: the command. -/
def execTimXsnap (s : State) : Out := s.whenLive State.xsnap

/-! ## Transmit time-stamp queues (R391 to R393) -/

/-- An entry enters a port's queue, or is lost to a full one and counted; a notice carries it. -/
def State.txqPush (s : State) (port : Nat) (w0 w1 : Word) : State :=
  let q := Tbl.at [] s.tim.txq port
  if 16 ≤ q.length then s.inc F.TIM_TXQ_OVF_CNT.CNT port
  else
    let s := { s with tim := { s.tim with txq := Tbl.put [] s.tim.txq port (q ++ [(w0, w1)]) } }
    if s.isSet F.TIM_TXQ_CFG.NOTICE_EN port then
      s.post2 11 (s.get F.TIM_TXQ_CFG.EVQ port) 4 port 0 0 w0.toNat w1.toNat
    else s

/-- The entry of a PTP 1 frame that has started, made as it ends (R391): its stamp, and whether it was aborted (DEDUCED,
log 105). -/
def State.txqEnd (s : State) (port : Nat) (t : TxFrame) (aborted : Bool) : State :=
  let (sec, ns, frac) := ofTotal t.stamp
  if t.frame.ptp = 1 then
    s.txqPush port (wd (t.frame.ptpId * 2 ^ 56 + b2n aborted * 2 ^ 54 + sec)) (wd (ns * 65536 + frac))
  else s

/-- A write of TIM_TXQ_POP: 1 removes the oldest entry; ignored when the queue is empty. -/
def State.txqPop (s : State) (port : Nat) (value : Word) : State :=
  if fld value 0 1 = 1 then
    { s with tim := { s.tim with txq := Tbl.put [] s.tim.txq port (Tbl.at [] s.tim.txq port).tail } }
  else s

/-- TIM_TXQ_POP: the write. -/
def execTimTxqPop (port : Nat) (value : Word) (s : State) : Out := s.whenLive fun s => s.txqPop port value

/-! ## Inputs (R397, R398) -/

/-- An edge of this polarity is one that EDGE selects. -/
def edgeSelected (edge : Nat) (rising : Bool) : Bool := edge = 3 || (edge = 1 && rising) || (edge = 2 && !rising)

/-- The stamp of an accepted edge: 0.25 ns for a PPS input, 1 ns for a GPIO input. -/
def State.edgeStamp (s : State) (i quarters : Nat) : Nat :=
  let x := (s.tb (s.get F.TIM_IN_CFG.TB i)).total
  if i < 2 then (x - quarters * 2 ^ 14) / 2 ^ 14 * 2 ^ 14 else x / 65536 * 65536

/-- An accepted edge: waiting SETs take their value, then the edge is stamped, counted and noticed; a LOST PPS input is
found again. -/
def State.acceptEdge (s : State) (i quarters : Nat) : State :=
  let s := if i < 2 then
      (List.range 8).foldl (fun u t => if u.awaitsPps i t then u.takeSet t quarters else u) s
    else s
  let x := s.edgeStamp i quarters
  let (sec, ns, fr) := ofTotal x
  let s := (s.setReg .TIM_IN_LAST_SEC i (wd sec)).setReg .TIM_IN_LAST_NS i (wd (ns * 65536 + fr))
  let s := s.inc F.TIM_IN_EVT_CNT.CNT i
  let s := { s with tim := { s.tim with lastEdge := Tbl.put 0 s.tim.lastEdge i (s.clock + 1) } }
  let s := s.inNotice i 1 x
  if i < 2 && s.isSet F.TIM_IN_STATUS.LOST i then (s.flag F.TIM_IN_STATUS.LOST i false).inNotice i 3 x else s

/-- INPUT_EDGE: an edge of an input; quarter is the time from the edge to the next cycle boundary in 0.25 ns. -/
def execInputEdge (input : Nat) (rising : Bool) (quarter : Nat) (s : State) : Out :=
  s.whenLive fun s =>
    let s := s.flag F.TIM_IN_STATUS.LEVEL input rising
    if edgeSelected (s.get F.TIM_IN_CFG.EDGE input) rising then
      let last := Tbl.at 0 s.tim.lastEdge input
      if last ≠ 0 && s.clock + 1 - last < s.get F.TIM_IN_CFG.MIN_NS input then s.inc F.TIM_IN_IGN_CNT.CNT input
      else s.acceptEdge input (quarter % 4)
    else s

/-- The time of the last accepted edge of an input as its registers hold it. -/
def State.lastStamp (s : State) (i : Nat) : Nat :=
  s.get F.TIM_IN_LAST_SEC.SEC i * 65536000000000 + s.get F.TIM_IN_LAST_NS.NS i * 65536 + s.get F.TIM_IN_LAST_NS.FRAC i

/-- PPS_LOST: 2 s without an accepted edge on an enabled PPS input; a waiting SET ends NO_PPS. -/
def execPpsLost (input : Nat) (s : State) : Out :=
  s.whenLive fun s =>
    let from_ := max (Tbl.at 0 s.tim.lastEdge input - 1) (Tbl.at 0 s.tim.since input)
    if input < 2 && s.ppsUsable input && decide (2000000000 ≤ s.clock - from_) then
      let s := s.flag F.TIM_IN_STATUS.LOST input true
      let s := (List.range 8).foldl (fun u t =>
        if u.awaitsPps input t then (u.put F.TIM_TB_STATUS.RESULT t 2).flag F.TIM_TB_CMD.GO t false else u) s
      s.inNotice input 2 (s.lastStamp input)
    else s

/-- A write of TIM_IN_CFG; EDGE leaving 0 starts the LOST interval (R398). -/
def State.inCfg (s : State) (i : Nat) (v : Word) : State :=
  let was := s.get F.TIM_IN_CFG.EDGE i
  let s := s.setReg .TIM_IN_CFG i (mergeWrite .TIM_IN_CFG (s.reg .TIM_IN_CFG i) v)
  if was = 0 && s.get F.TIM_IN_CFG.EDGE i ≠ 0 then
    { s with tim := { s.tim with since := Tbl.put 0 s.tim.since i s.clock } }
  else s

/-! ## Outputs (R399) -/

/-- PERIOD in 2^−16 ns. -/
def State.outPeriod (s : State) (o : Nat) : Nat :=
  s.get F.TIM_OUT_PERIOD.NS o * 65536 + s.get F.TIM_OUT_PERIOD.FRAC o

/-- The value of an output's time base. -/
def State.outNow (s : State) (o : Nat) : Nat := (s.tb (s.get F.TIM_OUT_CFG.TB o)).total

/-- The first edge START + k × PERIOD that has not passed. -/
def firstDue (now start period : Nat) : Nat :=
  if now ≤ start then start else start + ceilDiv (now - start) period * period

/-- A write of TIM_OUT_CFG: with EN already 1 only EN can change; a write of EN 1 is refused with CFG_ERR for a PERIOD
below 20 ns or a WIDTH_NS of the write not below PERIOD. -/
def State.outCfg (s : State) (o : Nat) (v : Word) : State :=
  let en := fld v 0 1 = 1
  let bad := s.outPeriod o < 20 * 65536 || s.outPeriod o ≤ fld v 4 28 * 65536
  if s.isSet F.TIM_OUT_CFG.EN o then
    if en then s.flag F.TIM_OUT_CFG.CFG_ERR o bad
    else
      let s := s.flag F.TIM_OUT_CFG.EN o false
      { s with tim := { s.tim with high := Tbl.put false s.tim.high o false } }
  else if !en then
    (s.put F.TIM_OUT_CFG.WIDTH_NS o (fld v 4 28)).put F.TIM_OUT_CFG.TB o (fld v 1 3)
  else if bad then s.flag F.TIM_OUT_CFG.CFG_ERR o true
  else
    let s := (s.put F.TIM_OUT_CFG.WIDTH_NS o (fld v 4 28)).put F.TIM_OUT_CFG.TB o (fld v 1 3)
    let s := (s.flag F.TIM_OUT_CFG.EN o true).flag F.TIM_OUT_CFG.CFG_ERR o false
    let start := s.get F.TIM_OUT_START_SEC.SEC o * 65536000000000 + s.get F.TIM_OUT_START_NS.NS o * 65536
    { s with tim := { s.tim with
      nextRise := Tbl.put 0 s.tim.nextRise o (firstDue (s.outNow o) start (s.outPeriod o)) } }

/-- TIM_OUT_CFG_WRITE: the write. -/
def execTimOutCfgWrite (output : Nat) (value : Word) (s : State) : Out := s.whenLive fun s => s.outCfg output value

/-- OUTPUT_RISE: an enabled output goes high when its time base reaches the next edge. -/
def execOutputRise (output : Nat) (s : State) : Out :=
  s.whenLive fun s =>
    let due := Tbl.at 0 s.tim.nextRise output
    if s.isSet F.TIM_OUT_CFG.EN output && decide (due ≤ s.outNow output) then
      { s with tim := { s.tim with
        high := Tbl.put false s.tim.high output true
        fallAt := Tbl.put 0 s.tim.fallAt output (due + s.get F.TIM_OUT_CFG.WIDTH_NS output * 65536)
        nextRise := Tbl.put 0 s.tim.nextRise output (due + s.outPeriod output) } }
    else s

/-- OUTPUT_FALL: the output goes low WIDTH_NS after its rise. -/
def execOutputFall (output : Nat) (s : State) : Out :=
  s.whenLive fun s =>
    if Tbl.at false s.tim.high output && decide (Tbl.at 0 s.tim.fallAt output ≤ s.outNow output) then
      { s with tim := { s.tim with high := Tbl.put false s.tim.high output false } }
    else s

end Sys2Proof.Machine
end

