-- ==== Sys2Proof/Machine/Replicate.lean ====
section
/-! DEFINITION. Replication (04 R93, R99, R100, R111 to R125): one subscription of one packet is clipped, acted on,
released, accepted, copied and rewritten. -/

namespace Sys2Proof.Machine

/-- A packet as a subscription sees it (R93): layer indices and switch point in effect; lv is LAYER_VALID, every is set
for a packet treated as having every TL, simul for a member of a simulcast group, bare for a layerless packet. -/
structure Seen where
  lv : Bool
  every : Bool
  bare : Bool
  simul : Bool
  sl : Nat
  tl : Nat
  swp : Bool
  rtcp : Bool
  deriving DecidableEq, Repr

/-- What a packet is to the subscriptions of a leader. An RTCP packet is no switch point and takes simulcast from the
leader (DEDUCED, log 30). -/
def State.seen (s : State) (p : Pkt) (leader : Nat) : Seen :=
  let i := p.get Tag.SCID
  let rtcp := p.is Tag.RTCP
  let lv := p.is Tag.LAYER_VALID
  let mode := s.ctx i Ctx.LAYER_MODE
  { lv := lv, every := !lv && mode ≠ 0, bare := !lv && mode = 0 && !rtcp
    simul := s.ctx (if rtcp then leader else i) Ctx.SL_FIXED_EN = 1
    sl := p.get Tag.SL, tl := p.get Tag.TL
    swp := !rtcp && (if lv then p.is Tag.SWP else mode = 0), rtcp := rtcp }

/-- A packet is inside the operating point (x, y) (R93). -/
def Seen.inside (e : Seen) (x y : Nat) : Bool :=
  (if e.simul then e.sl = x else e.every || e.sl ≤ x) && (e.every || (e.tl ≤ 2 && e.tl ≤ y))

/-- A spatial switch point (R95): SWP with TL 0. -/
def Seen.spatial (e : Seen) : Bool := e.swp && e.tl = 0

/-! ## Steering (R117, R118) -/

/-- DEBT of a debt in bytes (R117). -/
def debtBand (debt t1 t2 : Nat) : Nat := if debt = 0 then 0 else if debt ≤ t1 then 1 else if debt ≤ t2 then 2 else 3

/-- DEPTH of a depth in cells (R117). -/
def depthBand (cells d1 d2 d3 : Nat) : Nat :=
  if d3 < cells then 3 else if d2 < cells then 2 else if d1 < cells then 1 else 0

/-- The decision vector (R117). -/
def State.vector (s : State) (j : JobSub) (e : Seen) : Nat :=
  let i := j.sbid
  let g := fun f => s.sub i f
  let w := fun f => wordsGet [j.word0] f
  let c := w FSub.CGID
  let tight := debtBand (s.debt c) (fld j.steerA 20 20) (fld j.steerA 40 20)
  let depth := depthBand (s.depth (s.car c Car.PORT) (w FSub.QUEUE)) (fld j.steerB 0 16) (fld j.steerB 16 16)
    (fld j.steerB 32 16)
  let gap := s.since16 (g FSub.T_DOWN)
  tight + depth * 4 + b2n (fld j.steerA 10 10 ≤ gap) * 16 + b2n (fld j.steerB 48 16 ≤ gap) * 32 + b2n e.swp * 64
    + e.sl * 128 + min e.tl 3 * 512 + g FSub.CUR_SL * 2048 + g FSub.CUR_TL % 4 * 8192
    + b2n (g FSub.CUR_SL = w FSub.MAX_SL && g FSub.CUR_TL = w FSub.MAX_TL) * 2 ^ 15
    + b2n (g FSub.CUR_SL = 0 && g FSub.CUR_TL = 0) * 2 ^ 16
    + g FSub.PEND_VALID * 2 ^ 17 + g FSub.KF_WAIT * 2 ^ 18 + g FSub.SUSP * 2 ^ 19 + b2n e.rtcp * 2 ^ 20
    + b2n e.lv * 2 ^ 21 + w FSub.CLASS * 2 ^ 22

/-- ACT and KF of the first rule that matches a vector; STAY and 0 where none does (R118). -/
def matchRule (rules : List Word) (v : Nat) : Nat × Bool :=
  let n := fld (rules.getD 0 0) 0 4
  match ((rules.drop 1).take n).find? fun w => nand64 v (fld w 40 24) = fld w 16 24 with
  | some w => (fld w 12 4, fld w 11 1 = 1)
  | none => (0, false)

/-! ## Layer state (R119, R120) -/

/-- CUR is lowered: T_DOWN, PEND_VALID, the counter, and KF_WAIT when a simulcast group's CUR_SL falls. -/
def State.lower (s : State) (i w sl tl : Nat) (simul : Bool) : State :=
  if sl = s.sub i FSub.CUR_SL ∧ tl = s.sub i FSub.CUR_TL then s
  else
    let s := if simul && sl < s.sub i FSub.CUR_SL then s.setSub i FSub.KF_WAIT 1 else s
    let s := (s.setSub i FSub.CUR_SL sl).setSub i FSub.CUR_TL tl
    ((s.setSub i FSub.T_DOWN s.nowMs).setSub i FSub.PEND_VALID 0).inc F.FWD_DOWN_CNT.CNT w

/-- Step 1: CUR and PEND clipped to MAX, which counts as a lowering; a DECODE subscription's CUR stays at MAX, so a raised
MAX takes it along (R112, R120). -/
def State.clip (s : State) (j : JobSub) (w : Nat) (simul : Bool) : State :=
  let i := j.sbid
  let ms := wordsGet [j.word0] FSub.MAX_SL
  let mt := wordsGet [j.word0] FSub.MAX_TL
  let s := s.lower i w (min (s.sub i FSub.CUR_SL) ms) (min (s.sub i FSub.CUR_TL) mt) simul
  if wordsGet [j.word0] FSub.KIND = 1 then (s.setSub i FSub.CUR_SL ms).setSub i FSub.CUR_TL mt
  else
    if s.sub i FSub.PEND_VALID = 1 && (ms < s.sub i FSub.PEND_SL || mt < s.sub i FSub.PEND_TL) then
      let s := (s.setSub i FSub.PEND_SL (min (s.sub i FSub.PEND_SL) ms)).setSub i FSub.PEND_TL
        (min (s.sub i FSub.PEND_TL) mt)
      if s.sub i FSub.PEND_SL = s.sub i FSub.CUR_SL ∧ s.sub i FSub.PEND_TL = s.sub i FSub.CUR_TL then
        s.setSub i FSub.PEND_VALID 0
      else s
    else s

/-- An up-switch is pending. -/
def State.pend (s : State) (i sl tl : Nat) : State :=
  ((s.setSub i FSub.PEND_SL sl).setSub i FSub.PEND_TL tl).setSub i FSub.PEND_VALID 1

/-- UP_S, where the ceiling allows it. -/
def State.upS (s : State) (i ms : Nat) : State :=
  if s.sub i FSub.CUR_SL < ms then s.pend i (s.sub i FSub.CUR_SL + 1) (s.sub i FSub.CUR_TL) else s

/-- DOWN_S, above S0. -/
def State.downS (s : State) (i w : Nat) (simul : Bool) : State :=
  if 0 < s.sub i FSub.CUR_SL then s.lower i w (s.sub i FSub.CUR_SL - 1) (s.sub i FSub.CUR_TL) simul else s

/-- An UP action of a suspended subscription: it starts again at S0 T0 and waits. R119 names no lowering for it: T_DOWN and
FWD_DOWN_CNT stay (DESIGN CHOICE, log 67). -/
def State.wake (s : State) (i : Nat) : State :=
  (((s.setSub i FSub.SUSP 0).setSub i FSub.CUR_SL 0).setSub i FSub.CUR_TL 0).setSub i FSub.KF_WAIT 1

/-- The action of a rule (R119). -/
def State.act (s : State) (j : JobSub) (w act : Nat) (simul : Bool) : State :=
  let i := j.sbid
  let ms := wordsGet [j.word0] FSub.MAX_SL
  let mt := wordsGet [j.word0] FSub.MAX_TL
  let susp := s.sub i FSub.SUSP = 1
  let tl := s.sub i FSub.CUR_TL
  match act with
  | 1 => if susp then s else if 0 < tl then s.lower i w (s.sub i FSub.CUR_SL) (tl - 1) simul else s.downS i w simul
  | 2 => if susp then s else s.downS i w simul
  | 3 => if susp then s else s.lower i w 0 0 simul
  | 4 =>
    if susp then s.wake i
    else if s.sub i FSub.PEND_VALID = 1 then s
    else if tl < mt then s.pend i (s.sub i FSub.CUR_SL) (tl + 1)
    else s.upS i ms
  | 5 => if susp then s.wake i else if s.sub i FSub.PEND_VALID = 1 then s else s.upS i ms
  | 6 => (s.setSub i FSub.SUSP 1).setSub i FSub.PEND_VALID 0
  | _ => s

/-- Step 3: a switch point releases KF_WAIT (R120); CUR of a DECODE subscription stays at MAX (R112). -/
def State.release (s : State) (i : Nat) (dec : Bool) (e : Seen) : State :=
  if s.sub i FSub.KF_WAIT = 0 || s.sub i FSub.SUSP = 1 || !e.spatial then s
  else if e.simul then
    if e.bare || e.sl = s.sub i FSub.CUR_SL then s.setSub i FSub.KF_WAIT 0 else s
  else if e.sl = 0 || e.bare then
    if dec then s.setSub i FSub.KF_WAIT 0 else
    let target := s.sub i FSub.CUR_SL
    let s := (s.setSub i FSub.KF_WAIT 0).setSub i FSub.CUR_SL 0
    if 0 < target then s.pend i target (s.sub i FSub.CUR_TL) else s
  else s

/-- Step 4: a switch point raises CUR toward PEND (R120). -/
def State.accept (s : State) (i w : Nat) (e : Seen) : State :=
  let cs := s.sub i FSub.CUR_SL
  let ct := s.sub i FSub.CUR_TL
  let ps := s.sub i FSub.PEND_SL
  let pt := s.sub i FSub.PEND_TL
  let upSl := e.tl = 0 && (if e.simul then e.sl = ps && cs < ps else e.sl = cs + 1 && e.sl ≤ ps)
  let upTl := e.tl = ct + 1 && e.tl ≤ pt && (if e.simul then e.sl = cs else e.sl ≤ cs)
  if s.sub i FSub.PEND_VALID = 0 || !e.swp || !(upSl || upTl) then s
  else
    let s := if upSl then s.setSub i FSub.CUR_SL e.sl else s.setSub i FSub.CUR_TL e.tl
    let s := s.inc F.FWD_UP_CNT.CNT w
    if s.sub i FSub.CUR_SL = ps ∧ s.sub i FSub.CUR_TL = pt then s.setSub i FSub.PEND_VALID 0 else s

/-! ## Rewriting (R121, R122) -/

/-- RTP clock of a TS_RATE. -/
def clockOf (r : Nat) : Nat :=
  match r with
  | 0 => 8000
  | 1 => 16000
  | 2 => 48000
  | _ => 90000

/-- SEEN shifted by d inputs, the newest marked. -/
def shiftSeen (seen d : Nat) : Nat := if 32 ≤ d then 1 else setBits (seen * 2 ^ d % 2 ^ 32) 0 1 1

/-- The output index and timestamp of a copy with the rewrite state after, or a late drop (R121). keep is set for SUITE 5
and 6, whose timestamp is not replaced. -/
def State.rewrite (s : State) (j : JobSub) (p : Pkt) (ts : Nat) (keep : Bool) : Option (Nat × Nat) × State :=
  let i := j.sbid
  let g := fun f => s.sub i f
  let mix := wordsGet [j.word0] FSub.KIND = 2
  let ov := g FSub.OUT_VALID = 1
  let e := p.extSeq
  let t := p.t1024
  let off := if keep then 0 else g FSub.TS_OFF
  let last := g FSub.LAST_IN
  let ahead := (ts + off + 2 ^ 32 - g FSub.OUT_TS_LAST) % 2 ^ 32
  let switch := !ov || p.get Tag.SCID ≠ g FSub.CUR_SCID
  let finish := fun (s : State) (out off : Nat) =>
    let tsOut := (ts + off) % 2 ^ 32
    let s := s.setSub i FSub.TS_OFF off
    let s := if (out + 1) % 2 ^ 48 = s.sub i FSub.OUT_EXT then
      (s.setSub i FSub.OUT_TS_LAST tsOut).setSub i FSub.LAST_FWD_T t else s
    (some (out, tsOut), s.setSub i FSub.OUT_VALID 1)
  if mix && ov && (ahead = 0 || 2 ^ 31 ≤ ahead) then (none, s)
  else if switch then
    let step := max 1 ((t + 2 ^ 32 - g FSub.LAST_FWD_T) % 2 ^ 32 * 1024 * clockOf (wordsGet [j.word0] FSub.TS_RATE) / 1000000000)
    let off' := if keep then 0
      else if !ov then (off + 2 ^ 32 - ts) % 2 ^ 32
      else if mix then off
      else (g FSub.OUT_TS_LAST + step + 2 ^ 32 - ts) % 2 ^ 32
    let out := g FSub.OUT_EXT
    let u := ((s.setSub i FSub.CUR_SCID (p.get Tag.SCID)).setSub i FSub.LAST_IN e).setSub i FSub.LAST_DROP_IN (e + 2 ^ 48 - 1)
    finish ((u.setSub i FSub.SEEN 1).setSub i FSub.OUT_EXT (out + 1)) out off'
  else if last < e then
    let g0 := e - last - 1
    let u := if 64 < g0 then s.setSub i FSub.LAST_DROP_IN (e - 1) else s
    let out := (g FSub.OUT_EXT + min g0 64) % 2 ^ 48
    let u := (u.setSub i FSub.SEEN (shiftSeen (g FSub.SEEN) (e - last))).setSub i FSub.LAST_IN e
    finish (u.setSub i FSub.OUT_EXT (out + 1)) out off
  else
    let k := last - e
    if 32 ≤ k || bitAt (g FSub.SEEN) k || e ≤ g FSub.LAST_DROP_IN then (none, s)
    else finish (s.setSub i FSub.SEEN (setBits (g FSub.SEEN) k 1 1)) ((g FSub.OUT_EXT + 2 ^ 48 - 1 - k) % 2 ^ 48) off

/-- A packet of CUR_SCID that step 5 refuses, ahead of LAST_IN, once a copy has been made (R121). -/
def State.withheld (s : State) (i : Nat) (p : Pkt) : State :=
  let last := s.sub i FSub.LAST_IN
  if s.sub i FSub.OUT_VALID = 1 && p.get Tag.SCID = s.sub i FSub.CUR_SCID && last < p.extSeq then
    let s := s.setSub i FSub.SEEN (shiftSeen (s.sub i FSub.SEEN) (p.extSeq - last))
    (s.setSub i FSub.LAST_IN p.extSeq).setSub i FSub.LAST_DROP_IN p.extSeq
  else s

/-! ## Copies and decode carts (R112, R121 to R125) -/

/-- A copy is made: it passes the enqueue checks of its carriage and enters its queue (05 R140). A packet already ended
under R84 or R37 makes no copy (DEDUCED, log 30). -/
def State.makeCopy (s : State) (w id : Nat) (j : JobSub) (rw : Rewrite) : State :=
  match s.pkt id with
  | none => s
  | some p =>
    if p.dead then s
    else
      let s := (s.inc F.FWD_COPY_CNT.CNT w).setPkt id { p with made := true }
      let c := wordsGet [j.word0] FSub.CGID
      let port := s.car c Car.PORT
      let q := wordsGet [j.word0] FSub.QUEUE
      let cells := ceilDiv (p.get Tag.LEN) 256
      let (ok, t) := s.enqCheck w c port q cells (s.copyLen c (p.get Tag.LEN - p.l4 - 4))
      if ok then
        (t.hold id).enqueue port q
          { pkt := some id, depth := cells, cgid := c, srtp := if rw.rtcp then 2 else 1, rw := rw }
      else t

/-- A decode cart instead of a copy (R112, R109, 06 R168). -/
def State.decodeCart (s : State) (id : Nat) (j : JobSub) : State :=
  match s.pkt id with
  | none => s
  | some p =>
    if p.dead || p.srtp.suite = 5 || p.srtp.suite = 6 then s
    else
      let i := j.sbid
      let w0 := wd (0x11 * 2 ^ 56 + s.sub i FSub.COID * 2 ^ 40 + s.sub i FSub.PRIO * 2 ^ 36)
      let w1 := wd (s.sub i FSub.POOL * 2 ^ 16 + 1)
      s.pushCart id p (w0 :: w1 :: cartOperands p 0 (s.sub i FSub.AUX))

/-- A MIX_FOLLOW subscription may consider a packet (R113). -/
def State.eligible (s : State) (j : Job) (x : JobSub) (p : Pkt) : Bool :=
  let m := s.slotOf (p.get Tag.CFID) (s.sub x.sbid FSub.AUX)
  match wordsGet j.src FSrc.MIXROLE with
  | 1 => m.isNone
  | 2 => m = some (wordsGet j.src FSrc.SLOT)
  | _ => false

/-- A subscription has entered KF_WAIT where it was not in it: with FIR_EN a request is raised (R126). -/
def State.waitEdge (s : State) (j : Job) (x : JobSub) (was : Nat) : State :=
  if was = 0 && s.sub x.sbid FSub.KF_WAIT = 1 && wordsGet [x.word0] FSub.FIR_EN = 1 then
    s.raiseKf j.leader j.lead (s.sub x.sbid FSub.CUR_SL) (wordsGet [x.word0] FSub.USE_PLI = 1)
  else s

/-- Steps 1 and 2: clip, then the rule action with its keyframe request; also the action taken. -/
def State.steer (s : State) (j : Job) (x : JobSub) (w : Nat) (e : Seen) : Nat × State :=
  let i := x.sbid
  let kind := wordsGet [x.word0] FSub.KIND
  let (act, kf) := if kind = 1 then (0, false) else matchRule x.rules (s.vector x e)
  let was := s.sub i FSub.KF_WAIT
  let s := (s.clip x w e.simul).waitEdge j x was
  if kind = 1 then (0, s)
  else
    let was := s.sub i FSub.KF_WAIT
    let s := (s.act x w act e.simul).waitEdge j x was
    let waits := s.sub i FSub.KF_WAIT = 1 || s.sub i FSub.PEND_VALID = 1
    if kf && waits then
      let sl := if s.sub i FSub.KF_WAIT = 1 then s.sub i FSub.CUR_SL else s.sub i FSub.PEND_SL
      (act, s.raiseKf j.leader j.lead sl (wordsGet [x.word0] FSub.USE_PLI = 1))
    else (act, s)

/-- The rewrite of an RTP copy. -/
def State.rtpCopy (s : State) (w : Nat) (j : Job) (x : JobSub) (p : Pkt) : State :=
  let i := x.sbid
  let keep := p.srtp.suite = 5 || p.srtp.suite = 6
  let pay := s.pktPayload p
  let (r, t) := s.rewrite x p (beAt pay 4 4) keep
  match r with
  | none => t.inc F.FWD_LATE_DROP_CNT.CNT w
  | some (out, ts) =>
    t.makeCopy w j.pkt x
      { out := out, ts := ts, ssrc := if keep then beAt pay 8 4 else t.sub i FSub.OUT_SSRC
        xlo := x.xlo, xhi := x.xhi, keep := keep }

/-- An RTCP copy to a FORWARD subscription, where R125 allows one. -/
def State.rtcpCopy (s : State) (w : Nat) (j : Job) (x : JobSub) (act : Nat) : State :=
  let i := x.sbid
  if wordsGet [x.word0] FSub.KIND = 0 && wordsGet [x.word0] FSub.RTCP_FWD = 1 && s.sub i FSub.SUSP = 0 && s.sub i FSub.KF_WAIT = 0
      && s.sub i FSub.OUT_VALID = 1 && s.sub i FSub.CUR_SCID = wordsGet j.src FSrc.RTP_SCID && act ≠ 7 then
    s.makeCopy w j.pkt x
      { ssrc := s.sub i FSub.OUT_SSRC, xlo := x.xlo, xhi := x.xhi, rtcp := true, tsOff := s.sub i FSub.TS_OFF }
  else s

/-- Steps 3 to 5 for an RTP packet. -/
def State.layerStep (s : State) (w : Nat) (j : Job) (x : JobSub) (p : Pkt) (e : Seen) (act : Nat) : State :=
  let i := x.sbid
  let dec := wordsGet [x.word0] FSub.KIND = 1
  let s := (s.release i dec e).accept i w e
  let ok := s.sub i FSub.SUSP = 0 && s.sub i FSub.KF_WAIT = 0 && act ≠ 7
    && e.inside (s.sub i FSub.CUR_SL) (s.sub i FSub.CUR_TL)
  if !ok then
    let s := s.inc F.FWD_SEL_DROP_CNT.CNT w
    if dec then s else s.withheld i p
  else if dec then s.decodeCart j.pkt x
  else s.rtpCopy w j x p

/-- One subscription of one packet at a walker; w is its number modulo 8. -/
def State.issueSub (s : State) (w : Nat) (j : Job) (x : JobSub) (p : Pkt) : State :=
  let i := x.sbid
  let kind := wordsGet [x.word0] FSub.KIND
  let e := s.seen p j.leader
  if s.poisoned 6 i || (e.rtcp && kind = 1) then s
  else if kind = 2 && !s.eligible j x p then s
  else
    let before := (s.sub i FSub.CUR_SL, s.sub i FSub.SUSP)
    let (act, s) := s.steer j x w e
    let s := if e.rtcp then s.rtcpCopy w j x act else s.layerStep w j x p e act
    if (s.sub i FSub.CUR_SL, s.sub i FSub.SUSP) = before then s else s.rateEvent j.leader

/-- A walker ends a job: its hold goes, and a packet that no walker replicates any more is counted (R102, R108). -/
def State.endJob (s : State) (id : Nat) : State :=
  let s := s.modPkt id fun p => { p with jobs := p.jobs - 1 }
  let s := match s.pkt id with
    | some p => if p.jobs = 0 then s.countUnmade p else s
    | none => s
  s.unhold id

/-- SUBSCRIPTION_DECISION: the walker (0 to 7 an egress replicator, 8 to 15 an ingress pipeline's decode walker) issues the
next subscription of its oldest packet. -/
def execSubscriptionDecision (walker : Nat) (s : State) : Out :=
  s.whenLive fun s =>
    match Tbl.at [] s.fwd.jobs walker with
    | [] => s
    | j :: rest =>
      let putJobs := fun (t : State) (js : List Job) =>
        { t with fwd := { t.fwd with jobs := Tbl.put [] t.fwd.jobs walker js } }
      match j.subs with
      | [] => (putJobs s rest).endJob j.pkt
      | x :: xs =>
        let t := putJobs s (if xs = [] then rest else { j with subs := xs } :: rest)
        let t := match t.pkt j.pkt with
          | some p => t.issueSub (walker % 8) j x p
          | none => t
        if xs = [] then t.endJob j.pkt else t

end Sys2Proof.Machine
end

