-- ==== Sys2Proof/Machine/Egress.lean ====
section
/-! DEFINITION. What leaves a port (05 R136, 04 R122 to R125, 03 R91, 13 R394, R395): payload rewriting, Original Header
Block, headers of a copy, SRTCP of a ring frame, one-step insertion. -/

namespace Sys2Proof.Machine

/-! ## Rewriting of a stored payload -/

/-- ACT and NEW_ID of an element ID in an XMAP profile (R124). -/
def xmapEntry (xlo xhi : Word) (id : Nat) : Nat × Nat :=
  let e := if id ≤ 7 then fld xlo (8 * (id - 1)) 8 else fld xhi (8 * (id - 8)) 8
  (e / 64, e % 16)

/-- One element under an XMAP profile; one is set for the one-byte form. -/
def xmapElem (xlo xhi : Word) (one : Bool) (pay : List Byte) (e : Elem) : List Byte :=
  let h := if one then e.off - 1 else e.off - 2
  let clear := splice pay h (List.replicate (e.off - h + e.len) 0)
  if e.id = 0 || 14 < e.id then pay
  else
    let (act, new) := xmapEntry xlo xhi e.id
    if act = 1 then clear
    else if act = 2 then
      if new = 0 || new = 15 then clear
      else splice pay h [BitVec.ofNat 8 (if one then new * 16 + (e.len - 1) else new)]
    else pay

/-- The XMAP profile applied to the extension block of an RTP packet; an Original Header Block, ID ohb, of a
double-encrypted packet passes unchanged (03 R91). -/
def xmapApply (xlo xhi : Word) (ohb : Nat) (pay : List Byte) : List Byte :=
  if rtpX pay 0 then
    let one := beAt pay (rtpFixed pay 0) 2 = 0xBEDE
    ((allElems pay 0).filter fun e => ohb = 0 || e.id ≠ ohb).foldl (xmapElem xlo xhi one) pay
  else pay

/-- The rewritten UDP payload of a copy (R122, R124, R125); ohb is the OHB_ID of its carriage. -/
def rewritten (rw : Rewrite) (ohb : Nat) (pay : List Byte) : List Byte :=
  if rw.rtcp then
    let p := splice pay 4 (beBytes 4 rw.ssrc)
    if byteAt pay 1 = 200 then splice p 16 (beBytes 4 ((beAt pay 16 4 + rw.tsOff) % 2 ^ 32)) else p
  else
    let p := splice pay 2 (beBytes 2 (rw.out % 65536) ++ beBytes 4 rw.ts ++ beBytes 4 rw.ssrc)
    xmapApply rw.xlo rw.xhi (if rw.keep then ohb else 0) p

/-- Whether a copy of a double-encrypted stream needs an Original Header Block: its sequence number changed and it carries
none: a received block is known by the ID that the carriage's OHB_ID gives (03 R91) (DESIGN CHOICE, log 31). -/
def needsOhb (rw : Rewrite) (ohbId : Nat) (orig : List Byte) : Bool :=
  rw.keep && beAt orig 2 2 ≠ rw.out % 65536 && !((allElems orig 0).any fun e => e.id = ohbId)

/-- An RTP packet with an Original Header Block of the received M, payload type and sequence number (03 R91). An extension
block of another profile is no RFC 8285 block: a one-byte-form block is put in front of it (DEDUCED, log 31). -/
def insertOhb (ohbId : Nat) (orig pay : List Byte) : List Byte :=
  let f := rtpFixed pay 0
  let data := [BitVec.ofNat 8 (byteAt orig 1)] ++ slice orig 2 2
  let one := BitVec.ofNat 8 (ohbId * 16 + 2) :: data
  let stop := rtpHeader pay 0
  let words := beAt pay (f + 2) 2
  match if rtpX pay 0 then blockForm (beAt pay f 2) else none with
  | some true => (splice pay (f + 2) (beBytes 2 (words + 1))).take stop ++ one ++ pay.drop stop
  | some false =>
    (splice pay (f + 2) (beBytes 2 (words + 2))).take stop
      ++ (BitVec.ofNat 8 ohbId :: 3 :: data ++ [0, 0, 0]) ++ pay.drop stop
  | none =>
    (splice pay 0 [BitVec.ofNat 8 (byteAt pay 0 ||| 16)]).take f ++ beBytes 2 0xBEDE ++ beBytes 2 1 ++ one ++ pay.drop f

/-! ## Headers (05 R136) -/

/-- The checksum over a UDP datagram with its pseudo-header; 0 is sent as 65,535. -/
def udpSum (v6 : Bool) (src dst udp : List Byte) : Nat :=
  let pseudo := if v6 then src ++ dst ++ beBytes 4 udp.length ++ beBytes 4 17
    else src ++ dst ++ [0, 17] ++ beBytes 2 udp.length
  let c := inetSum (pseudo ++ udp)
  if c = 0 then 65535 else c

/-- Address bytes of a carriage record from a word. -/
def State.carIp (s : State) (c w n : Nat) : List Byte :=
  (wordBytes [recWord s.tm.car 12 c w, recWord s.tm.car 12 c (w + 1)]).take n

/-- A frame with the headers of a carriage record in front of a UDP payload (R136). -/
def State.buildFrame (s : State) (c : Nat) (pay : List Byte) : List Byte :=
  let g := s.car c
  let v6 := g Car.IPV6 = 1
  let tag := if g Car.VLAN_EN = 1 then beBytes 2 0x8100 ++ beBytes 2 (g Car.PCP * 8192 + g Car.VID) else []
  let eth := leBytes 6 (g Car.DST_MAC) ++ leBytes 6 (g Car.SRC_MAC) ++ tag
    ++ beBytes 2 (if v6 then 0x86DD else 0x0800)
  let tc := g Car.DSCP * 4 + g Car.ECN
  let src := s.carIp c 4 (if v6 then 16 else 4)
  let dst := s.carIp c 6 (if v6 then 16 else 4)
  let udpLen := pay.length + 8
  let udp := fun sum => beBytes 2 (g Car.SPORT) ++ beBytes 2 (g Car.DPORT) ++ beBytes 2 udpLen ++ beBytes 2 sum ++ pay
  let csum := v6 || g Car.UDP_CSUM = 1
  let dgram := udp (if csum then udpSum v6 src dst (udp 0) else 0)
  if v6 then
    eth ++ beBytes 4 (6 * 2 ^ 28 + tc * 2 ^ 20) ++ beBytes 2 udpLen ++ [17, BitVec.ofNat 8 (g Car.TTL)] ++ src ++ dst ++ dgram
  else
    let ip := fun sum => [BitVec.ofNat 8 0x45, BitVec.ofNat 8 tc] ++ beBytes 2 (udpLen + 20) ++ beBytes 4 0x4000
      ++ [BitVec.ofNat 8 (g Car.TTL), 17] ++ beBytes 2 sum ++ src ++ dst
    eth ++ ip (inetSum (ip 0)) ++ dgram

/-- Offset of the IP header and of the UDP header of a frame that carries UDP, and IPv6, by the parse graph (02 R39): a
malformed packet and a fragment carry none. -/
def udpAt (fb : List Byte) : Option (Nat × Nat × Bool) :=
  let tagged := fun o => beAt fb o 2 = 0x8100 || beAt fb o 2 = 0x88A8
  let o := if tagged 12 then if tagged 16 then 20 else 16 else 12
  if parseFrame fb = .malformed then none
  else if beAt fb o 2 = 0x0800 && byteAt fb (o + 2) % 16 = 5 && beAt fb (o + 8) 2 % 16384 = 0 && byteAt fb (o + 11) = 17 then
    some (o + 2, o + 22, false)
  else if beAt fb o 2 = 0x86DD && byteAt fb (o + 8) = 17 then some (o + 2, o + 42, true)
  else none

/-- A ring frame whose UDP payload is replaced: lengths, IPv4 checksum, UDP checksum as the carriage says (R162). -/
def State.refit (s : State) (c : Nat) (fb : List Byte) (ip l4 : Nat) (v6 : Bool) (pay : List Byte) : List Byte :=
  let udpLen := pay.length + 8
  let hdr := if v6 then splice fb (ip + 4) (beBytes 2 udpLen)
    else
      let h := splice (splice fb (ip + 2) (beBytes 2 (udpLen + 20))) (ip + 10) [0, 0]
      splice h (ip + 10) (beBytes 2 (inetSum (slice h ip 20)))
  let udp := fun sum => slice fb l4 4 ++ beBytes 2 udpLen ++ beBytes 2 sum ++ pay
  let src := if v6 then slice fb (ip + 8) 16 else slice fb (ip + 12) 4
  let dst := if v6 then slice fb (ip + 24) 16 else slice fb (ip + 16) 4
  let csum := v6 || s.car c Car.UDP_CSUM = 1
  hdr.take l4 ++ udp (if csum then udpSum v6 src dst (udp 0) else 0)

/-! ## One-step insertion (13 R394, R395) -/

/-- The UDP checksum after bytes changed: ones'-complement arithmetic over the old and new datagram. -/
def fixSum (old : Nat) (before after : List Byte) : Nat :=
  let v := (65535 - old) + onesSum after + (65535 * 65536 - onesSum before % (65535 * 65536))
  let c := 65535 - (if v % 65535 = 0 then 65535 else v % 65535)
  if c = 0 then 65535 else c

/-- A Sync message with its transmit stamp x (in 2^−16 ns) written at PTP_OFF; none where PTP_OFF + 48 runs beyond the
frame's end. fb is the padded frame before its FCS, and a frame's length counts its FCS (00, Numbers and units). -/
def oneStep (fb : List Byte) (off x : Nat) : Option (List Byte) :=
  if fb.length + 4 < off + 48 then none
  else
    let (sec, ns, frac) := ofTotal x
    let corr := (beAt fb (off + 8) 8 + frac) % 2 ^ 64
    let new := splice (splice fb (off + 34) (beBytes 6 sec ++ beBytes 4 ns)) (off + 8) (beBytes 8 corr)
    match udpAt fb with
    | none => some new
    | some (_, l4, v6) =>
      let old := beAt fb (l4 + 6) 2
      if !v6 && old = 0 then some new
      else
        let zero := fun f => (splice f (l4 + 6) [0, 0]).drop l4
        some (splice new (l4 + 6) (beBytes 2 (fixSum old (zero fb) (zero new))))

/-! ## A frame of a queue as it will be transmitted -/

/-- Key set of a frame's encryption. -/
def State.egressKey (s : State) (f : QFrame) : Nat :=
  s.sout f.cgid (if f.srtp = 2 then SOut.KSID_RTCP else SOut.KSID)

/-- UDP payload of a frame before encryption, with an Original Header Block where one is due. -/
def State.clearPayload (s : State) (f : QFrame) : List Byte :=
  match f.pkt with
  | some id =>
    match s.pkt id with
    | none => []
    | some p =>
      let orig := s.pktPayload p
      let ohb := s.sout f.cgid SOut.OHB_ID
      let pay := rewritten f.rw ohb orig
      if ohb ≠ 0 && needsOhb f.rw ohb orig then insertOhb ohb orig pay else pay
  | none =>
    if f.ring then
      match udpAt f.body with
      | some (_, l4, _) => f.body.drop (l4 + 8)
      | none => []
    else f.body

/-- Bytes that egress SRTP will add to a frame. -/
def State.egressGrowth (s : State) (f : QFrame) : Nat :=
  if f.srtp = 0 then 0 else suiteGrowth (s.key (s.egressKey f) Key.SUITE) (f.srtp = 2)

/-- Length as transmitted, padding and FCS included (05 R148, R155). -/
def State.txLen (s : State) (f : QFrame) : Nat :=
  let n := if f.ring then f.body.length else s.headOut f.cgid + (s.clearPayload f).length
  max 64 (n + s.egressGrowth f + 4)

/-- A frame comes from a double-encrypted source (03 R90). -/
def State.fromDouble (s : State) (f : QFrame) : Bool :=
  match f.pkt with
  | some id => (s.pkt id).any fun p => p.srtp.suite = 5 || p.srtp.suite = 6
  | none => false

/-- The egress check that a frame fails, 0 for none (03 R494). -/
def State.frameCheck (s : State) (f : QFrame) : Nat :=
  if f.srtp = 0 then 0
  else s.egressCheck f.cgid (s.egressKey f) (f.srtp = 2) (s.fromDouble f) (s.txLen f)

/-- The bytes of a frame before its FCS, encrypted where it is to be, and the state after (03 R87, 05 R136). A ring frame
with SRTCP 1 that carries no UDP goes as posted, with the index, USED and the counters advanced (DESIGN CHOICE,
log 32). -/
def State.frameBytes (s : State) (port : Nat) (f : QFrame) : List Byte × State :=
  if f.srtp = 0 then (f.body, s)
  else
    let pay := s.clearPayload f
    let (out, t) := s.seal f.cgid (port / 8) (s.egressKey f) (f.srtp = 2) f.rw.out pay (s.txLen f)
    if f.ring then
      match udpAt f.body with
      | some (ip, l4, v6) => (t.refit f.cgid f.body ip l4 v6 out, t)
      | none => (f.body, t)
    else (t.buildFrame f.cgid out, t)

end Sys2Proof.Machine
end

