-- ==== Sys2Proof/Machine/Transmit.lean ====
section
/-! DEFINITION. Transmission (05 R147 to R164, R493): gate lists, transmit selection, the end of a frame, port
configuration, transmit rings, and the management port's frames (14 R416 to R418, 15 R444). -/

namespace Sys2Proof.Machine

/-! ## Gate control lists (R155 to R160); times are ns of the port's time base -/

/-- Value of a port's time base in 2^−16 ns. -/
def State.portTime (s : State) (port : Nat) : Nat := (s.tb (s.get F.PRT_PORT_CFG.TB port)).total

/-- Entry of a list at a phase of its cycle: its number, gates and the phase at which it ends. An entry past the cycle is
cut; the last one holds to the cycle's end. -/
def entryAt (cycle phase : Nat) : List (Nat × Nat) → Nat → Nat → Nat × Nat × Nat
  | [], i, _ => (i, 0, cycle)
  | [(g, _)], i, _ => (i, g, cycle)
  | (g, iv) :: es, i, sum =>
    if phase < sum + iv then (i, g, min cycle (sum + iv)) else entryAt cycle phase es (i + 1) (sum + iv)

/-- Entry number and gates of a list at time t (2^−16 ns), and when they end (2^−16 ns). -/
def Gcl.at (g : Gcl) (t : Nat) : Nat × Nat × Nat :=
  let ph := (t - g.start * 65536) / 65536 % g.cycle
  let base := (t / 65536 - ph) * 65536
  let (i, gates, stop) := entryAt g.cycle ph g.entries 0 0
  (i, gates, base + stop * 65536)

/-- The list in force at time t: the pending one from its start (R158). -/
def State.gclAt (s : State) (port t : Nat) : Option Gcl :=
  match Tbl.at none s.tm.gclPend port with
  | some g => if g.start * 65536 ≤ t then some g else Tbl.at none s.tm.gclAct port
  | none => Tbl.at none s.tm.gclAct port

/-- When the gate of queue q first closes between t and t1, under the lists as they stand. -/
def State.closing (s : State) (port q t1 : Nat) : Nat → Nat → Option Nat
  | 0, _ => none
  | fuel + 1, t =>
    if t1 ≤ t then none
    else
      let pend := (Tbl.at none s.tm.gclPend port).bind fun g => if t < g.start * 65536 then some (g.start * 65536) else none
      match s.gclAt port t with
      | none =>
        match pend with
        | none => none
        | some b => s.closing port q t1 fuel b
      | some g =>
        let (_, gates, stop) := g.at t
        if bitAt gates q then s.closing port q t1 fuel (match pend with | some b => min stop b | none => stop) else some t

/-- The gate of queue q stays open from t to t1 (R155). -/
def State.openThrough (s : State) (port q t1 fuel t : Nat) : Bool := (s.closing port q t1 fuel t).isNone

/-- Entries that a frame's time can pass, with the lists' starts. -/
def TxFrame.span (t : TxFrame) : Nat := t.t1 / 65536 - t.t0 / 65536 + 3

/-- When the gate of a frame in transmission closes under the lists that have come into force by now: a pending list that
starts during the frame takes the place of the one before (R158, R160). -/
def State.closesAt (s : State) (port : Nat) (t : TxFrame) : Option Nat :=
  match Tbl.at none s.tm.gclPend port with
  | none => t.closes
  | some g =>
    let b := g.start * 65536
    if t.t0 < b && b ≤ s.portTime port then (t.closes.filter (· ≤ b)).or (s.closing port t.queue t.t1 t.span b) else t.closes

/-- The frame in transmission takes note of when its gate closes, by the time given. -/
def State.noteClose (s : State) (port : Nat) (keep : Nat → Bool) : State :=
  match s.sending port with
  | none => s
  | some t =>
    let x := { t with closes := (s.closesAt port t).filter keep }
    { s with tm := { s.tm with tx := Tbl.put none s.tm.tx port (some x) } }

/-- Longest time for which queue q's gate stays open, in ns, counted across the cycle boundary; none for ever (R160). -/
def Gcl.longest (g : Gcl) (q : Nat) : Option Nat :=
  let n := g.entries.length
  let segs := ((List.range n).foldl (fun (acc : List (Bool × Nat) × Nat) i =>
    let e := g.entries.getD i (0, 0)
    let d := if i + 1 = n then g.cycle - acc.2 else min e.2 (g.cycle - acc.2)
    (acc.1 ++ [(bitAt e.1 q, d)], acc.2 + d)) ([], 0)).1.filter fun x => x.2 ≠ 0
  if segs.all (·.1) then none
  else some ((segs ++ segs).foldl (fun (acc : Nat × Nat) x =>
    if x.1 then (acc.1 + x.2, max acc.2 (acc.1 + x.2)) else (0, acc.2)) (0, 0)).2

/-- Line time of a frame of len bytes, in 2^−16 ns, rounded up. -/
def State.lineTime (s : State) (port len : Nat) : Nat := ceilDiv ((len + 20) * 8 * 65536) (s.portRate port)

/-- A frame of len bytes can never start under a list. -/
def State.neverFits (s : State) (port q len : Nat) (g : Gcl) : Bool :=
  (g.longest q).any fun n => n * 65536 < s.lineTime port len

/-- A head frame can never start: too long for the list in force and for the one that waits (R160). -/
def State.gateDrops (s : State) (port q len : Nat) : Bool :=
  match s.gclAt port (s.portTime port) with
  | none => false
  | some g => s.neverFits port q len g && ((Tbl.at none s.tm.gclPend port).all (s.neverFits port q len))

/-- The gate rule of R155 for a frame that would start now. -/
def State.gateFits (s : State) (port q len : Nat) : Bool :=
  let t := s.portTime port
  let d := s.lineTime port len
  s.openThrough port q (t + d) (d / 65536 + 3) t

/-- Entries 0 to n − 1 as LOAD copies them. -/
def State.gclEntries (s : State) (port n : Nat) : List (Nat × Nat) :=
  (List.range n).map fun i =>
    (s.get F.TM_GCL_ENTRY.GATES (port * 128 + i), s.get F.TM_GCL_ENTRY.INTERVAL (port * 128 + i))

/-- Start of a list loaded at T_a, and LATE (R156). -/
def gclStart (base cycle ta : Nat) : Nat × Bool :=
  if ta ≤ base * 65536 then (base, false)
  else (base + ceilDiv (ta + 2 * cycle * 65536 - base * 65536) (cycle * 65536) * cycle, true)

/-- LOAD of a port (R156, R157). -/
def State.gclLoad (s : State) (port : Nat) : State :=
  let n := s.get F.TM_GCL_CFG.LEN port
  let cycle := s.get F.TM_GCL_CFG.CYCLE port
  let ns := s.get F.TM_GCL_BASE_NS.NS port
  let es := s.gclEntries port n
  if n = 0 || 128 < n || cycle = 0 || 1000000000 ≤ ns || es.any (·.2 = 0) then s.flag F.TM_GCL_STATUS.REFUSED port true
  else
    let (start, late) := gclStart (s.get F.TM_GCL_BASE_SEC.SEC port * 1000000000 + ns) cycle (s.portTime port)
    let s := { s with tm := { s.tm with gclPend := Tbl.put none s.tm.gclPend port (some ⟨start, cycle, es⟩) } }
    let s := (s.flag F.TM_GCL_STATUS.PENDING port true).flag F.TM_GCL_STATUS.LATE port late
    let s := s.flag F.TM_GCL_STATUS.REFUSED port false
    (s.put F.TM_GCL_START_SEC.SEC port (start / 1000000000)).put F.TM_GCL_START_NS.NS port (start % 1000000000)

/-- DISABLE of a port: a gate that has not closed by now does not close (R159). -/
def State.gclDisable (s : State) (port : Nat) : State :=
  let s := s.noteClose port (· ≤ s.portTime port)
  let s := { s with tm := { s.tm with
    gclPend := Tbl.put none s.tm.gclPend port none, gclAct := Tbl.put none s.tm.gclAct port none } }
  (s.flag F.TM_GCL_STATUS.PENDING port false).flag F.TM_GCL_STATUS.ACTIVE port false

/-- A command of TM_GCL_CMD, started and ended in one step; a reserved OP does nothing. -/
def State.gclCommand (s : State) (port op : Nat) : State :=
  let s := s.put F.TM_GCL_CMD.OP port op
  match op % 4 with
  | 1 => s.gclLoad port
  | 2 => s.gclDisable port
  | _ => s

/-- LOAD (R156). -/
def execLoad (port : Nat) (s : State) : Out := s.whenLive fun s => s.gclCommand port 1

/-- DISABLE (R159). -/
def execDisable (port : Nat) (s : State) : Out := s.whenLive fun s => s.gclCommand port 2

/-- GCL_START: the pending list comes into force at its start (R158). -/
def execGclStart (port : Nat) (s : State) : Out :=
  s.whenLive fun s =>
    match Tbl.at none s.tm.gclPend port with
    | none => s
    | some g =>
      let t := s.portTime port
      if t < g.start * 65536 then s
      else
        let s := s.noteClose port fun _ => true
        let s := { s with tm := { s.tm with
          gclAct := Tbl.put none s.tm.gclAct port (some g), gclPend := Tbl.put none s.tm.gclPend port none } }
        let s := (s.flag F.TM_GCL_STATUS.PENDING port false).flag F.TM_GCL_STATUS.ACTIVE port true
        s.put F.TM_GCL_STATUS.CUR port (g.at t).1

/-- GCL_ENTRY_CHANGE: the entry of the list in force at this time (R158). -/
def execGclEntryChange (port : Nat) (s : State) : Out :=
  s.whenLive fun s =>
    match Tbl.at none s.tm.gclAct port with
    | none => s
    | some g => s.put F.TM_GCL_STATUS.CUR port (g.at (s.portTime port)).1

/-! ## Transmit selection (R148 to R151) -/

/-- A frame of a ring with PTP 1 is released without transmission: an entry with NOSTAMP (13 R392). -/
def State.noStamp (s : State) (port : Nat) (f : QFrame) : State :=
  if f.ptp = 1 then s.txqPush port (wd (f.ptpId * 2 ^ 56 + 2 ^ 55)) 0 else s

/-- A copy may begin: its verdicts are final, or it may be cut through (R151). -/
def State.mayBegin (s : State) (port : Nat) (f : QFrame) : Bool :=
  match f.pkt with
  | none => true
  | some id =>
    match s.pkt id with
    | none => false
    | some p =>
      let done := !p.authOpen && !p.fcsOpen
      let cut := s.car f.cgid Car.IPV6 = 0 && s.car f.cgid Car.UDP_CSUM = 0 && !p.is Tag.INJ
        && s.portRate port ≤ s.portRate (p.get Tag.PORT)
      !p.dead && (done || cut)

/-- What becomes of a head frame that can begin: dropped by egress SRTP, dropped for a poisoned egress record, dropped by
the gate rule, or kept. -/
def State.purgeHead (s : State) (port q : Nat) : Option State :=
  match s.queue port q with
  | [] => none
  | f :: rest =>
    let pop := s.setQueue port q rest
    if !s.mayBegin port f then none
    else
      let check := s.frameCheck f
      if f.srtp ≠ 0 && s.poisoned 2 f.cgid then
        let pipe := match f.pkt.bind s.pkt with
          | some p => p.get Tag.PIPE
          | none => pipeOf port
        some (((pop.inc F.FWD_STALE_CNT.CNT pipe).noStamp port f).dropFrame f)
      else if check ≠ 0 then some (((pop.countEgressDrop f.cgid (port / 8) check).noStamp port f).dropFrame f)
      else if s.gateDrops port q (s.txLen f) then
        some (((pop.inc F.TM_PORT_GATE_DROP_CNT.CNT port).noStamp port f).dropFrame f)
      else none

/-- Drop heads of a queue until one is kept. -/
def State.purge (port q : Nat) : Nat → State → State
  | 0, s => s
  | fuel + 1, s =>
    match s.purgeHead port q with
    | none => s
    | some t => State.purge port q fuel t

/-- A queue is eligible (R148). -/
def State.eligibleQ (s : State) (port q : Nat) : Bool :=
  match s.queue port q with
  | [] => false
  | f :: _ => s.mayBegin port f && s.gateFits port q (s.txLen f)

/-- drr_len of a queue's head: length as transmitted plus OVH of the port's LPROF. -/
def State.drrLen (s : State) (port q : Nat) : Int :=
  match s.queue port q with
  | [] => 0
  | f :: _ => (s.txLen f : Int) + sext (s.get F.TM_LEN_PROF.OVH (s.get F.TM_PORT_CFG.LPROF port)) 8

/-- The queue after q in the round. -/
def nextQueue (q : Nat) : Nat := if q = 7 then 4 else q + 1

/-- State of the round robin of a queue. -/
def State.setDrr (s : State) (port q : Nat) (deficit : Int) (credited : Bool) : State :=
  { s with tm := { s.tm with
    deficit := Tbl.put 0 s.tm.deficit (qkey port q) deficit
    credited := Tbl.put false s.tm.credited (qkey port q) credited } }

/-- The pointer of a port's round robin. -/
def State.setPtr (s : State) (port q : Nat) : State :=
  { s with tm := { s.tm with ptr := Tbl.put 4 s.tm.ptr port q } }

/-- QUANTUM of a queue; 0 is treated as 1. -/
def State.quantum (s : State) (port q : Nat) : Nat := max 1 (s.get F.TM_PQ_CFG.QUANTUM (qkey port q))

/-- Deficit round robin over the eligible queues of 4 to 7: the queue to serve (R148). -/
def State.drr (port : Nat) (elig : Nat → Bool) : Nat → State → Option Nat × State
  | 0, s => (none, s)
  | fuel + 1, s =>
    let q := Tbl.at 4 s.tm.ptr port
    let d := Tbl.at 0 s.tm.deficit (qkey port q)
    let pass := fun (t : State) (d : Int) => State.drr port elig fuel ((t.setDrr port q d false).setPtr port (nextQueue q))
    if elig q then
      let d := if Tbl.at false s.tm.credited (qkey port q) then d else d + s.quantum port q
      if s.drrLen port q ≤ d then (some q, s.setDrr port q (d - s.drrLen port q) true)
      else pass s d
    else pass s d

/-- Rounds that the longest frame can need, four queues each. -/
def State.drrFuel (s : State) (port : Nat) : Nat :=
  4 * ((List.range 4).foldl (fun m k => max m (s.drrLen port (4 + k)).toNat) 0 + 260)

/-- The queue that the port serves next (R148). -/
def State.select (s : State) (port : Nat) : Option Nat × State :=
  match (List.range 4).find? (s.eligibleQ port) with
  | some q => (some q, s)
  | none =>
    if (List.range 4).any fun k => s.eligibleQ port (4 + k) then
      State.drr port (s.eligibleQ port) (s.drrFuel port) s
    else (none, s)

/-- The transmit stamp of a frame that starts now (13 R390). -/
def State.txStamp (s : State) (port : Nat) : Nat :=
  portStamp (s.portTime port) (sext (s.get F.TIM_PORT_CORR.TX_CORR port) 32)

/-- One-step insertion of a frame as it starts: its bytes and the state after (13 R394, R395). -/
def State.stamp (s : State) (port : Nat) (f : QFrame) (bytes : List Byte) : List Byte × State :=
  if f.ptp = 2 then
    match oneStep bytes f.ptpOff (s.txStamp port) with
    | some new => (new, s)
    | none => (bytes, s.inc F.TIM_ONESTEP_SKIP_CNT.CNT port)
  else (bytes, s)

/-- The head frame of a queue starts. -/
def State.startFrame (s : State) (port q : Nat) : State :=
  match s.queue port q with
  | [] => s
  | f :: rest =>
    let len := s.txLen f
    let (bytes, t) := s.frameBytes port f
    let (bytes, t) := t.stamp port f (padFrame bytes)
    let t := t.setQueue port q rest
    let t0 := t.portTime port
    let x : TxFrame := { queue := q, frame := f, bytes := bytes, t0 := t0, t1 := t0 + t.lineTime port len
                         stamp := s.txStamp port }
    let t := { t with tm := { t.tm with tx := Tbl.put none t.tm.tx port (some x) } }
    if 4 ≤ q && rest = [] then (t.setDrr port q 0 false).setPtr port (nextQueue q) else t

/-- TRANSMIT_SELECTION: an idle port drops heads that can never be sent, picks a queue and starts its head frame. Media
ports transmit nothing once the media plane is stopped (16 R460). -/
def execTransmitSelection (port : Nat) (s : State) : Out :=
  s.whenReady fun s =>
    if !s.isPort port || s.err.mediaStopped || (s.sending port).isSome then s
    else
      let s := (List.range 8).foldl (fun t q => State.purge port q ((t.queue port q).length) t) s
      match s.select port with
      | (some q, t) => t.startFrame port q
      | (none, t) => t

/-- FRAME_TRANSMIT_END: the FCS of the frame in transmission is sent once both verdicts on its packet are final; the frame
leaves its queue's depth and is counted, and a PTP 1 frame's entry is made (R147, R493, 13 R391). -/
def execFrameTransmitEnd (port : Nat) (s : State) : Out :=
  s.whenReady fun s =>
    match s.sending port with
    | none => s
    | some t =>
      let wait := match t.frame.pkt.bind s.pkt with
        | some p => p.authOpen || p.fcsOpen
        | none => false
      if wait then s
      else
        let wire := wireBytes t.bytes true
        let len := wire.length
        let cut := (s.closesAt port t).isSome
        let s := { s with tm := { s.tm with
          tx := Tbl.put none s.tm.tx port none, sent := Tbl.put none s.tm.sent port (some (wire, true)) } }
        let s := (s.inc F.PRT_TX_FRM_CNT.CNT port).add F.PRT_TX_OCT_CNT.CNT port len
        let k := qkey port t.queue
        let s := (s.inc F.TM_Q_TX_FRM_CNT.CNT k).add F.TM_Q_TX_OCT_CNT.CNT k len
        let s := if cut then s.inc F.TM_PORT_GATE_OVR_CNT.CNT port else s
        (s.txqEnd port t false).dropFrame t.frame

/-! ## Port configuration (R34, R150) -/

/-- Every frame that a port's queues hold is released and counted (R150). -/
def State.releasePort (s : State) (port : Nat) : State :=
  (List.range 8).foldl (fun t q =>
    (t.queue port q).foldl (fun u f => ((u.dropTxDis port).noStamp port f).dropFrame f) (t.setQueue port q [])) s

/-- A write of PRT_PORT_CFG: MAX_LEN stores the nearer bound; clearing TX_EN releases the queued frames. -/
def State.portCfgWrite (s : State) (port : Nat) (v : Word) : State :=
  let was := s.isSet F.PRT_PORT_CFG.TX_EN port
  let w := mergeWrite .PRT_PORT_CFG (s.reg .PRT_PORT_CFG port) v
  let t := s.setReg .PRT_PORT_CFG port (setFld w 6 14 (clampNat (fld v 6 14) 1518 9216))
  if was && !bitAt v.toNat 1 then t.releasePort port else t

/-- The port whose lane this is under its group's width. -/
def State.portOfLane (s : State) (lane : Nat) : Nat := lane - lane % 2 ^ s.get F.PRT_GRP_CFG.WIDTH (lane / 8)

/-- A lane transmits electrical idle: until TX_EN of its port is 1, and from step 1 of full reset (17 R486, 16 R466). -/
def State.laneIdle (s : State) (lane : Nat) : Bool :=
  decide (s.rst.step ≠ 5) || !s.isSet F.PRT_PORT_CFG.TX_EN (s.portOfLane lane)

/-- PRT_PORT_CFG_WRITE. -/
def execPrtPortCfgWrite (port : Nat) (value : Word) (s : State) : Out :=
  s.whenLive fun s => if s.isPort port then s.portCfgWrite port value else s

/-! ## Transmit rings (R161 to R163) -/

/-- A ring frame is taken into the packet buffer and enqueued, or refused (R152, R162). A frame with CHARGE passes R140
on the port that its descriptor names (DEDUCED, log 32). -/
def State.sendRing (s : State) (ring w1 w2 : Nat) (bs : List Byte) : Bool × State :=
  let f := fun lo n => bitsOf w1 lo n
  let port := f 37 8
  let q := f 34 3
  let cgid := f 47 17
  match s.admitFrame (s.get F.TM_TXR_CFG.DCLASS ring) bs.length bs with
  | (none, t) => (false, t)
  | (some cells, t) =>
    let n := ceilDiv bs.length 256
    let (ok, t) :=
      if f 46 1 = 1 then t.enqCheck (pipeOf port) cgid port q n (bs.length + 4)
      else if !t.isSet F.PRT_PORT_CFG.TX_EN port then (false, t.dropTxDis port)
      else if t.queueFull port q n then (false, t.inc F.TM_Q_DROP_CNT.CNT (qkey port q))
      else (true, t)
    if ok then
      (true, t.enqueue port q
        { body := bs, ring := true, cells := cells, depth := n, cgid := cgid, srtp := 2 * f 45 1
          ptp := f 32 2, ptpId := f 24 8, ptpOff := bitsOf w2 0 9 })
    else (false, t.freeCells cells)

/-- TX_RING_FRAME. -/
def execTxRingFrame (ring : Nat) (s : State) : Out :=
  s.whenReady fun s => if ring < 16 then s.takeTx (.media ring) 9216 fun t w1 w2 bs => t.sendRing ring w1 w2 bs else s

/-! ## Management port (14 R416 to R418, 15 R444) -/

/-- A frame leaves the management port. -/
def State.mgtSend (s : State) (bs : List Byte) : State :=
  ({ s with ctl := { s.ctl with mgtSent := some bs } }).inc F.CTL_MGT_TX_FRM_CNT.CNT 0

/-- MGT_TX_FRAME: a frame of the root of trust that waits, or else the next frame of the transmit ring (log 33). -/
def execMgtTxFrame (s : State) : Out :=
  s.whenReady fun s =>
    match s.ctl.rotTx with
    | f :: rest => ({ s with ctl := { s.ctl with rotTx := rest } }).mgtSend f
    | [] => s.takeTx .mgt 1522 fun t _ _ bs => (true, t.mgtSend bs)

/-- The management MAC accepts a destination (R417). -/
def State.mgtAccepts (s : State) (dst : List Byte) : Bool :=
  dst = s.mgtMac || dst = List.replicate 6 255
    || (bitAt (byteAt dst 0) 0 && s.isSet F.CTL_MGT_CFG.MCAST_EN 0)

/-- The UDP payload of a frame to port 39810 of a claimed address. -/
def State.rotDatagram (s : State) (fb : List Byte) : Option (List Byte) :=
  let (ip, ty) := ipAt fb
  if ty = 0x0800 && byteAt fb (ip + 9) = 17 then
    let l4 := ip + byteAt fb ip % 16 * 4
    if s.claimV4 = some (slice fb (ip + 16) 4) && beAt fb (l4 + 2) 2 = 39810 then
      some (slice fb (l4 + 8) (beAt fb (l4 + 4) 2 - 8))
    else none
  else if ty = 0x86DD && byteAt fb (ip + 6) = 17 then
    if s.claimV6 = some (slice fb (ip + 24) 16) && beAt fb (ip + 42) 2 = 39810 then
      some (slice fb (ip + 48) (beAt fb (ip + 44) 2 - 8))
    else none
  else none

/-- The answer to an ARP request for the claimed IPv4 address. -/
def State.arpAnswer (s : State) (fb : List Byte) : Option (List Byte) :=
  let (o, ty) := ipAt fb
  if ty = 0x0806 && beAt fb (o + 6) 2 = 1 && s.claimV4 = some (slice fb (o + 24) 4) then
    some (slice fb (o + 8) 6 ++ s.bootMac ++ slice fb 12 (o - 12) ++ slice fb o 6 ++ beBytes 2 2
      ++ s.bootMac ++ slice fb (o + 24) 4 ++ slice fb (o + 8) 10)
  else none

/-- The answer to an IPv6 neighbor solicitation for the claimed address: an advertisement with MGT_MAC (log 27). -/
def State.ndAnswer (s : State) (fb : List Byte) : Option (List Byte) :=
  let (o, ty) := ipAt fb
  let target := slice fb (o + 48) 16
  if ty = 0x86DD && byteAt fb (o + 6) = 58 && byteAt fb (o + 40) = 135 && s.claimV6 = some target then
    let src := slice fb (o + 8) 16
    let anon := src = List.replicate 16 0
    let dst := if anon then beBytes 16 (0xFF02 * 2 ^ 112 + 1) else src
    let body := fun sum => [136, 0] ++ beBytes 2 sum ++ beBytes 4 (if anon then 0x20000000 else 0x60000000) ++ target
      ++ [2, 1] ++ s.bootMac
    let sum := inetSum (target ++ dst ++ beBytes 4 32 ++ beBytes 4 58 ++ body 0)
    some (slice fb 6 6 ++ s.bootMac ++ slice fb 12 (o - 12) ++ beBytes 4 0x60000000 ++ beBytes 2 32 ++ [58, 255]
      ++ target ++ dst ++ body sum)
  else none

/-- An accepted management frame is steered (R417, 15 R444). -/
def State.mgtSteer (s : State) (fb : List Byte) : State :=
  match s.rotDatagram fb with
  | some udp => s.netArrive fb udp (!bitAt (byteAt fb 0) 0)
  | none =>
    let s := match (s.arpAnswer fb).or (s.ndAnswer fb) with
      | some f => s.rotSend f
      | none => s
    s.deliver .mgt 0 0 fb

/-- Frames leave the receive crossing in order, each once nothing holds it: the producer of the rings' items, or HBM
(01 R21). -/
def State.mgtTake (s : State) : List (List Byte) → State
  | [] => s
  | f :: rest =>
    let t := s.attempt fun s => ({ s with ctl := { s.ctl with mgtRx := rest } }).mgtSteer f
    if t.ctl.mgtRx = f :: rest then t else t.mgtTake rest

/-- The receive crossing gives on what it can. -/
def State.mgtDrain (s : State) : State := s.mgtTake s.ctl.mgtRx

/-- Bytes of the management receive crossing (01 R21). -/
def mgtCrossing : Nat := 8192

/-- An accepted frame enters the receive crossing; one that finds it full is dropped whole and counted (R418). -/
def State.mgtEnter (s : State) (fb : List Byte) : State :=
  let s := s.inc F.CTL_MGT_RX_FRM_CNT.CNT 0
  if (s.ctl.mgtRx.map List.length).sum + fb.length ≤ mgtCrossing then
    { s with ctl := { s.ctl with mgtRx := s.ctl.mgtRx ++ [fb] } }
  else s.inc F.CTL_MGT_RX_OVF_CNT.CNT 0

/-- MGT_FRAME_RECEIVE: a frame with its FCS reaches the management MAC. -/
def execMgtFrameReceive (bytes : List Byte) (fcsOk : Bool) (s : State) : Out :=
  s.whenLive fun s =>
    if bytes.length < 64 || 1522 < bytes.length || !fcsOk then s.inc F.CTL_MGT_RX_ERR_CNT.CNT 0
    else if beAt bytes 12 2 = 0x8808 || !s.mgtAccepts (slice bytes 0 6) then s
    else (s.mgtEnter (bytes.take (bytes.length - 4))).mgtDrain

end Sys2Proof.Machine
end

