-- ==== Sys2Proof/Machine/Depacketize.lean ====
section
/-! DEFINITION. The payload formats that a decode engine takes apart (10 R310, R311, R313): H.264 (RFC 6184), H.265
(RFC 7798), VP8 (RFC 7741), VP9 (RFC 9628) and AV1 (AV1 RTP payload specification 1.0) (log 27: PRESUMED). -/

namespace Sys2Proof.Machine

/-- What a packet gives: whether its structure is accepted, whether it is marked as a start and as an end, its bitstream
bytes (for AV1 its payload, joined over the frame's packets), what it says of its frame, the AV1 structure and the VP9
picture group in force after it. -/
structure Piece where
  good : Bool
  first : Bool := false
  last : Bool := false
  bytes : List Byte := []
  link : FrameLink := {}
  av1 : Option Av1 := none
  group : Option (Nat × List (List Nat)) := none

/-- Payload of an RTP packet without its padding. -/
def rtpBody (rtp : List Byte) : List Byte :=
  let b := rtp.drop (rtpHeader rtp 0)
  if bitAt (byteAt rtp 0) 5 then b.take (b.length - byteAt rtp (rtp.length - 1)) else b

/-- The M bit of an RTP packet. -/
def rtpM (rtp : List Byte) : Bool := bitAt (byteAt rtp 1) 7

/-- NAL units, each behind its start code (Annex B). -/
def annexB (nals : List (List Byte)) : List Byte := nals.flatMap ([0, 0, 0, 1] ++ ·)

/-- The units of an aggregation packet: a 16-bit size and as many bytes each, to the packet's end. -/
def aggregated : Nat → List Byte → Option (List (List Byte))
  | 0, _ => none
  | fuel + 1, bs =>
    if bs = [] then some []
    else
      let n := beAt bs 0 2
      if n = 0 || bs.length < 2 + n then none
      else (aggregated fuel (bs.drop (2 + n))).map ((bs.drop 2).take n :: ·)

/-! ## H.264 and H.265 -/

/-- An H.264 NAL unit that is skipped (R303). -/
def h264Skipped (nal : List Byte) : Bool :=
  let ty := byteAt nal 0 % 32
  ty = 14 || ty = 15 || ty = 20

/-- An H.264 NAL unit that begins a picture: the slice of its first macroblock, or a unit that comes before a picture's
slices (log 47). -/
def h264Begins (nal : List Byte) : Bool :=
  let ty := byteAt nal 0 % 32
  if ty = 1 || ty = 2 || ty = 5 then bitAt (byteAt nal 1) 7 else (6 ≤ ty && ty ≤ 9) || (16 ≤ ty && ty ≤ 18)

/-- An H.264 payload: single NAL unit, STAP-A or FU-A. -/
def h264Piece (pay : List Byte) (m : Bool) : Piece :=
  let ty := byteAt pay 0 % 32
  let units := fun (ns : List (List Byte)) =>
    let kept := ns.filter fun n => !h264Skipped n
    ({ good := true, first := kept.head?.any h264Begins, last := m, bytes := annexB kept } : Piece)
  if pay = [] then { good := false }
  else if 1 ≤ ty && ty ≤ 23 then units [pay]
  else if ty = 24 then
    match aggregated pay.length (pay.drop 1) with
    | some (n :: ns) => 
      if (n :: ns).all fun x => 1 ≤ byteAt x 0 % 32 && byteAt x 0 % 32 ≤ 23 then units (n :: ns) else { good := false }
    | _ => { good := false }
  else if ty = 28 then
    let h := byteAt pay 1
    let nal := BitVec.ofNat 8 (byteAt pay 0 / 32 * 32 + h % 32) :: pay.drop 2
    let skip := h264Skipped nal
    if pay.length < 3 || (bitAt h 7 && bitAt h 6) || h % 32 = 0 || 23 < h % 32 then { good := false }
    else if bitAt h 7 then
      { good := true, first := !skip && h264Begins nal, last := m, bytes := if skip then [] else annexB [nal] }
    else { good := true, last := m, bytes := if skip then [] else pay.drop 2 }
  else { good := false }

/-- Type of an H.265 NAL unit. -/
def h265Type (nal : List Byte) : Nat := byteAt nal 0 / 2 % 64

/-- An H.265 NAL unit that begins a picture: its first slice segment, or a unit that comes before a picture's slices
(log 47). -/
def h265Begins (nal : List Byte) : Bool :=
  let ty := h265Type nal
  if ty ≤ 31 then bitAt (byteAt nal 2) 7
  else (32 ≤ ty && ty ≤ 35) || ty = 39 || (41 ≤ ty && ty ≤ 44)

/-- An H.265 payload: single NAL unit, AP or FU, without DONL fields. -/
def h265Piece (pay : List Byte) (m : Bool) : Piece :=
  let ty := h265Type pay
  let units := fun (ns : List (List Byte)) =>
    ({ good := true, first := ns.head?.any h265Begins, last := m, bytes := annexB ns } : Piece)
  if pay.length < 3 then { good := false }
  else if ty ≤ 47 then units [pay]
  else if ty = 48 then
    match aggregated pay.length (pay.drop 2) with
    | some (a :: b :: ns) =>
      if (a :: b :: ns).all fun x => 2 ≤ x.length && h265Type x ≤ 47 then units (a :: b :: ns) else { good := false }
    | _ => { good := false }
  else if ty = 49 then
    let h := byteAt pay 2
    let nal := BitVec.ofNat 8 (byteAt pay 0 / 128 * 128 + h % 64 * 2 + byteAt pay 0 % 2) :: pay.drop 1 |>.eraseIdx 2
    if pay.length < 4 || (bitAt h 7 && bitAt h 6) || 47 < h % 64 then { good := false }
    else if bitAt h 7 then { good := true, first := h265Begins nal, last := m, bytes := annexB [nal] }
    else { good := true, last := m, bytes := pay.drop 3 }
  else { good := false }

/-- One byte of an Annex B scan: zeros seen, the unit being read (none before the first start code), the units before. -/
def annexStep (acc : Nat × Option (List Byte) × List (List Byte)) (b : Byte) : Nat × Option (List Byte) × List (List Byte) :=
  let (z, cur, done) := acc
  if b = 1 && 2 ≤ z then
    (0, some [], match cur with | some n => done ++ [n.take (n.length - z)] | none => done)
  else (if b = 0 then z + 1 else 0, cur.map (· ++ [b]), done)

/-- NAL units of an Annex B stream. -/
def annexUnits (bs : List Byte) : List (List Byte) :=
  let (z, cur, done) := bs.foldl annexStep (0, none, [])
  match cur with
  | some n => done ++ [n.take (n.length - z)]
  | none => done

/-! ## VP8 and VP9 -/

/-- Picture ID at an offset and the number it counts modulo. -/
def pictureId (pay : List Byte) (o : Nat) : Nat × Nat :=
  if 128 ≤ byteAt pay o then (beAt pay o 2 % 32768, 32768) else (byteAt pay o, 128)

/-- A VP8 payload; a frame follows the base layer frame of its TL0PICIDX, or the picture ID before its own (R313;
log 47). -/
def vp8Piece (pay : List Byte) (m : Bool) : Piece :=
  let d := byteAt pay 0
  let x := if bitAt d 7 then byteAt pay 1 else 0
  let o := if bitAt d 7 then 2 else 1
  let (pid, modulus) := pictureId pay o
  let o1 := if bitAt x 7 then pastPictureId pay o else o
  let o2 := if bitAt x 6 then o1 + 1 else o1
  let o3 := if bitAt x 5 || bitAt x 4 then o2 + 1 else o2
  let first := bitAt d 4 && d % 8 = 0
  let key := first && !bitAt (byteAt pay o3) 0
  let tid := byteAt pay o2 / 64
  let tl0 := byteAt pay o1
  let link : FrameLink :=
    if bitAt x 5 && bitAt x 6 then
      ⟨if tid = 0 then some (tl0, 1) else none,
        if key then [] else if tid = 0 then [((tl0 + 255) % 256, 1)] else [(tl0, 1)]⟩
    else if bitAt x 7 then ⟨some (pid, 0), if key then [] else [((pid + modulus - 1) % modulus, 0)]⟩
    else {}
  if pay.length ≤ o3 then { good := false }
  else { good := true, first := first, last := m, bytes := pay.drop o3, link := link }

/-- The P_DIFF bytes of a VP9 descriptor in flexible mode, at most three, and the offset after them. -/
def vp9Diffs (pay : List Byte) : Nat → Nat → List Nat × Nat
  | 0, o => ([], o)
  | k + 1, o =>
    let b := byteAt pay o
    if b % 2 = 1 then let (ds, o) := vp9Diffs pay k (o + 1); (b / 2 :: ds, o) else ([b / 2], o + 1)

/-- The pictures of a VP9 picture group: the differences of each, and the offset after them. -/
def vp9Group (pay : List Byte) : Nat → Nat → List (List Nat) × Nat
  | 0, o => ([], o)
  | k + 1, o =>
    let r := byteAt pay o / 4 % 4
    let (gs, o') := vp9Group pay k (o + 1 + r)
    ((List.range r).map (fun i => byteAt pay (o + 1 + i)) :: gs, o')

/-- A VP9 payload: a frame references the picture IDs that its differences name, in its spatial layer, and with D the
layer below of its own picture (R313; log 47). -/
def vp9Piece (group : Option (Nat × List (List Nat))) (pay : List Byte) : Piece :=
  let d := byteAt pay 0
  let o := if bitAt d 7 then pastPictureId pay 1 else 1
  let (pid, modulus) := pictureId pay 1
  let lay := if bitAt d 5 then byteAt pay o else 0
  let o := if bitAt d 5 then (if bitAt d 4 then o + 1 else o + 2) else o
  let (own, o) := if bitAt d 4 && bitAt d 6 then vp9Diffs pay 3 o else ([], o)
  let ss := byteAt pay o
  let v := bitAt d 1
  let o := if v then o + 1 + (if bitAt ss 4 then 4 * (ss / 32 + 1) else 0) else o
  let (pics, o) := if v && bitAt ss 3 then vp9Group pay (byteAt pay o) (o + 1) else ([], o)
  let group := if v then (if pics = [] then none else some (pid, pics)) else group
  let diffs :=
    if !bitAt d 6 then []
    else if bitAt d 4 then own
    else match group with
      | some (base, gs) => gs.getD ((pid + modulus - base % modulus) % modulus % gs.length) [1]
      | none => [1]
  let sid := lay / 2 % 8
  let needs := diffs.map (fun k => ((pid + modulus - k % modulus) % modulus, sid)) ++ if bitAt lay 0 then [(pid, sid - 1)] else []
  if pay.length ≤ o then { good := false, group := group }
  else
    { good := true, first := bitAt d 3, last := bitAt d 2, bytes := pay.drop o, group := group
      link := if bitAt d 7 then ⟨some (pid, sid), needs⟩ else {} }

/-! ## AV1 -/

/-- A leb128 number and the bytes after it. -/
def readLeb : Nat → List Byte → Option (Nat × List Byte)
  | 0, _ => none
  | _, [] => none
  | fuel + 1, b :: bs =>
    if b.toNat < 128 then some (b.toNat, bs)
    else (readLeb fuel bs).map fun r => (b.toNat % 128 + 128 * r.1, r.2)

/-- A number as leb128. -/
def lebBytes : Nat → Nat → List Byte
  | 0, _ => []
  | fuel + 1, n => if n < 128 then [BitVec.ofNat 8 n] else BitVec.ofNat 8 (n % 128 + 128) :: lebBytes fuel (n / 128)

/-- OBU elements of a payload behind its aggregation header; w is its W field. -/
def obuElems : Nat → Nat → List Byte → Option (List (List Byte))
  | 0, _, _ => none
  | fuel + 1, w, bs =>
    if w = 1 then some [bs]
    else if bs = [] then (if w = 0 then some [] else none)
    else match readLeb 8 bs with
      | none => none
      | some (n, rest) =>
        if rest.length < n then none else (obuElems fuel (w - 1) (rest.drop n)).map (rest.take n :: ·)

/-- Elements of an AV1 payload. -/
def av1Elems (pay : List Byte) : Option (List (List Byte)) :=
  if pay.length < 2 then none else obuElems (pay.length + 1) (byteAt pay 0 / 16 % 4) (pay.drop 1)

/-- The OBUs of a frame from its payloads in order: with Z the first element goes on with the last OBU before. -/
def joinObus (pays : List (List Byte)) : List (List Byte) :=
  pays.foldl (fun acc pay =>
    match av1Elems pay, acc.getLast? with
    | some (e :: es), some l => if bitAt (byteAt pay 0) 7 then acc.dropLast ++ (l ++ e) :: es else acc ++ e :: es
    | some es, _ => acc ++ es
    | none, _ => acc) []

/-- An OBU with its size field. -/
def sizedObu (obu : List Byte) : List Byte :=
  let h := byteAt obu 0
  let k := if bitAt h 2 then 2 else 1
  if bitAt h 1 then obu
  else BitVec.ofNat 8 (h + 2) :: (obu.drop 1).take (k - 1) ++ lebBytes 8 (obu.length - k) ++ obu.drop k

/-- An AV1 packet with the dependency descriptor of extension ID dd; without one its structure is not accepted. -/
def av1Piece (held : Option Av1) (dd : Nat) (rtp pay : List Byte) : Piece :=
  match if dd = 0 then none else (allElems rtp 0).find? (·.id = dd) with
  | none => { good := false, av1 := held }
  | some e =>
    let d := slice rtp e.off e.len
    let num := beAt d 1 2
    match av1Elems pay, ddDiffs held d with
    | some _, some (diffs, a) =>
      { good := true, first := bitAt (byteAt d 0) 7, last := bitAt (byteAt d 0) 6, bytes := pay, av1 := some a
        link := ⟨some (num, 0), diffs.map fun k => ((num + 65536 - k % 65536) % 65536, 0)⟩ }
    | _, r => { good := false, av1 := r.map (·.2) }

/-! ## A packet and a frame -/

/-- A packet of a stream of a codec, taken apart. dd is the extension ID of its dependency descriptor. -/
def depacketize (codec dd : Nat) (held : Option Av1) (group : Option (Nat × List (List Nat))) (rtp : List Byte) : Piece :=
  let pay := rtpBody rtp
  let p := match codec with
    | 0 => h264Piece pay (rtpM rtp)
    | 1 => h265Piece pay (rtpM rtp)
    | 2 => vp8Piece pay (rtpM rtp)
    | 3 => vp9Piece group pay
    | _ => av1Piece held dd rtp pay
  { p with av1 := if codec = 4 then p.av1 else held, group := if codec = 3 then p.group else group }

/-- Bitstream bytes of a frame from what its packets gave, in order. -/
def codedBytes (codec : Nat) (parts : List (List Byte)) : List Byte :=
  if codec = 4 then (joinObus parts).flatMap sizedObu else parts.flatten

/-- A raw frame without the NAL units that are skipped (R303, R318). -/
def rawFrame (codec : Nat) (bs : List Byte) : List Byte :=
  if codec = 0 then annexB ((annexUnits bs).filter fun n => !h264Skipped n) else bs

end Sys2Proof.Machine
end

