-- ==== Sys2Proof/Machine/Packetize.lean ====
section
/-! DEFINITION. How an encode engine puts a rung frame into RTP packets (10 R325, R326): the dependency descriptor and the
AV1 payload format of MODE 0, RFC 6184 mode 1 of MODES 1 and 2 (log 27: PRESUMED; the choices those formats leave, log 106). -/

namespace Sys2Proof.Machine

/-- Fields of some width each, first one highest, padded with zeros to whole bytes. -/
def packBits (fs : List (Nat × Nat)) : List Byte :=
  let (v, n) := fs.foldl (fun (a : Nat × Nat) f => (a.1 * 2 ^ f.2 + f.1 % 2 ^ f.2, a.2 + f.2)) (0, 0)
  beBytes (ceilDiv n 8) (v * 2 ^ (8 * ceilDiv n 8 - n))

/-- A list in pieces of n, the last one shorter. -/
def chunksOf {α : Type} (n : Nat) : Nat → List α → List (List α)
  | 0, _ => []
  | fuel + 1, xs => if xs.length ≤ n then [xs] else xs.take n :: chunksOf n fuel (xs.drop n)

/-! ## References of a rung frame (R325) -/

/-- References of a rung frame; sw is set for a frame that starts its rung. -/
def rungRefs (mode k : Nat) (sw : Bool) (tl : Nat) : List Config.RungRef :=
  let below := if mode = 0 && k ≠ 0 then [Config.RungRef.below] else []
  if sw then below
  else if tl = 2 then Config.RungRef.prevT0T1 :: below
  else Config.RungRef.prevT0 :: below

/-! ## The dependency descriptor of MODE 0 -/

/-- Templates of a rung: one that starts it, T0, T1, T2; each as layers and whether it starts the rung. -/
def rungTemplates (k : Nat) : List (Nat × Nat × Bool) := [(k, 0, true), (k, 0, false), (k, 1, false), (k, 2, false)]

/-- Place of a rung frame's template among those of its rung. -/
def templateOf (sw : Bool) (tl : Nat) : Nat := if sw then 0 else tl + 1

/-- Indication of a template for the decode target of (S, T): 0 not present, 2 switch, 3 required. It agrees with SWP
(R325). -/
def indication (t : Nat × Nat × Bool) (target : Nat × Nat) : Nat :=
  let (sl, tl, sw) := t
  if target.1 < sl || target.2 < tl then 0
  else if sw then (if sl = 0 || target.1 = sl then 2 else 3)
  else if tl ≠ 0 && target.1 = sl then 2
  else 3

/-- next_layer_idc between two templates. -/
def layerStepOf (a b : Nat × Nat × Bool) : Nat := if b.1 ≠ a.1 then 2 else if b.2.1 ≠ a.2.1 then 1 else 0

/-- The template structure of some rungs, S0 upward: a decode target for each operating point, no template differences,
no chains, no resolutions. -/
def ddStructure (offset : Nat) (ks : List Nat) : List (Nat × Nat) :=
  let ts := ks.flatMap rungTemplates
  let targets := ks.flatMap fun k => [(k, 0), (k, 1), (k, 2)]
  [(offset, 6), (targets.length - 1, 5)]
    ++ (ts.zip (ts.drop 1)).map (fun p => (layerStepOf p.1 p.2, 2)) ++ [(3, 2)]
    ++ ts.flatMap (fun t => targets.map fun d => (indication t d, 2))
    ++ ts.map (fun _ => (0, 1))
    ++ [(0, log2Below 16 (targets.length + 1)), (0, 1)]

/-- A frame's own differences: each with the size of its field, then a size of 0. -/
def ddOwn (diffs : List Nat) : List (Nat × Nat) :=
  diffs.flatMap (fun d =>
    let n := if d ≤ 16 then 1 else if d ≤ 256 then 2 else 3
    [(n, 2), (d - 1, 4 * n)]) ++ [(0, 2)]

/-- A dependency descriptor: marks, template, frame number, the structure where it rides, the frame's differences. -/
def descriptor (first last : Bool) (template number : Nat) (structure_ : Option (List (Nat × Nat))) (diffs : List Nat) :
    List Byte :=
  packBits ([(b2n first, 1), (b2n last, 1), (template, 6), (number, 16), (b2n structure_.isSome, 1), (0, 1), (0, 1), (1, 1),
    (0, 1)] ++ structure_.getD [] ++ ddOwn diffs)

/-- A header extension block of one element: the one-byte form where it fits, else the two-byte form. -/
def extBlock (id : Nat) (data : List Byte) : List Byte :=
  let short := data.length ≤ 16
  let el := if short then BitVec.ofNat 8 (id * 16 + (data.length - 1)) :: data
    else BitVec.ofNat 8 id :: BitVec.ofNat 8 data.length :: data
  let words := ceilDiv el.length 4
  beBytes 2 (if short then 0xBEDE else 0x1000) ++ beBytes 2 words ++ el ++ List.replicate (4 * words - el.length) 0

/-! ## Payloads -/

/-- An AV1 OBU in packets of one element each; fresh marks the first packet of a coded video sequence. -/
def obuPackets (max : Nat) (fresh : Bool) (obu : List Byte) : List (List Byte) :=
  let parts := chunksOf (max - 1) (obu.length + 1) obu
  parts.zipIdx.map fun p =>
    BitVec.ofNat 8 (b2n (p.2 ≠ 0) * 128 + b2n (p.2 + 1 ≠ parts.length) * 64 + 16 + b2n (fresh && p.2 = 0) * 8) :: p.1

/-- Payloads of an AV1 rung frame: on a key frame's S0 its sequence header, then the frame with its layers. -/
def av1Payloads (max k tl : Nat) (key : Bool) (header body : List Byte) : List (List Byte) :=
  let fresh := key && k = 0
  (if fresh then obuPackets max true (0x08 :: header) else [])
    ++ obuPackets max false (0x34 :: BitVec.ofNat 8 (tl * 32 + k * 8) :: body)

/-- An H.264 NAL unit whole where it fits, else as FU-A fragments. -/
def nalPackets (max : Nat) (nal : List Byte) : List (List Byte) :=
  if nal.length ≤ max then [nal]
  else
    let h := byteAt nal 0
    let parts := chunksOf (max - 2) nal.length (nal.drop 1)
    parts.zipIdx.map fun p =>
      BitVec.ofNat 8 (h / 32 * 32 + 28)
        :: BitVec.ofNat 8 (b2n (p.2 = 0) * 128 + b2n (p.2 + 1 = parts.length) * 64 + h % 32) :: p.1

/-- Profile, constraint flags and level of an SPS: Constrained Baseline or High, at most level 4.2 (R304). -/
def spsHead (mode level : Nat) : List Byte :=
  (if mode = 1 then [66, 0xC0] else [100, 0]) ++ [BitVec.ofNat 8 (min level 42)]

/-- Payloads of an H.264 rung frame: an STAP-A with SPS and PPS before an IDR, then its slices; a T2 frame is no
reference. -/
def h264Payloads (max mode tl : Nat) (idr : Bool) (level : Nat) (sps pps : List Byte) (slices : List (List Byte)) :
    List (List Byte) :=
  let unit := fun (n : List Byte) => beBytes 2 n.length ++ n
  let head : Byte := if idr then 0x65 else if tl = 2 then 0x01 else 0x41
  let sets := 0x78 :: unit (0x67 :: spsHead mode level ++ sps) ++ unit (0x68 :: pps)
  (if idr then [sets] else []) ++ (if slices = [] then [[]] else slices).flatMap fun s => nalPackets max (head :: s)

end Sys2Proof.Machine
end

