-- ==== Sys2Proof/Machine/Video.lean ====
section
/-! DEFINITION. What the video engines share (06 R165, R191, R192, 10 R305, R306, 12 R362): their carts, their HBM
accesses, the layout of a picture, how a cart ends. -/

namespace Sys2Proof.Machine

/-! ## Accesses of an engine -/

/-- An engine at work: the state, its port, and why an access of it stopped; after a stop it makes no further access. -/
structure Vio where
  st : State
  q : Src
  stop : MemStop := .ok

/-- The engine has met no fault. -/
def Vio.ok (v : Vio) : Bool := v.stop = .ok

/-- A read; zero after a stop. -/
def Vio.read (v : Vio) (iova len : Nat) : List Byte × Vio :=
  if v.ok then
    let o := v.st.vread v.q iova len
    (slice o.bytes 0 len, { v with st := o.st, stop := o.stop })
  else (List.replicate len 0, v)

/-- A read of one word. -/
def Vio.word (v : Vio) (iova : Nat) : Word × Vio :=
  let (bs, v) := v.read iova 8
  (wd (ofLe bs), v)

/-- A read of n words. -/
def Vio.words (v : Vio) (iova n : Nat) : List Word × Vio :=
  let (bs, v) := v.read iova (8 * n)
  (bytesWords n bs, v)

/-- A write. -/
def Vio.write (v : Vio) (iova : Nat) (data : List Byte) : Vio :=
  if v.ok then
    let o := v.st.vwrite v.q iova data
    { v with st := o.st, stop := o.stop }
  else v

/-- A write of consecutive words. -/
def Vio.put (v : Vio) (iova : Nat) (ws : List Word) : Vio := v.write iova (wordBytes ws)

/-- A change of the rest of the state. -/
def Vio.map (v : Vio) (f : State → State) : Vio := if v.ok then { v with st := f v.st } else v

/-- The reads that an engine makes in an area: whichever lie inside it (log 48). -/
def Vio.look (v : Vio) (base size : Nat) : Vio :=
  let n := v.st.freeCtr
  let v := v.map fun s => { s with freeCtr := n + 1 }
  ((Config.areaReads n size).filter fun r => r.1 + r.2 ≤ size).foldl (fun v r => (v.read (base + r.1) r.2).2) v

/-- The reads and writes that an engine makes in an area of its own: whichever lie inside it (log 48). -/
def Vio.touch (v : Vio) (base size : Nat) : Vio :=
  let v := v.look base size
  ((Config.areaWrites v.st.freeCtr size).filter fun w => w.1 + w.2.length ≤ size).foldl
    (fun v w => v.write (base + w.1) w.2) v

/-! ## Pictures (R305) -/

/-- Bytes of the header page of a picture. -/
def headerPage : Nat := 0x1000

/-- Luma rows held: HEIGHT rounded up to a multiple of 64. -/
def heldRows (h : Nat) : Nat := ceilDiv h 64 * 64

/-- Bands of a picture. -/
def bandsOf (h : Nat) : Nat := ceilDiv h 64

/-- Offset of the chroma plane. -/
def chromaOff (h pitch : Nat) : Nat := headerPage + heldRows h * (pitch * 256)

/-- Bytes of a picture. -/
def pictureBytes (h pitch : Nat) : Nat := headerPage + heldRows h * (pitch * 256) * 3 / 2

/-- Word 1 of a picture. -/
def pictureWord1 (w h pitch fmt bands : Nat) : Word :=
  wd (w % 8192 * 2 ^ 51 + h % 8192 * 2 ^ 38 + pitch % 64 * 2 ^ 32 + fmt % 16 * 2 ^ 28 + bands % 65536)

/-- Word 4 of a picture. -/
def pictureWord4 (key : Bool) (sl tl : Nat) : Word := wd (b2n key * 128 + sl % 4 * 32 + tl % 8 * 4)

/-! ## Carts and their ends -/

/-- The cart of an opcode that an engine of a kind runs. -/
def State.engineOp (s : State) (kind e op : Nat) : Option Cart :=
  (s.engineCart kind e).filter fun c => cartFunc c.words % 256 = op

/-- IOVA of an operand word. -/
def cartIova (c : Cart) (w : Nat) : Nat := fld (c.words.getD w 0) 0 48

/-- An engine's RESULT where the spec gives no code (log 45). -/
def State.engineResult (s : State) (name : Nat) : Word × State :=
  (Config.engineResult name s.freeCtr, { s with freeCtr := s.freeCtr + 1 })

/-- A cart ends OK or ERROR with a RESULT of the engine's own. -/
def State.endNamed (s : State) (c : Cart) (status name : Nat) : State :=
  let (r, s) := s.engineResult name
  s.endCart c.seq status r

/-- Status and end of a cart whose access stopped: XLATE_FAULT, or ERROR MEM with the engine's RESULT (R191, 12 R362). -/
def State.endStopped (s : State) (c : Cart) (stop : MemStop) (name : Nat) : State :=
  if stop = .xlate then s.endCart c.seq 2 0 else s.endNamed c 1 name

end Sys2Proof.Machine
end

