-- ==== Sys2Proof/Machine/VideoEncode.lean ====
section
/-! DEFINITION. Video encode (10 R304, R319 to R328): ladder records, the source frame, hints and rungs, the temporal
pattern, packets, rate control, acceptance. The samples' coding is a free value of Config. -/

namespace Sys2Proof.Machine

namespace LRec
abbrev MODE : RecF := ⟨16, 0, 62, 2⟩
abbrev SRC_W : RecF := ⟨16, 0, 50, 12⟩
abbrev SRC_H : RecF := ⟨16, 0, 38, 12⟩
abbrev FPS : RecF := ⟨16, 0, 32, 6⟩
abbrev KEY_INT : RecF := ⟨16, 0, 20, 12⟩
abbrev MAX_PAY : RecF := ⟨16, 0, 12, 8⟩
abbrev DD_ID : RecF := ⟨16, 0, 8, 4⟩
abbrev PT : RecF := ⟨16, 0, 1, 7⟩
abbrev PIPE : RecF := ⟨16, 1, 1, 3⟩
abbrev ACT_HOLD : RecF := ⟨16, 3, 20, 12⟩
abbrev VBV_MS : RecF := ⟨16, 5, 48, 16⟩
abbrev QP_MIN : RecF := ⟨16, 5, 40, 8⟩
abbrev QP_MAX : RecF := ⟨16, 5, 32, 8⟩
abbrev TS_ORIGIN : RecF := ⟨16, 5, 0, 32⟩
abbrev CTX_BASE : RecF := ⟨16, 6, 0, 48⟩
abbrev OPEN : RecF := ⟨16, 8, 63, 1⟩
abbrev ACTIVE : RecF := ⟨16, 8, 60, 3⟩
abbrev PAT : RecF := ⟨16, 8, 58, 2⟩
abbrev FRAMES : RecF := ⟨16, 8, 0, 48⟩
abbrev DISCARD : RecF := ⟨16, 11, 0, 48⟩
/-- SCID of rung k. -/
def SCID (k : Nat) : RecF := ⟨16, 1, 44 - 20 * k, 20⟩
/-- Target rate of rung k in kb/s. -/
def TBR (k : Nat) : RecF := ⟨16, 4, 44 - 20 * k, 20⟩
/-- SSRC of rung k. -/
def SSRC (k : Nat) : RecF := if k = 0 then ⟨16, 2, 32, 32⟩ else if k = 1 then ⟨16, 2, 0, 32⟩ else ⟨16, 3, 32, 32⟩
/-- Next sequence number of stream k. -/
def SEQ (k : Nat) : RecF := ⟨16, 9, 48 - 16 * k, 16⟩
end LRec

/-! ## Ladders and their hint entries -/

/-- IOVA of a ladder record (R319). -/
def State.ladderRecord (s : State) (l : Nat) : Nat := s.get F.VENC_LTBL.BASE 0 + l * 128

/-- Ladder of a VENC cart as HOME × 256 + LADDER (log 46). -/
def cartLadder (c : Cart) : Nat := (Config.cartLadder (c.words.getD 2 0)).toNat

/-- Hint entry of a ladder. -/
def State.hintEnt (s : State) (l : Nat) : HintEnt := Tbl.at {} s.vid.hints l

/-- Hint entry replaced. -/
def State.setHintEnt (s : State) (l : Nat) (h : HintEnt) : State :=
  { s with vid := { s.vid with hints := Tbl.put {} s.vid.hints l h } }

/-- Three mask bits set in another mask. -/
def or3 (a b : Nat) : Nat := (wd (a % 8) ||| wd (b % 8)).toNat

/-- KF_PEND bits set (R323). -/
def State.pendKf (s : State) (l mask : Nat) : State :=
  let h := s.hintEnt l
  s.setHintEnt l { h with pend := or3 h.pend mask }

/-- The home engine takes an entry of its hints crossing (R323). -/
def State.moveHint (s : State) (e l : Nat) : State :=
  let k := e * 256 + l
  match Tbl.at none s.fwd.hints k with
  | none => s
  | some x =>
    let h := s.hintEnt k
    let s := s.setHintEnt k { h with counts := if x.counts = [] then h.counts else x.counts }
    ({ s with fwd := { s.fwd with hints := Tbl.put none s.fwd.hints k none } }).pendKf k x.mask

/-- HINT_ENTRY_MOVE. -/
def execHintEntryMove (eng ladder : Nat) (s : State) : Out := s.whenClk fun s => s.moveHint eng ladder

/-- A write of VENC_KF_CMD. -/
def State.kfCmd (s : State) (v : Word) : State := s.pendKf (fld v 16 5 * 256 + fld v 8 8) (fld v 0 3)

/-- VENC_KF_CMD_WRITE. -/
def execVencKfCmdWrite (value : Word) (s : State) : Out := s.whenClk fun s => s.kfCmd value

/-! ## The job of an engine -/

/-- The ENCODE that an engine runs. -/
def State.encJob (s : State) (e : Nat) : Option EncJob :=
  match Tbl.at none s.vid.jobs e, s.engineOp 3 e 0x21 with
  | some j, some c => if j.seq = c.seq then some j else none
  | _, _ => none

/-- An engine's job replaced. -/
def State.setJob (s : State) (e : Nat) (j : Option EncJob) : State :=
  { s with vid := { s.vid with jobs := Tbl.put none s.vid.jobs e j } }

/-- Port, engine and domain of an encode engine's accesses. -/
def State.encSrc (s : State) (e : Nat) : Src := ⟨1, e, s.get F.VENC_CFG.DOMAIN 0, e⟩

/-- The engine at work on a cart that starts now. -/
def State.encIo (s : State) (e : Nat) : Vio := { st := s, q := s.encSrc e }

/-- The engine at work on its job, under the domain of the job's start (R328). -/
def State.jobIo (s : State) (e : Nat) (j : EncJob) : Vio := { st := s, q := ⟨1, e, j.domain, e⟩ }

/-- A cart of an encode engine ends with a status and the name of its RESULT; the job is over. -/
def State.endEncode (s : State) (e : Nat) (c : Cart) (status name : Nat) : State :=
  (s.setJob e none).endNamed c status name

/-- An access of the engine stopped. -/
def Vio.endEncode (v : Vio) (e : Nat) (c : Cart) : State := (v.st.setJob e none).endStopped c v.stop 17

/-! ## The source frame (R321) -/

/-- FRAME_ID that an ENCODE expects. -/
def encFrameId (c : Cart) : Word := c.words.getD 7 0

/-- Read rows of a plane: n bytes at each of some rows. -/
def Vio.readRows (v : Vio) (base stride n : Nat) : List Nat → List (List Byte) × Vio
  | [] => ([], v)
  | r :: rs =>
    let (bs, v) := v.read (base + r * stride) n
    let (rest, v) := v.readRows base stride n rs
    (bs :: rest, v)

/-- Read every band of a picture: its luma rows, then its chroma rows. -/
def Vio.readPicture (v : Vio) (base w h pitch : Nat) : List (List Byte) × Vio :=
  let (luma, v) := v.readRows (base + headerPage) (pitch * 256) w (List.range h)
  let (chroma, v) := v.readRows (base + chromaOff h pitch) (pitch * 256) w (List.range (h / 2))
  (luma ++ chroma, v)

/-- A source header that is not SRC_W by SRC_H in NV12. -/
def srcMismatch (j : EncJob) (w1 : Word) : Bool :=
  fld w1 51 13 ≠ wordsGet j.words LRec.SRC_W || fld w1 38 13 ≠ wordsGet j.words LRec.SRC_H || fld w1 28 4 ≠ 0

/-- Bytes of a ladder's state area (R319). -/
def ladderArea (ws : List Word) : Nat :=
  let w := wordsGet ws LRec.SRC_W
  let h := wordsGet ws LRec.SRC_H
  let p (k : Nat) := pictureBytes (h / 2 ^ k) (ceilDiv (w / 2 ^ k) 256)
  65536 + 3 * (p 0 + p 1 + p 2)

/-- A look at the source: with FOLLOW 0 it must be whole; with FOLLOW 1 it is taken once word 0 is right and every band
is done (R321). -/
def State.encPoll (s : State) (e : Nat) (c : Cart) (j : EncJob) : State :=
  let p := cartIova c 3
  let follow := bitAt (c.words.getD 2 0).toNat 39
  let (w0, v) := (s.jobIo e j).word p
  let (w7, v) := if follow then (encFrameId c, v) else v.word (p + 56)
  let (w1, v) := v.word (p + 8)
  if !v.ok then v.endEncode e c
  else if w0 ≠ encFrameId c || w7 ≠ encFrameId c then
    if follow then v.st else v.st.endEncode e c 1 13
  else if srcMismatch j w1 then v.st.endEncode e c 1 15
  else
    let h := wordsGet j.words LRec.SRC_H
    if follow && fld w1 0 16 < bandsOf h then v.st
    else
      let (rows, v) := v.readPicture p (wordsGet j.words LRec.SRC_W) h (fld w1 32 6)
      let v := v.touch (wordsGet j.words LRec.CTX_BASE) (ladderArea j.words)
      if v.ok then v.st.setJob e (some { j with got := true, rows := rows }) else v.endEncode e c

/-- ENCODE starts: NOT_OPEN, or the hint entry is read once and the source looked at; a later one looks again
(R320, R321, R323). -/
def State.encode (s : State) (e : Nat) : State :=
  match s.engineOp 3 e 0x21 with
  | none => s
  | some c =>
    match s.encJob e with
    | some j => if j.got then s else s.encPoll e c j
    | none =>
      let l := cartLadder c
      let (ws, v) := (s.encIo e).words (s.ladderRecord l) 16
      if !v.ok then v.endEncode e c
      else if wordsGet ws LRec.OPEN = 0 then v.st.endEncode e c 1 12
      else
        let j : EncJob :=
          { seq := c.seq, ladder := l, domain := s.get F.VENC_CFG.DOMAIN 0, record := s.ladderRecord l
            words := ws, hint := v.st.hintEnt l, start := s.clock }
        (v.st.setJob e (some j)).encPoll e c j

/-- ENCODE. -/
def execEncode (eng : Nat) (s : State) : Out := s.whenClkReady fun s => s.encode eng

/-- FOLLOW_MS of an ENCODE in CLK_TIME cycles. -/
def followTime (c : Cart) : Nat := fld (c.words.getD 5 0) 0 16 * 1000000

/-- A following ENCODE that has not got its whole source in FOLLOW_MS ends SRC_TIMEOUT (R321). -/
def State.encTimeout (s : State) (e : Nat) : State :=
  match s.encJob e, s.engineOp 3 e 0x21 with
  | some j, some c =>
    if bitAt (c.words.getD 2 0).toNat 39 && !j.got && j.start + followTime c ≤ s.clock then s.endEncode e c 1 14 else s
  | _, _ => s

/-- ENCODE_SRC_TIMEOUT. -/
def execEncodeSrcTimeout (eng : Nat) (s : State) : Out := s.whenClk fun s => s.encTimeout eng

/-! ## Rungs and the temporal pattern (R324, R325) -/

/-- Rungs of a source, S0 to S2. -/
def rungs : List Nat := [0, 1, 2]

/-- Rung k is wanted (R324). -/
def wanted (h : HintEnt) (l : Ladder) (k : Nat) : Bool :=
  h.counts.getD k 0 ≠ 0 || bitAt h.pend k || l.hold.getD k 0 ≠ 0

/-- Active rungs of a frame (R324; log 50). -/
def activeRungs (mode : Nat) (h : HintEnt) (l : Ladder) : List Nat :=
  rungs.filter fun k => k = 0 || (if mode = 0 then rungs.any fun j => k ≤ j && wanted h l j else wanted h l k)

/-- Mask of some rungs. -/
def rungMask (ks : List Nat) : Nat := ks.foldl (fun n k => n + 2 ^ k) 0

/-- A frame is a key frame (R325; log 50). -/
def isKey (j : EncJob) (l : Ladder) : Bool :=
  let int := wordsGet j.words LRec.KEY_INT
  l.force || (int ≠ 0 && int ≤ l.since) || bitAt j.hint.pend 0

/-- Position of a frame in the temporal pattern (R325; log 50). -/
def patternPos (j : EncJob) (l : Ladder) : Nat :=
  if j.hint.pend ≠ 0 || isKey j l then 0 else wordsGet j.words LRec.PAT

/-- TL and SWP of a rung frame (R325). -/
def rungLayer (key served : Bool) (pos : Nat) : Nat × Bool :=
  if key || served then (0, true) else if pos = 0 then (0, false) else if pos = 2 then (1, true) else (2, true)

/-- Rung k is encoded as a switch point: served, or newly active (R324, R325). -/
def rungServed (j : EncJob) (k : Nat) : Bool := bitAt j.hint.pend k || !bitAt (wordsGet j.words LRec.ACTIVE) k

/-- INJ word of a packet of a rung frame (R325, 07 R233). -/
def rungInj (k tl : Nat) (swp : Bool) : Word := wd (2 ^ 19 + k % 4 * 2 ^ 17 + tl % 8 * 2 ^ 14 + b2n swp * 2 ^ 13)

/-! ## Packets (R326) -/

/-- RTP timestamp of a frame. -/
def encTs (c : Cart) (words : List Word) : Nat := ((encFrameId c).toNat * 90 + wordsGet words LRec.TS_ORIGIN) % 2 ^ 32

/-- Luma samples of a rung across or down, S2 having the source's (R304). -/
def rungSize (n k : Nat) : Nat := n / 2 ^ (2 - k)

/-- A rung frame starts its rung: of a key frame, served, or newly active (R324, R325). -/
def rungStarts (j : EncJob) (l : Ladder) (k : Nat) : Bool := isKey j l || rungServed j k

/-- What a rung frame is to be, with a quantizer and those of the rungs below. -/
def rungSpec (j : EncJob) (l : Ladder) (k qp : Nat) (lower : List Nat) : Config.RungSpec :=
  let g := wordsGet j.words
  let starts := rungStarts j l k
  let tl := (rungLayer (isKey j l) (rungServed j k) (patternPos j l)).1
  { mode := g LRec.MODE, rung := k, width := rungSize (g LRec.SRC_W) k, height := rungSize (g LRec.SRC_H) k
    fps := g LRec.FPS, key := isKey j l, starts := starts, tl := tl, refs := rungRefs (g LRec.MODE) k starts tl
    qp := qp, lower := lower }

/-- Payloads of a rung frame, none longer than MAX_PAY × 8 bytes but for parameter sets. -/
def payloads (j : EncJob) (l : Ladder) (spec : Config.RungSpec) : List (List Byte) :=
  let max := wordsGet j.words LRec.MAX_PAY * 8
  let data := Config.codedSlices l.hist spec j.rows
  let head := Config.sequenceHeader l.hist spec
  if spec.mode = 0 then av1Payloads max spec.rung spec.tl spec.key head data.flatten
  else h264Payloads max spec.mode spec.tl spec.starts (Config.codedLevel l.hist spec) head
    (Config.pictureHeader l.hist spec) data

/-! ## Rate control (R327) -/

/-- Bits of a rung frame. -/
def rungBits (j : EncJob) (l : Ladder) (spec : Config.RungSpec) : Nat :=
  8 * (Config.codedSlices l.hist spec j.rows).flatten.length

/-- The buffer of a rung before a frame, in bits × FPS; one that becomes active resumes from an empty one. -/
def bufferOf (j : EncJob) (l : Ladder) (k : Nat) : Nat :=
  if bitAt (wordsGet j.words LRec.ACTIVE) k then l.buffer.getD k 0 else 0

/-- A rung frame fits its buffer of VBV_MS × TBR bits. -/
def holdsRate (j : EncJob) (l : Ladder) (spec : Config.RungSpec) : Bool :=
  let g := wordsGet j.words
  bufferOf j l spec.rung + rungBits j l spec * g LRec.FPS ≤ g LRec.VBV_MS * g (LRec.TBR spec.rung) * g LRec.FPS

/-- The quantizer of a rung frame: one of QP_MIN to QP_MAX that holds the rate, QP_MAX where none does. -/
def rungQp (j : EncJob) (l : Ladder) (k : Nat) (lower : List Nat) : Nat :=
  let lo := wordsGet j.words LRec.QP_MIN
  let hi := wordsGet j.words LRec.QP_MAX
  let able := ((List.range (hi + 1 - lo)).map (lo + ·)).filter fun q => holdsRate j l (rungSpec j l k q lower)
  able.getD (Config.quantizer l.hist k % max 1 able.length) hi

/-- The active rungs' frames, each with its quantizer, lowest rung first. -/
def rungFrames (j : EncJob) (l : Ladder) : List Nat → List Nat → List Config.RungSpec
  | [], _ => []
  | k :: ks, lower =>
    let qp := rungQp j l k lower
    rungSpec j l k qp lower :: rungFrames j l ks (lower ++ [qp])

/-- The buffer of a rung after a frame: it drains at TBR per frame time. -/
def bufferNext (j : EncJob) (l : Ladder) (spec : Config.RungSpec) : Nat :=
  let g := wordsGet j.words
  bufferOf j l spec.rung + rungBits j l spec * g LRec.FPS - g (LRec.TBR spec.rung) * 1000

/-! ## The dependency descriptor's part of a ladder (R326) -/

/-- Frame number of a rung of this picture, S0 first. -/
def rungNumber (l : Ladder) (k : Nat) : Nat := (l.number + k) % 65536

/-- Frame number differences of a rung frame. -/
def rungDiffs (l : Ladder) (spec : Config.RungSpec) : List Nat :=
  let n := rungNumber l spec.rung
  spec.refs.map fun r =>
    let old := match r with
      | .prevT0 => l.lastT0.getD spec.rung 0
      | .prevT0T1 => l.lastRef.getD spec.rung 0
      | .below => rungNumber l (spec.rung - 1)
    (n + 65536 - old % 65536) % 65536

/-- A frame carries the template structure: a key frame, or one whose active rungs differ from the last one's. -/
def newTemplates (j : EncJob) (l : Ladder) (ks : List Nat) : Bool := isKey j l || wordsGet j.words LRec.ACTIVE ≠ rungMask ks

/-- Template offset and count of a frame's structure. -/
def templatesOf (j : EncJob) (l : Ladder) (ks : List Nat) : Nat × Nat :=
  if newTemplates j l ks then ((l.templates.1 + l.templates.2) % 64, 4 * ks.length) else l.templates

/-- Extension block of packet i of n of a rung frame in MODE 0. -/
def rungExt (j : EncJob) (l : Ladder) (ks : List Nat) (spec : Config.RungSpec) (i n : Nat) : List Byte :=
  let (offset, _) := templatesOf j l ks
  let carried := if newTemplates j l ks && spec.rung = 0 && i = 0 then some (ddStructure offset ks) else none
  extBlock (wordsGet j.words LRec.DD_ID) (descriptor (i = 0) (i + 1 = n)
    ((offset + 4 * spec.rung + templateOf spec.starts spec.tl) % 64) (rungNumber l spec.rung) carried (rungDiffs l spec))

/-- An RTP packet of a ladder; MODE 0 carries the dependency descriptor in its extension block. -/
def rtpPacket (words : List Word) (marker : Bool) (seq ts ssrc : Nat) (ext : Option (List Byte)) (body : List Byte) :
    List Byte :=
  [BitVec.ofNat 8 (if ext.isSome then 0x90 else 0x80),
    BitVec.ofNat 8 (b2n marker * 128 + wordsGet words LRec.PT)]
    ++ beBytes 2 seq ++ beBytes 4 ts ++ beBytes 4 ssrc ++ ext.getD [] ++ body

/-- Packets of rung frames in order, with the sequence numbers after them; all is every active rung. -/
def rungPackets (c : Cart) (j : EncJob) (l : Ladder) (all : List Nat) :
    List Config.RungSpec → List Word → List Inj × List Word
  | [], ws => ([], ws)
  | f :: fs, ws =>
    let k := f.rung
    let mode := wordsGet ws LRec.MODE
    let stream := if mode = 0 then 0 else k
    let (tl, swp) := rungLayer (isKey j l) (rungServed j k) (patternPos j l)
    let ps := payloads j l f
    let seq := wordsGet ws (LRec.SEQ stream)
    let last := mode ≠ 0 || fs = []
    let pkts := (List.range ps.length).map fun i =>
      let ext := if mode = 0 then some (rungExt j l all f i ps.length) else none
      let rtp := rtpPacket ws (last && i + 1 = ps.length) (seq + i) (encTs c ws) (wordsGet ws (LRec.SSRC stream)) ext
        (ps.getD i [])
      (⟨wordsGet ws (LRec.SCID stream), rtp, rungInj k tl (swp && i = 0)⟩ : Inj)
    let (rest, ws) := rungPackets c j l all fs (wordsSet ws (LRec.SEQ stream) (seq + ps.length))
    (pkts ++ rest, ws)

/-- Luma samples of some rungs (R304). -/
def rungPixels (words : List Word) (ks : List Nat) : Nat :=
  ks.foldl (fun n k => n + rungSize (wordsGet words LRec.SRC_W) k * rungSize (wordsGet words LRec.SRC_H) k) 0

/-- What the engines keep of a ladder after an accepted frame (R324 to R327). -/
def ladderNext (n : Nat) (j : EncJob) (l : Ladder) (fs : List Config.RungSpec) : Ladder :=
  let key := isKey j l
  let ks := fs.map (·.rung)
  let frameOf := fun k => fs.find? fun f => f.rung = k
  { hold := rungs.map fun k => if bitAt j.hint.pend k then wordsGet j.words LRec.ACT_HOLD else l.hold.getD k 0 - 1
    since := if key then 0 else l.since + 1, force := false, hist := Config.encoderNext l.hist n
    number := (l.number + ks.length) % 65536
    lastT0 := rungs.map fun k => if (frameOf k).any fun f => f.tl = 0 then rungNumber l k else l.lastT0.getD k 0
    lastRef := rungs.map fun k => if (frameOf k).any fun f => f.tl ≤ 1 then rungNumber l k else l.lastRef.getD k 0
    templates := templatesOf j l ks
    buffer := rungs.map fun k => match frameOf k with | some f => bufferNext j l f | none => 0 }

/-- What a frame's acceptance will write (R322 to R327). -/
def encDone (s : State) (c : Cart) (j : EncJob) (l : Ladder) (ws : List Word) (fs : List Config.RungSpec) : EncDone :=
  let ks := fs.map (·.rung)
  let ws := wordsSet ws LRec.ACTIVE (rungMask ks)
  let ws := wordsSet ws LRec.PAT (patternPos j l + 1)
  let ws := wordsSet ws LRec.FRAMES (wordsGet ws LRec.FRAMES + 1)
  { words := [ws.getD 8 0, ws.getD 9 0, encFrameId c]
    ladder := ladderNext s.freeCtr j l fs
    served := j.hint.pend
    pixels := rungPixels ws ks }

/-- What the engines keep of a ladder replaced. -/
def State.setLadder (s : State) (l : Nat) (x : Ladder) : State :=
  { s with vid := { s.vid with ladders := Tbl.put {} s.vid.ladders l x } }

/-- Every active rung has been encoded: words 0 and 7 of the source are read again; torn, or its packets stand ready
(R322). -/
def State.encFinish (s : State) (e : Nat) (c : Cart) (j : EncJob) : State :=
  let (w0, v) := (s.jobIo e j).word (cartIova c 3)
  let (w7, v) := v.word (cartIova c 3 + 56)
  let rec11 := j.record + 88
  if !v.ok then v.endEncode e c
  else if w0 ≠ encFrameId c || w7 ≠ encFrameId c then
    let (w, v) := v.word rec11
    let v := (v.put rec11 [setFld w 0 48 (fld w 0 48 + 1)]).map fun s => s.inc F.VENC_ENG_DISC_CNT.CNT e
    if v.ok then v.st.endEncode e c 1 16 else v.endEncode e c
  else
    let l := Tbl.at {} v.st.vid.ladders j.ladder
    let ks := activeRungs (wordsGet j.words LRec.MODE) j.hint l
    let fs := rungFrames j l ks []
    let (pkts, ws) := rungPackets c j l ks fs j.words
    let done := encDone v.st c j l ws fs
    let t := { v.st with freeCtr := v.st.freeCtr + 1 }
    t.setJob e (some { j with out := pkts, pipe := wordsGet ws LRec.PIPE, done := some done })

/-- Packets enter the injection queue in order until it is full (R326); what is left waits. -/
def State.injectSome (s : State) (e pipe : Nat) : List Inj → List Inj × State
  | [] => ([], s)
  | i :: is =>
    if injDepth ≤ (Tbl.at [] s.ing.injq pipe).length then (i :: is, s)
    else ((s.injectPkt pipe i).inc F.VENC_ENG_PKT_CNT.CNT e).injectSome e pipe is

/-- All packets have been injected: the frame is accepted (R322, R323). -/
def State.encAccept (s : State) (e : Nat) (c : Cart) (j : EncJob) (x : EncDone) : State :=
  let n := s.freeCtr
  let own := [Config.engineWord n, Config.engineWord (n + 1), Config.engineWord (n + 2), Config.engineWord (n + 3)]
  let s := { s with freeCtr := n + 4 }
  let r := j.record
  let v := ((s.jobIo e j).put (r + 64) x.words).put (r + 96) own
  if !v.ok then v.endEncode e c
  else
    let h := v.st.hintEnt j.ladder
    let t := (v.st.setHintEnt j.ladder { h with pend := maskOff3 h.pend x.served }).setLadder j.ladder x.ladder
    ((t.inc F.VENC_ENG_FRM_CNT.CNT e).add F.VENC_ENG_PIX_CNT.CNT e x.pixels).endEncode e c 0 18
where
  /-- Three mask bits cleared. -/
  maskOff3 (a b : Nat) : Nat := nand64 a (7 - b % 8)

/-- A frame whose source is whole is encoded, injected as far as the queue takes it, and accepted once all is in. -/
def State.frameAccept (s : State) (e : Nat) : State :=
  match s.engineOp 3 e 0x21, s.encJob e with
  | some c, some j =>
    if !j.got then s
    else
      let s := if j.done.isNone then s.encFinish e c j else s
      match s.encJob e with
      | none => s
      | some j => match j.done with
        | none => s
        | some x =>
          let (rest, s) := s.injectSome e j.pipe j.out
          if rest = [] then s.encAccept e c j x else s.setJob e (some { j with out := rest })
  | _, _ => s

/-- ENCODE_FRAME_ACCEPT. -/
def execEncodeFrameAccept (eng : Nat) (s : State) : Out := s.whenClkReady fun s => s.frameAccept eng

/-! ## Opening and closing (R320) -/

/-- Words 0 to 6 of a ladder record that LADDER_OPEN refuses (R304, R319). -/
def badLadder (ws : List Word) : Bool :=
  let g := wordsGet ws
  let bit (w lo len : Nat) := fld (ws.getD w 0) lo len ≠ 0
  g LRec.MODE = 3 || g LRec.SRC_W < 64 || 1920 < g LRec.SRC_W || g LRec.SRC_W % 8 ≠ 0
    || g LRec.SRC_H < 64 || 1088 < g LRec.SRC_H || g LRec.SRC_H % 8 ≠ 0
    || g LRec.FPS = 0 || 60 < g LRec.FPS || g LRec.MAX_PAY < 25 || 175 < g LRec.MAX_PAY
    || (g LRec.MODE = 0 && (g LRec.DD_ID = 0 || g LRec.DD_ID = 15)) || g LRec.CTX_BASE % 4096 ≠ 0
    || bit 0 0 1 || bit 1 0 1 || bit 3 0 20 || bit 4 0 4 || bit 6 48 16

/-- LADDER_OPEN: words 8 to 15 set anew, KF_PEND cleared, the next frame a key frame. LAST_ID, DISCARD and the opaque words
take values the spec does not give; the reserved bits of word 11 are zero (R319, R320; log 48). -/
def State.ladderOpen (s : State) (e : Nat) : State :=
  match s.engineOp 3 e 0x20 with
  | none => s
  | some c =>
    let l := cartLadder c
    let r := s.ladderRecord l
    let (ws, v) := (s.encIo e).words r 7
    if !v.ok then v.endEncode e c
    else if badLadder ws then v.st.endEncode e c 1 11
    else
      let n := v.st.freeCtr
      let new := [wd (2 ^ 63), 0] ++ (List.range 6).map fun i =>
        if i = 1 then Config.engineWord (n + i) &&& wd (2 ^ 48 - 1) else Config.engineWord (n + i)
      let v := (v.map fun s => { s with freeCtr := n + 7 }).put (r + 64) new
      if !v.ok then v.endEncode e c
      else
        let h := v.st.hintEnt l
        let x : Ladder := { force := true, hist := Config.free 46 (n + 6) }
        ((v.st.setHintEnt l { h with pend := 0 }).setLadder l x).endEncode e c 0 18

/-- LADDER_OPEN. -/
def execLadderOpen (eng : Nat) (s : State) : Out := s.whenClkReady fun s => s.ladderOpen eng

/-- LADDER_CLOSE: OPEN cleared. -/
def State.ladderClose (s : State) (e : Nat) : State :=
  match s.engineOp 3 e 0x22 with
  | none => s
  | some c =>
    let r := s.ladderRecord (cartLadder c) + 64
    let (w, v) := (s.encIo e).word r
    let v := v.put r [setFld w 63 1 0]
    if v.ok then v.st.endEncode e c 0 18 else v.endEncode e c

/-- LADDER_CLOSE. -/
def execLadderClose (eng : Nat) (s : State) : Out := s.whenClkReady fun s => s.ladderClose eng

/-- CLK_VID cycles since release (00 clock domains). -/
def State.vidNow (s : State) : Nat := s.clock * 6 / 5

/-- Engines held by a full injection queue count n CLK_VID cycles (R326). -/
def State.holdCycles (s : State) (n : Nat) : State :=
  (List.range 32).foldl (fun t e =>
    match t.encJob e with
    | some j => if j.out ≠ [] && injDepth ≤ (Tbl.at [] t.ing.injq j.pipe).length then t.add F.VENC_ENG_HOLD_CNT.CNT e n else t
    | none => t) s

end Sys2Proof.Machine
end

