-- ==== Sys2Proof/Machine/Clock.lean ====
section
/-! DEFINITION. What passes while no command waits: one CLK_TIME cycle (13 R381; log 1). -/

namespace Sys2Proof.Machine

/-- Cycles of a clock of num / 10 GHz in the CLK_TIME cycle that begins at clock n. -/
def cyclesOf (num n : Nat) : Nat := (n + 1) * num / 10 - n * num / 10

/-- CLK_VID cycles in one CLK_TIME cycle that begins at clock n. -/
def vidCycles (n : Nat) : Nat := cyclesOf 12 n

/-- CLK_VID counters over one CLK_TIME cycle: THERM_TRIP stops that clock (10 R326, 16 R460). -/
def State.countVid (s : State) : State := if s.err.clkStopped then s else s.holdCycles (vidCycles s.clock)

/-- Frequency of a requestor port's domain in 0.1 GHz (00 clock domains, 12 R354). -/
def portClock (p : Nat) : Nat :=
  if p ≤ 2 then 12 else if p ≤ 6 then 15 else if p = 7 then 12 else if p = 8 then 16 else 20

/-- The clock of a requestor port's domain runs: THERM_TRIP stops those of the Pea pods and the video engines. -/
def State.portRuns (s : State) (p : Nat) : Bool := !(s.err.clkStopped && decide (p ≤ 6))

/-- HBM_PORT_HOLD_CNT over one CLK_TIME cycle: cycles of the requestor's domain with the port full (12). -/
def State.countHolds (s : State) : State :=
  (List.range 12).foldl (fun t p =>
    if s.portFull p && s.portRuns p then t.add F.HBM_PORT_HOLD_CNT.CNT p (cyclesOf (portClock p) s.clock) else t) s

/-- MTIP of every hart after the cycle (14 R405). -/
def State.timers (s : State) : State := (List.range 8).foldl State.setMtip s

/-- The block idles for one CLK_TIME cycle: the time bases advance, the counters of waiting cycles count, and CTL_MTIME
meets the compares; waiting management frames go on. Nothing moves in full reset, halted, or without the core reference. -/
def State.idle (s : State) : State :=
  if s.live && s.rst.refclk then s.countCycles.countVid.countHolds.tick.timers.mgtDrain else s

end Sys2Proof.Machine
end

