-- ==== Sys2Proof/Machine/Compose.lean ====
section
/-! DEFINITION. Video composition (11): layout records and their check, the frame boundary, scaling, blending, the order
of writing, signature regions, coefficient memory. -/

namespace Sys2Proof.Machine

namespace CRec
abbrev OUT_W : RecF := ⟨128, 0, 52, 12⟩
abbrev OUT_H : RecF := ⟨128, 0, 40, 12⟩
abbrev OUT_PITCH : RecF := ⟨128, 0, 34, 6⟩
abbrev ENC_EN : RecF := ⟨128, 0, 33, 1⟩
abbrev NSTORE : RecF := ⟨128, 0, 28, 5⟩
abbrev NOTICE_EN : RecF := ⟨128, 0, 27, 1⟩
abbrev EVQ : RecF := ⟨128, 0, 21, 6⟩
abbrev ENC_IOVA : RecF := ⟨128, 1, 0, 48⟩
abbrev STORE_BASE : RecF := ⟨128, 2, 0, 48⟩
abbrev STORE_BYTES : RecF := ⟨128, 3, 32, 32⟩
abbrev BG_Y : RecF := ⟨128, 3, 24, 8⟩
abbrev BG_CB : RecF := ⟨128, 3, 16, 8⟩
abbrev BG_CR : RecF := ⟨128, 3, 8, 8⟩
abbrev STORE_PUB : RecF := ⟨128, 4, 0, 48⟩
abbrev OPEN : RecF := ⟨128, 5, 63, 1⟩
abbrev STORE_IDX : RecF := ⟨128, 5, 58, 5⟩
abbrev PUB_SEQ : RecF := ⟨128, 5, 0, 32⟩
abbrev FRAMES : RecF := ⟨128, 6, 32, 32⟩
abbrev WITHHELD : RecF := ⟨128, 6, 0, 32⟩
end CRec

/-! Fields of a layer block, as words of the block. -/

namespace Lay
abbrev EN : RecF := ⟨8, 0, 63, 1⟩
abbrev Z : RecF := ⟨8, 0, 60, 3⟩
abbrev KIND : RecF := ⟨8, 0, 58, 2⟩
abbrev FILL_EN : RecF := ⟨8, 0, 57, 1⟩
abbrev FILT : RecF := ⟨8, 0, 53, 4⟩
abbrev ALPHA : RecF := ⟨8, 0, 45, 8⟩
abbrev FILL_Y : RecF := ⟨8, 0, 37, 8⟩
abbrev FILL_CB : RecF := ⟨8, 0, 29, 8⟩
abbrev FILL_CR : RecF := ⟨8, 0, 21, 8⟩
abbrev SRC_IOVA : RecF := ⟨8, 1, 0, 48⟩
abbrev POOL_BASE : RecF := ⟨8, 2, 0, 48⟩
abbrev PIC_BYTES : RecF := ⟨8, 3, 32, 32⟩
abbrev SRC_X : RecF := ⟨8, 4, 51, 13⟩
abbrev SRC_Y : RecF := ⟨8, 4, 38, 13⟩
abbrev SRC_W : RecF := ⟨8, 4, 25, 13⟩
abbrev SRC_H : RecF := ⟨8, 4, 12, 13⟩
abbrev DST_X : RecF := ⟨8, 5, 52, 12⟩
abbrev DST_Y : RecF := ⟨8, 5, 40, 12⟩
abbrev DST_W : RecF := ⟨8, 5, 28, 12⟩
abbrev DST_H : RecF := ⟨8, 5, 16, 12⟩
abbrev HAVE : RecF := ⟨8, 6, 63, 1⟩
abbrev LAST_IDX : RecF := ⟨8, 6, 58, 5⟩
abbrev LAST_SEQ : RecF := ⟨8, 6, 0, 32⟩
abbrev NOT_READY : RecF := ⟨8, 7, 32, 32⟩
abbrev TORN : RecF := ⟨8, 7, 16, 16⟩
abbrev UNFIT : RecF := ⟨8, 7, 0, 16⟩
end Lay

/-! Fields of a region. -/

namespace Rgn
abbrev EN : RecF := ⟨2, 0, 63, 1⟩
abbrev WITHHOLD : RecF := ⟨2, 0, 62, 1⟩
abbrev X : RecF := ⟨2, 0, 50, 12⟩
abbrev Y : RecF := ⟨2, 0, 38, 12⟩
abbrev W : RecF := ⟨2, 0, 26, 12⟩
abbrev H : RecF := ⟨2, 0, 14, 12⟩
abbrev EXPECT : RecF := ⟨2, 1, 32, 32⟩
end Rgn

/-! ## The record check (R330, R338) -/

/-- Words of layer block l. -/
def layerOf (ws : List Word) (l : Nat) : List Word := (ws.drop (8 + 8 * l)).take 8

/-- Words of region g. -/
def regionOf (ws : List Word) (g : Nat) : List Word := (ws.drop (72 + 2 * g)).take 2

/-- A reserved bit of a layout record is one (R329, R330). -/
def badReserved (ws : List Word) : Bool :=
  let f (w lo len : Nat) := fld (ws.getD w 0) lo len ≠ 0
  f 0 0 21 || f 1 48 16 || f 2 48 16 || f 3 0 8 || f 4 48 16 || f 5 32 26 || f 7 0 64
    || ((List.range 8).any fun l => let b := 8 + 8 * l
        f b 0 21 || f (b + 1) 48 16 || f (b + 2) 48 16 || f (b + 3) 0 32 || f (b + 4) 0 12 || f (b + 5) 0 16
          || f (b + 6) 32 26)
    || ((List.range 4).any fun g => f (72 + 2 * g) 0 14)
    || ((List.range 48).any fun i => f (80 + i) 0 64)

/-- The limits of R338 on a crop and its destination. -/
def scalable (sw sh dw dh : Nat) : Bool :=
  let rl := ceilDiv (64 * sh) dh + 3
  let rc := ceilDiv (32 * sh) dh + 3
  sw ≤ 8 * dw && dw ≤ 8 * sw && sh ≤ 8 * dh && dh ≤ 8 * sh && (rl + rc) * dw ≤ 393216

/-- A rectangle with even sides and corners, at least 2 by 2, inside an output. -/
def evenInside (x y w h ow oh : Nat) : Bool :=
  x % 2 = 0 && y % 2 = 0 && w % 2 = 0 && h % 2 = 0 && 2 ≤ w && 2 ≤ h && x + w ≤ ow && y + h ≤ oh

/-- An enabled layer block that R330 refuses. -/
def badLayer (ow oh : Nat) (b : List Word) : Bool :=
  let g := wordsGet b
  g Lay.KIND = 3
    || !evenInside (g Lay.DST_X) (g Lay.DST_Y) (g Lay.DST_W) (g Lay.DST_H) ow oh
    || (g Lay.KIND ≠ 0 && g Lay.SRC_W ≠ 0
        && (g Lay.SRC_X % 2 ≠ 0 || g Lay.SRC_Y % 2 ≠ 0 || g Lay.SRC_W % 2 ≠ 0 || g Lay.SRC_H % 2 ≠ 0
          || g Lay.SRC_H = 0 || !scalable (g Lay.SRC_W) (g Lay.SRC_H) (g Lay.DST_W) (g Lay.DST_H)))

/-- An enabled region that R330 refuses. -/
def badRegion (ow oh : Nat) (r : List Word) : Bool :=
  let g := wordsGet r
  !evenInside (g Rgn.X) (g Rgn.Y) (g Rgn.W) (g Rgn.H) ow oh

/-- Enabled layer blocks in ascending Z. -/
def layersByZ (ws : List Word) : List Nat :=
  (List.range 8).flatMap fun z => (List.range 8).filter fun l =>
    wordsGet (layerOf ws l) Lay.EN = 1 && wordsGet (layerOf ws l) Lay.Z = z

/-- Two layers of a list share a Z. -/
def sharesZ (ws : List Word) : List Nat → Bool
  | [] => false
  | l :: ls => (ls.any fun m => wordsGet (layerOf ws m) Lay.Z = wordsGet (layerOf ws l) Lay.Z) || sharesZ ws ls

/-- Enabled regions. -/
def regionsOf (ws : List Word) : List Nat := (List.range 4).filter fun g => wordsGet (regionOf ws g) Rgn.EN = 1

/-- Rows of the final band. -/
def finalRows (h : Nat) : Nat := h - 64 * ((h - 1) / 64)

/-- A record that R330 refuses. -/
def badLayout (ws : List Word) : Bool :=
  let g := wordsGet ws
  let w := g CRec.OUT_W
  let h := g CRec.OUT_H
  let ls := layersByZ ws
  badReserved ws
    || w < 64 || 1920 < w || w % 8 ≠ 0 || h < 64 || 1088 < h || h % 8 ≠ 0
    || g CRec.OUT_PITCH = 0 || 32 < g CRec.OUT_PITCH || g CRec.OUT_PITCH * 256 < w
    || (g CRec.ENC_EN = 0 && g CRec.NSTORE = 0)
    || (g CRec.NSTORE ≠ 0 && (g CRec.NSTORE < 3 || 16 < g CRec.NSTORE
        || g CRec.STORE_BYTES < pictureBytes h (g CRec.OUT_PITCH)))
    || (g CRec.ENC_EN = 1 && finalRows h * w < 12800)
    || ls.length < 2 || sharesZ ws ls
    || (ls.any fun l => badLayer w h (layerOf ws l))
    || ((regionsOf ws).any fun r => badRegion w h (regionOf ws r))

/-! ## The frame boundary (R335) -/

/-- A picture that a layer shows in a frame: where it is, its id, depth, pitch, height, crop. -/
structure Shown where
  base : Nat
  id : Word
  deep : Bool
  pitch : Nat
  rows : Nat
  x : Nat
  y : Nat
  w : Nat
  h : Nat
  deriving DecidableEq, Repr

/-- What a layer draws. -/
inductive Content where
  | nothing
  | fill
  | picture (p : Shown)
  deriving DecidableEq, Repr

/-- A layer resolved: its block, what it draws, its marks, the publication it shows afresh. -/
structure Layer where
  block : Nat
  words : List Word
  content : Content := .nothing
  notReady : Bool := false
  unfit : Bool := false
  torn : Bool := false
  fresh : Option (Nat × Nat) := none
  deriving DecidableEq, Repr

/-- A picture of an id as a layer would show it, if it fits. -/
def Vio.fitting (v : Vio) (b : List Word) (base : Nat) (id : Word) : Option Shown × Vio :=
  let (w1, v) := v.word (base + 8)
  let g := wordsGet b
  let pw := fld w1 51 13
  let ph := fld w1 38 13
  let whole := g Lay.SRC_W = 0
  let x := if whole then 0 else g Lay.SRC_X
  let y := if whole then 0 else g Lay.SRC_Y
  let w := if whole then pw / 2 * 2 else g Lay.SRC_W
  let h := if whole then ph / 2 * 2 else g Lay.SRC_H
  if fld w1 28 4 ≤ 1 && x + w ≤ pw && y + h ≤ ph && scalable w h (g Lay.DST_W) (g Lay.DST_H) then
    (some ⟨base, id, decide (fld w1 28 4 = 1), fld w1 32 6, ph, x, y, w, h⟩, v)
  else (none, v)

/-- A PUB layer (R335). -/
def Vio.resolvePub (v : Vio) (l : Layer) : Layer × Vio :=
  let g := wordsGet l.words
  let (pub, v) := v.word (g Lay.SRC_IOVA)
  let seq := fld pub 32 32
  let idx := fld pub 0 5
  let p := g Lay.POOL_BASE + idx * g Lay.PIC_BYTES
  let last := g Lay.LAST_SEQ
  let (id, v) := if seq ≠ 0 && seq ≠ last then v.word (p + 56) else (0, v)
  let new := seq ≠ 0 && seq ≠ last && id = wd seq
  let (pic, v) := if new then v.fitting l.words p (wd seq) else (none, v)
  match pic with
  | some x => ({ l with content := .picture x, fresh := some (seq, idx) }, v)
  | none =>
    let l := { l with unfit := new, notReady := true }
    let q := g Lay.POOL_BASE + g Lay.LAST_IDX * g Lay.PIC_BYTES
    if g Lay.HAVE = 0 then (l, v)
    else
      let (id, v) := v.word (q + 56)
      if id ≠ wd last then (l, v)
      else
        let (old, v) := v.fitting l.words q (wd last)
        match old with
        | some x => ({ l with content := .picture x }, v)
        | none => (l, v)

/-- A PIC layer (R335). -/
def Vio.resolvePic (v : Vio) (l : Layer) : Layer × Vio :=
  let p := wordsGet l.words Lay.SRC_IOVA
  let (id, v) := v.word (p + 56)
  let (pic, v) := if id ≠ 0 then v.fitting l.words p id else (none, v)
  match pic with
  | some x => ({ l with content := .picture x }, v)
  | none => ({ l with notReady := true, unfit := decide (id ≠ 0) }, v)

/-- A layer with no picture shows its fill colour with FILL_EN, else nothing. -/
def Layer.orFill (l : Layer) : Layer :=
  match l.content with
  | .nothing => { l with content := if wordsGet l.words Lay.FILL_EN = 1 then .fill else .nothing }
  | _ => l

/-- A layer's content for the whole frame (R335). -/
def Vio.resolve (v : Vio) (l : Layer) : Layer × Vio :=
  match wordsGet l.words Lay.KIND with
  | 0 => ({ l with content := .fill }, v)
  | 1 => let (l, v) := v.resolvePub l; (l.orFill, v)
  | _ => let (l, v) := v.resolvePic l; (l.orFill, v)

/-- The enabled layers in ascending Z. -/
def Vio.resolveAll (v : Vio) (ws : List Word) : List Nat → List Layer × Vio
  | [] => ([], v)
  | l :: ls =>
    let (x, v) := v.resolve { block := l, words := layerOf ws l }
    let (xs, v) := v.resolveAll ws ls
    (x :: xs, v)

/-! ## Scaling (R339) -/

/-- A horizontal coefficient: set, phase, tap. -/
def State.coefH (s : State) (set ph j : Nat) : Int :=
  sext (fld (Tbl.at 0 s.vid.coef (192 * set + 2 * ph + j / 4)) (16 * (j % 4)) 16) 16

/-- A vertical coefficient. -/
def State.coefV (s : State) (set ph j : Nat) : Int :=
  sext (fld (Tbl.at 0 s.vid.coef (192 * set + 128 + ph)) (16 * j) 16) 16

/-- Position of output sample i in 2^−16 of a source sample. -/
def scalePos (off len dst i : Nat) : Int :=
  let step := len * 65536 / dst
  (off * 65536 + i * step + step / 2 : Nat) - 0x8000

/-- Source sample of tap j of n at a position, limited to the crop. -/
def tapAt (off len n j : Nat) (pos : Int) : Nat :=
  (clampInt (pos / 65536 - (n / 2 : Nat) + 1 + (j : Nat)) (off : Nat) ((off + len - 1 : Nat) : Int)).toNat

/-- Phase of a position. -/
def phaseOf (pos : Int) : Nat := (pos / 1024 % 64).toNat

/-- One output sample: the taps at a position, narrowed to 8 bits. -/
def filterSample (n sh off len : Nat) (pos : Int) (c : Nat → Nat → Int) (src : Nat → Int) : Nat :=
  let acc := ((List.range n).map fun j => c (phaseOf pos) j * src (tapAt off len n j pos)).sum
  (clampInt (shiftRound acc sh true) 0 255).toNat

/-- A source row at destination width. -/
def scaleRow (c : Nat → Nat → Int) (sh off len dst : Nat) (row : List Nat) : List Nat :=
  (List.range dst).map fun i =>
    filterSample 8 sh off len (scalePos off len dst i) c fun k => ((row.getD (k - off) 0 : Nat) : Int)

/-- A destination row from rows at destination width; base is the source row that the list starts at. -/
def scaleCol (c : Nat → Nat → Int) (off len dst width base i : Nat) (rows : List (List Nat)) : List Nat :=
  let pos := scalePos off len dst i
  (List.range width).map fun x =>
    filterSample 4 14 off len pos c fun k => (((rows.getD (k - base) []).getD x 0 : Nat) : Int)

/-- Samples of a row's bytes: 8-bit, or P010 samples as their bits 15 to 6. -/
def rowSamples (deep : Bool) (bs : List Byte) : List Nat :=
  if deep then (List.range (bs.length / 2)).map fun i => ofLe (slice bs (2 * i) 2) / 64 else bs.map fun b => b.toNat

/-- Every other element, from the first or the second. -/
def everyOther (odd : Nat) (xs : List Nat) : List Nat := (List.range (xs.length / 2)).map fun i => xs.getD (2 * i + odd) 0

/-- Two rows interleaved. -/
def interleave (xs ys : List Nat) : List Nat := (List.zip xs ys).flatMap fun p => [p.1, p.2]

/-- One plane of a layer: where its rows are, what is read of each, its crop and destination. -/
structure PlaneOf where
  base : Nat
  stride : Nat
  x : Nat
  w : Nat
  y : Nat
  h : Nat
  dw : Nat
  dh : Nat

/-- The luma plane of a picture as a layer shows it. -/
def Shown.luma (p : Shown) (dw dh : Nat) : PlaneOf := ⟨p.base + headerPage, p.pitch * 256, p.x, p.w, p.y, p.h, dw, dh⟩

/-- The chroma plane. -/
def Shown.chroma (p : Shown) (dw dh : Nat) : PlaneOf :=
  ⟨p.base + chromaOff p.rows p.pitch, p.pitch * 256, p.x / 2, p.w / 2, p.y / 2, p.h / 2, dw / 2, dh / 2⟩

/-- Source rows that n destination rows from i on need: the first and how many. -/
def PlaneOf.span (q : PlaneOf) (i n : Nat) : Nat × Nat :=
  let lo := tapAt q.y q.h 4 0 (scalePos q.y q.h q.dh i)
  let hi := tapAt q.y q.h 4 3 (scalePos q.y q.h q.dh (i + n - 1))
  (lo, hi - lo + 1)

/-- n destination rows from i on of a plane, luma or interleaved chroma. -/
def Vio.scaleRows (v : Vio) (set : Nat) (deep chroma : Bool) (q : PlaneOf) (i n : Nat) : List (List Nat) × Vio :=
  let (lo, k) := q.span i n
  let unit := (if deep then 2 else 1) * (if chroma then 2 else 1)
  let (rows, v) := v.readRows (q.base + q.x * unit) q.stride (q.w * unit) ((List.range k).map fun j => lo + j)
  let s := v.st
  let wide (r : List Nat) : List Nat := scaleRow (s.coefH set) (if deep then 16 else 14) q.x q.w q.dw r
  let rows := rows.map (rowSamples deep)
  let tall (rs : List (List Nat)) (j : Nat) : List Nat := scaleCol (s.coefV set) q.y q.h q.dh q.dw lo (i + j) rs
  if chroma then
    let cb := rows.map fun r => wide (everyOther 0 r)
    let cr := rows.map fun r => wide (everyOther 1 r)
    ((List.range n).map fun j => interleave (tall cb j) (tall cr j), v)
  else
    let y := rows.map wide
    ((List.range n).map fun j => tall y j, v)

/-! ## Blending (R340) -/

/-- One blended sample. -/
def blendSample (alpha x d : Nat) : Nat :=
  let a := alpha + alpha / 128
  (x * a + d * (256 - a) + 128) / 256

/-- A row of samples blended into a row of the band from a column on. -/
def blendRow (alpha col : Nat) (xs row : List Nat) : List Nat :=
  row.take col ++ List.zipWith (blendSample alpha) xs ((row.drop col).take xs.length) ++ row.drop (col + xs.length)

/-- Rows blended into a band from a row on. -/
def blendRows (alpha col top : Nat) (xs band : List (List Nat)) : List (List Nat) :=
  band.take top ++ List.zipWith (blendRow alpha col) xs ((band.drop top).take xs.length) ++ band.drop (top + xs.length)

/-- A band: its luma rows and its interleaved chroma rows. -/
structure Band where
  luma : List (List Nat)
  chroma : List (List Nat)

/-- The destination rows of a layer in a band: from row i of the layer, n of them, at row t of the band. -/
def rowsIn (dy dh b rows : Nat) : Nat × Nat × Nat :=
  let top := max dy (64 * b)
  let bot := min (dy + dh) (64 * b + rows)
  (top - dy, bot - top, top - 64 * b)

/-- A layer drawn into a band. -/
def Vio.draw (v : Vio) (l : Layer) (b rows : Nat) (band : Band) : Band × Vio :=
  let g := wordsGet l.words
  let (i, n, t) := rowsIn (g Lay.DST_Y) (g Lay.DST_H) b rows
  let x := g Lay.DST_X
  let w := g Lay.DST_W
  let a := g Lay.ALPHA
  if n = 0 then (band, v)
  else match l.content with
    | .nothing => (band, v)
    | .fill =>
      let y := List.replicate n (List.replicate w (g Lay.FILL_Y))
      let c := List.replicate (n / 2) (interleave (List.replicate (w / 2) (g Lay.FILL_CB)) (List.replicate (w / 2) (g Lay.FILL_CR)))
      (⟨blendRows a x t y band.luma, blendRows a x (t / 2) c band.chroma⟩, v)
    | .picture p =>
      let (y, v) := v.scaleRows (g Lay.FILT) p.deep false (p.luma w (g Lay.DST_H)) i n
      let (c, v) := v.scaleRows (g Lay.FILT) p.deep true (p.chroma w (g Lay.DST_H)) (i / 2) (n / 2)
      (⟨blendRows a x t y band.luma, blendRows a x (t / 2) c band.chroma⟩, v)

/-- A band of the background colour. -/
def backBand (ws : List Word) (rows : Nat) : Band :=
  let g := wordsGet ws
  let w := g CRec.OUT_W
  ⟨List.replicate rows (List.replicate w (g CRec.BG_Y)),
   List.replicate (rows / 2) (interleave (List.replicate (w / 2) (g CRec.BG_CB)) (List.replicate (w / 2) (g CRec.BG_CR)))⟩

/-- Every layer drawn in ascending Z. -/
def Vio.drawAll (v : Vio) (b rows : Nat) : List Layer → Band → Band × Vio
  | [], band => (band, v)
  | l :: ls, band =>
    let (band, v) := v.draw l b rows band
    v.drawAll b rows ls band

/-! ## Writing the frame (R341, R342) -/

/-- The destinations: address and FRAME_ID. -/
def destinations (ws : List Word) (id : Word) : List (Nat × Word) :=
  let g := wordsGet ws
  (if g CRec.ENC_EN = 1 then [(g CRec.ENC_IOVA, id)] else [])
    ++ (if g CRec.NSTORE ≠ 0 then
          [(g CRec.STORE_BASE + g CRec.STORE_IDX * g CRec.STORE_BYTES, wd ((g CRec.PUB_SEQ + 1) % 2 ^ 32))]
        else [])

/-- Word 1 of a destination. -/
def outWord1 (ws : List Word) (bands : Nat) : Word :=
  pictureWord1 (wordsGet ws CRec.OUT_W) (wordsGet ws CRec.OUT_H) (wordsGet ws CRec.OUT_PITCH) 0 bands

/-- Rows written from an address on. -/
def Vio.writeRows (v : Vio) (a stride : Nat) : List (List Nat) → Vio
  | [] => v
  | r :: rs => (v.write a (r.map (BitVec.ofNat 8))).writeRows (a + stride) stride rs

/-- A band's rows written to every destination, then word 1 of each. -/
def Vio.writeBand (v : Vio) (ws : List Word) (ds : List (Nat × Word)) (b : Nat) (band : Band) : Vio :=
  let st := wordsGet ws CRec.OUT_PITCH * 256
  let chroma := chromaOff (wordsGet ws CRec.OUT_H) (wordsGet ws CRec.OUT_PITCH)
  let v := ds.foldl (fun v d =>
    (v.writeRows (d.1 + headerPage + 64 * b * st) st band.luma).writeRows (d.1 + chroma + 32 * b * st) st band.chroma) v
  ds.foldl (fun v d => v.put (d.1 + 8) [outWord1 ws (b + 1)]) v

/-- A layer whose last band this is has word 0 of its picture read: TORN where it changed (R336). -/
def Vio.tornCheck (v : Vio) (b : Nat) (l : Layer) : Layer × Vio :=
  match l.content with
  | .picture p =>
    if (wordsGet l.words Lay.DST_Y + wordsGet l.words Lay.DST_H - 1) / 64 = b then
      let (w, v) := v.word p.base
      ({ l with torn := decide (w ≠ p.id) }, v)
    else (l, v)
  | _ => (l, v)

/-- The check of every layer. -/
def Vio.tornAll (v : Vio) (b : Nat) : List Layer → List Layer × Vio
  | [] => ([], v)
  | l :: ls =>
    let (x, v) := v.tornCheck b l
    let (xs, v) := v.tornAll b ls
    (x :: xs, v)

/-- n bands from b on: drawn, written, sources checked; what was written is gathered. -/
def Vio.bands (v : Vio) (ws : List Word) (ds : List (Nat × Word)) : Nat → Nat → List Layer → Band → List Layer × Band × Vio
  | 0, _, ls, out => (ls, out, v)
  | n + 1, b, ls, out =>
    let rows := min 64 (wordsGet ws CRec.OUT_H - 64 * b)
    let (band, v) := v.drawAll b rows ls (backBand ws rows)
    let v := v.writeBand ws ds b band
    let (ls, v) := v.tornAll b ls
    v.bands ws ds n (b + 1) ls ⟨out.luma ++ band.luma, out.chroma ++ band.chroma⟩

/-! ## Signature regions (R345 to R348) -/

/-- Columns x to x + w − 1 of rows y to y + h − 1. -/
def crop (rows : List (List Nat)) (x y w h : Nat) : List Nat :=
  ((rows.drop y).take h).flatMap fun r => (r.drop x).take w

/-- CRC of a region over the bytes written. -/
def regionCrc (r : List Word) (out : Band) : Nat :=
  let g := wordsGet r
  crc32 ((crop out.luma (g Rgn.X) (g Rgn.Y) (g Rgn.W) (g Rgn.H)
    ++ crop out.chroma (g Rgn.X) (g Rgn.Y / 2) (g Rgn.W) (g Rgn.H / 2)).map (BitVec.ofNat 8))

/-- Failing frames of a layout replaced. -/
def State.setFailing (s : State) (l n : Nat) : State :=
  { s with vid := { s.vid with failing := Tbl.put 0 s.vid.failing l n } }

/-- Signature notices (R348). -/
def State.sigNotice (s : State) (ws : List Word) (layout mask : Nat) (withheld : Bool) : State :=
  let n := Tbl.at 0 s.vid.failing layout
  let tell (s : State) (code v0 v1 : Nat) : State :=
    if wordsGet ws CRec.NOTICE_EN = 1 then s.post1 8 (wordsGet ws CRec.EVQ) code layout v0 v1 else s
  if mask ≠ 0 then
    let s := s.setFailing layout (n + 1)
    if n = 0 then tell s 1 (b2n withheld * 16 + mask) 0 else s
  else if n ≠ 0 then tell (s.setFailing layout 0) 2 0 n
  else s

/-! ## Engine time (R349) -/

/-- Source samples' term of a layer's rows in a band. -/
def sourceTerm (l : Layer) (r : Nat) : Nat :=
  match l.content with
  | .picture p => (ceilDiv (r * p.h) (wordsGet l.words Lay.DST_H) + 3) * p.w
  | _ => 0

/-- Cycles of a layer in a band. -/
def layerCycles (b rows : Nat) (l : Layer) : Nat :=
  let (_, r, _) := rowsIn (wordsGet l.words Lay.DST_Y) (wordsGet l.words Lay.DST_H) b rows
  if r = 0 || l.content = .nothing then 0
  else max (ceilDiv (r * wordsGet l.words Lay.DST_W) 2) (ceilDiv (sourceTerm l r) 4)

/-- Cycles of a frame. -/
def frameCycles (ws : List Word) (ls : List Layer) : Nat :=
  ((List.range (bandsOf (wordsGet ws CRec.OUT_H))).map fun b =>
    let rows := min 64 (wordsGet ws CRec.OUT_H - 64 * b)
    64 + ceilDiv (wordsGet ws CRec.OUT_W * rows) 2 + (ls.map (layerCycles b rows)).sum).sum

/-! ## Carts of a layout (R332, R334) -/

/-- IOVA of a layout record (R329). -/
def State.layoutRecord (s : State) (l : Nat) : Nat := s.get F.CMP_LTBL.BASE 0 + l * 1024

/-- Layout of a cart. -/
def cartLayout (c : Cart) : Nat := fld (c.words.getD 2 0) 0 14

/-- Operands that R332 refuses. -/
def badCmpCart (c : Cart) : Bool :=
  fld (c.words.getD 2 0) 14 50 ≠ 0 || ((List.range 4).any fun i => c.words.getD (3 + i) 0 ≠ 0) || bitAt (c.words.getD 7 0).toNat 63

/-- A composition cart ends ERROR with a code of R334. -/
def State.cmpError (s : State) (e : Nat) (c : Cart) (code : Nat) : State :=
  (s.inc F.CMP_ENG_ERR_CNT.CNT e).endCart c.seq 1 (wd code)

/-- An access of a composition engine stopped: XLATE_FAULT or ERROR MEM (R334, R344). -/
def Vio.cmpStop (v : Vio) (e : Nat) (c : Cart) : State :=
  if v.stop = .xlate then (v.st.inc F.CMP_ENG_ERR_CNT.CNT e).endCart c.seq 2 0 else v.st.cmpError e c 4

/-- Run a cart of a layout with its record: BAD_CART, BAD_RECORD where there is no such record. -/
def State.withLayout (s : State) (e : Nat) (c : Cart) (f : List Word → Vio → State) : State :=
  if badCmpCart c then s.cmpError e c 3
  else if 2 ^ s.get F.CMP_LTBL.LOG2_N 0 ≤ cartLayout c then s.cmpError e c 1
  else
    let v : Vio := { st := s, q := ⟨2, e, s.get F.CMP_CFG.DOMAIN 0, e⟩ }
    let (ws, v) := v.words (s.layoutRecord (cartLayout c)) 128
    if v.ok then f ws v else v.cmpStop e c

/-- OPEN: the record is checked and its hardware fields set (R332). -/
def State.cmpOpen (s : State) (e : Nat) (c : Cart) : State :=
  s.withLayout e c fun ws v =>
    if badLayout ws then v.st.cmpError e c 1
    else
      let r := s.layoutRecord (cartLayout c)
      let v := v.put (r + 40) [wd (2 ^ 63), 0]
      let v := (List.range 8).foldl (fun v l => v.put (r + 8 * (14 + 8 * l)) [0, 0]) v
      let v := (List.range 4).foldl (fun v g => v.write (r + 8 * (73 + 2 * g)) (leBytes 4 0)) v
      if v.ok then (v.st.setFailing (cartLayout c) 0).endCart c.seq 0 0 else v.cmpStop e c

/-- CLOSE: OPEN cleared (R332). -/
def State.cmpClose (s : State) (e : Nat) (c : Cart) : State :=
  s.withLayout e c fun ws v =>
    let v := v.put (s.layoutRecord (cartLayout c) + 40) [setFld (ws.getD 5 0) 63 1 0]
    if v.ok then v.st.endCart c.seq 0 0 else v.cmpStop e c

/-- Words +6 and +7 of a layer after an OK frame (R336). -/
def Layer.after (l : Layer) : List Word :=
  let ws := l.words
  let ws := match if l.torn then none else l.fresh with
    | some (seq, idx) => wordsSet (wordsSet (wordsSet ws Lay.LAST_SEQ seq) Lay.LAST_IDX idx) Lay.HAVE 1
    | none => ws
  let ws := wordsSet ws Lay.NOT_READY (wordsGet ws Lay.NOT_READY + b2n l.notReady)
  let ws := wordsSet ws Lay.TORN (wordsGet ws Lay.TORN + b2n l.torn)
  let ws := wordsSet ws Lay.UNFIT (wordsGet ws Lay.UNFIT + b2n l.unfit)
  ws.drop 6

/-- A mask with bit L for each layer block that meets a test. -/
def layerMask (ls : List Layer) (p : Layer → Bool) : Nat := ((ls.filter p).map fun l => 2 ^ l.block).sum

/-- RESULT of a COMPOSE that ends OK (R334). -/
def composeResult (ls : List Layer) (sig : Nat) (withheld : Bool) : Word :=
  wd (b2n withheld * 2 ^ 36 + sig * 2 ^ 32 + layerMask ls (·.unfit) * 2 ^ 24 + layerMask ls (·.torn) * 2 ^ 16
    + layerMask ls (·.notReady) * 2 ^ 8)

/-- Words 2 to 4 and word 7 of a destination (R342 steps 3 and 4); a withheld frame's word 7 has bit 63 set (R347). -/
def Vio.finishPicture (v : Vio) (frame : Word) (withheld : Bool) (d : Nat × Word) : Vio :=
  (v.put (d.1 + 16) [frame, 0, 0]).put (d.1 + 56) [if withheld then setFld d.2 63 1 1 else d.2]

/-- The publication of the frame store (R342 step 5). -/
def Vio.publishStore (v : Vio) (ws : List Word) (withheld : Bool) : Vio :=
  let g := wordsGet ws
  if g CRec.NSTORE = 0 || withheld then v
  else v.put (g CRec.STORE_PUB) [wd ((g CRec.PUB_SEQ + 1) % 2 ^ 32 * 2 ^ 32 + g CRec.STORE_IDX)]

/-- Counters of an engine after an OK frame. -/
def State.countFrame (s : State) (e : Nat) (ws : List Word) (ls : List Layer) (sig : Nat) (withheld : Bool) : State :=
  let n (p : Layer → Bool) := (ls.filter p).length
  let s := (s.inc F.CMP_ENG_FRM_CNT.CNT e).add F.CMP_ENG_PIX_CNT.CNT e (wordsGet ws CRec.OUT_W * wordsGet ws CRec.OUT_H)
  let s := (s.add F.CMP_ENG_NOTREADY_CNT.CNT e (n (·.notReady))).add F.CMP_ENG_TORN_CNT.CNT e (n (·.torn))
  let s := (s.add F.CMP_ENG_SIGFAIL_CNT.CNT e (b2n (decide (sig ≠ 0)))).add F.CMP_ENG_WITHHELD_CNT.CNT e (b2n withheld)
  s.raiseMax F.CMP_ENG_CYC_MAX.MAX e (frameCycles ws ls)

/-- The record's hardware words after an OK frame (R336, R342, R345, R347). -/
def Vio.recordFrame (v : Vio) (r : Nat) (ws : List Word) (ls : List Layer) (crcs : List (Nat × Nat)) (withheld : Bool) : Vio :=
  let g := wordsGet ws
  let published := g CRec.NSTORE ≠ 0 && !withheld
  let ws := wordsSet ws CRec.PUB_SEQ (g CRec.PUB_SEQ + b2n published)
  let ws := wordsSet ws CRec.STORE_IDX (if g CRec.NSTORE = 0 then g CRec.STORE_IDX else (g CRec.STORE_IDX + 1) % g CRec.NSTORE)
  let ws := wordsSet ws CRec.FRAMES (g CRec.FRAMES + 1)
  let ws := wordsSet ws CRec.WITHHELD (g CRec.WITHHELD + b2n withheld)
  let v := v.put (r + 40) [ws.getD 5 0, ws.getD 6 0]
  let v := ls.foldl (fun v l => v.put (r + 8 * (14 + 8 * l.block)) l.after) v
  crcs.foldl (fun v x => v.write (r + 8 * (73 + 2 * x.1)) (leBytes 4 x.2)) v

/-- STORE_IDX advances at the start of a COMPOSE (R341). -/
def Vio.advanceStore (v : Vio) (r : Nat) (ws : List Word) : Vio :=
  let n := wordsGet ws CRec.NSTORE
  if n = 0 then v else v.put (r + 40) [setFld (ws.getD 5 0) 58 5 ((wordsGet ws CRec.STORE_IDX + 1) % n)]

/-- A frame as composed: its layers, the mask of failing regions, whether it is withheld, the engine after every access. -/
structure FrameOut where
  layers : List Layer
  sig : Nat
  withheld : Bool
  io : Vio

/-- The end of a frame: words 2 to 4 and 7, the publication, the record's hardware words. Where an access of these stops,
none of them is written (R344; log 51). -/
def Vio.commitFrame (v : Vio) (frame : Word) (r : Nat) (ws : List Word) (ds : List (Nat × Word)) (ls : List Layer)
    (crcs : List (Nat × Nat)) (withheld : Bool) : Vio :=
  let u := ds.foldl (fun v d => v.finishPicture frame withheld d) v
  let u := (u.publishStore ws withheld).recordFrame r ws ls crcs withheld
  if u.ok then u else { u with st := { u.st with hbm := { u.st.hbm with mem := v.st.hbm.mem, l2 := v.st.hbm.l2 } } }

/-- The frame itself, to the last write of its record (R335 to R347). -/
def Vio.makeFrame (v : Vio) (c : Cart) (r : Nat) (ws : List Word) : FrameOut :=
  let v := v.advanceStore r ws
  let (ls, v) := v.resolveAll ws (layersByZ ws)
  let ds := destinations ws (c.words.getD 7 0)
  let v := ds.foldl (fun v d => v.put d.1 [d.2, outWord1 ws 0]) v
  let (ls, out, v) := v.bands ws ds (bandsOf (wordsGet ws CRec.OUT_H)) 0 ls ⟨[], []⟩
  let crcs := (regionsOf ws).map fun g => (g, regionCrc (regionOf ws g) out)
  let failing := crcs.filter fun x => x.2 ≠ wordsGet (regionOf ws x.1) Rgn.EXPECT
  let withheld := failing.any fun x => wordsGet (regionOf ws x.1) Rgn.WITHHOLD = 1
  ⟨ls, (failing.map fun x => 2 ^ x.1).sum, withheld, v.commitFrame (c.words.getD 7 0) r ws ds ls crcs withheld⟩

/-- A frame composed, counted and answered (R334, R344, R348). -/
def Vio.composeFrame (v : Vio) (e : Nat) (c : Cart) (r : Nat) (ws : List Word) : State :=
  let f := v.makeFrame c r ws
  if f.io.ok then
    ((f.io.st.countFrame e ws f.layers f.sig f.withheld).sigNotice ws (cartLayout c) f.sig f.withheld).endCart c.seq 0
      (composeResult f.layers f.sig f.withheld)
  else f.io.cmpStop e c

/-- COMPOSE: NOT_OPEN, BAD_RECORD, or one frame (R330, R332; log 51). -/
def State.compose (s : State) (e : Nat) (c : Cart) : State :=
  s.withLayout e c fun ws v =>
    if wordsGet ws CRec.OPEN = 0 then v.st.cmpError e c 2
    else if badLayout ws then v.st.cmpError e c 1
    else v.composeFrame e c (s.layoutRecord (cartLayout c)) ws

/-- A composition cart of an opcode. -/
def State.cmpCart (s : State) (e op : Nat) (f : State → Nat → Cart → State) : State :=
  match s.engineOp 2 e op with
  | none => s
  | some c => f s e c

/-- OPEN of a layout. -/
def execCmpOpen (eng : Nat) (s : State) : Out := s.whenClkReady fun s => s.cmpCart eng 0x40 State.cmpOpen

/-- COMPOSE. -/
def execCompose (eng : Nat) (s : State) : Out := s.whenClkReady fun s => s.cmpCart eng 0x41 State.compose

/-- CLOSE of a layout. -/
def execCmpClose (eng : Nat) (s : State) : Out := s.whenClkReady fun s => s.cmpCart eng 0x42 State.cmpClose

/-! ## Coefficient memory (R350) -/

/-- The word that CMP_COEF_ADDR names. -/
def State.coefIdx (s : State) : Nat := s.get F.CMP_COEF_ADDR.ADDR 0 % 3072

/-- ADDR advances. -/
def State.coefStep (s : State) : State := s.put F.CMP_COEF_ADDR.ADDR 0 ((s.get F.CMP_COEF_ADDR.ADDR 0 + 1) % 3072)

/-- A composition cart is running. -/
def State.cmpBusy (s : State) : Bool := (List.range 16).any fun e => (s.engineCart 2 e).isSome

/-- A write of CMP_COEF_DATA. -/
def State.coefStore (s : State) (v : Word) : State :=
  if s.cmpBusy then s.flag F.CMP_COEF_STATUS.COEF_ERR 0 true
  else ({ s with vid := { s.vid with coef := Tbl.put 0 s.vid.coef s.coefIdx v } }).coefStep

/-- CMP_COEF_DATA_WRITE. -/
def execCmpCoefDataWrite (value : Word) (s : State) : Out := s.whenClk fun s => s.coefStore value

/-- A read of CMP_COEF_DATA. -/
def State.coefLoad (s : State) : Word × State := (Tbl.at 0 s.vid.coef s.coefIdx, s.coefStep)

/-- CMP_COEF_DATA_READ. -/
def execCmpCoefDataRead (hart : Nat) (s : State) : Out :=
  s.whenClk fun s =>
    let (v, t) := s.coefLoad
    t.respond hart v

end Sys2Proof.Machine
end

