-- ==== Sys2Proof/Machine/MixImage.lean ====
section
/-! DEFINITION. Mix program images (09 R283, R284, R286, R290 to R292): the layout of an image, the fields of an
instruction, its cost, and the checks of ARM. -/

namespace Sys2Proof.Machine

/-- Lanes of a domain: 0 D8, 1 D16, 2 D48. -/
def lanesOf (dom : Nat) : Nat := if dom = 0 then 8 else if dom = 1 then 16 else 48

/-- Words of a slot of a domain and format (R272). -/
def slotWords (dom fmt : Nat) : Nat := (if fmt = 0 then lanesOf dom else lanesOf dom / 2) + 2

/-! ## Layout (R290) -/

/-- An image as the words of a slot. -/
structure Image where
  slot : Tbl Word
  base : Nat

/-- A word of an image. -/
def Image.word (m : Image) (i : Nat) : Word := Tbl.at 0 m.slot (m.base + i)

/-- A field of a word of an image. -/
def Image.field (m : Image) (i lo len : Nat) : Nat := fld (m.word i) lo len

/-- NINSTR. -/
def Image.nInstr (m : Image) : Nat := m.field 0 16 16

/-- NBUF. -/
def Image.nBuf (m : Image) : Nat := m.field 1 52 12

/-- NSPL. -/
def Image.nSpl (m : Image) : Nat := m.field 1 40 12

/-- NBRG. -/
def Image.nBrg (m : Image) : Nat := m.field 1 30 10

/-- NCART. -/
def Image.nCart (m : Image) : Nat := m.field 1 23 7

/-- First word of the spool descriptors. -/
def Image.offSpl (m : Image) : Nat := 4 + m.nBuf

/-- First word of bridge descriptor j. -/
def Image.offBrg (m : Image) : Nat → Nat
  | 0 => m.offSpl + 2 * m.nSpl
  | j + 1 =>
    let o := m.offBrg j
    o + 1 + ceilDiv (m.field o 32 8) 4

/-- First word of the cart templates. -/
def Image.offCart (m : Image) : Nat := m.offBrg m.nBrg

/-- First word of the instructions. -/
def Image.offInstr (m : Image) : Nat := m.offCart + 8 * m.nCart

/-- Words of an image. -/
def Image.size (m : Image) : Nat := m.offInstr + m.nInstr

/-- Instruction k. -/
def Image.instr (m : Image) (k : Nat) : Word := m.word (m.offInstr + k)

/-- A buffer descriptor. -/
structure BufDesc where
  base : Nat
  dom  : Nat
  fmt  : Nat
  nblk : Nat
  deriving DecidableEq, Repr

/-- Buffer descriptor j. -/
def Image.buf (m : Image) (j : Nat) : BufDesc :=
  ⟨m.field (4 + j) 44 20, m.field (4 + j) 42 2, m.field (4 + j) 41 1, m.field (4 + j) 31 10⟩

/-- Spool descriptor j; base is an IOVA. -/
def Image.spl (m : Image) (j : Nat) : BufDesc :=
  let o := m.offSpl + 2 * j
  ⟨m.field o 0 48, m.field (o + 1) 2 2, m.field (o + 1) 1 1, m.field (o + 1) 4 10⟩

/-- A bridge descriptor; off is its first word. -/
structure BrgDesc where
  off   : Nat
  state : Nat
  hi    : Nat
  lo    : Nat
  taps  : Nat
  zero  : Bool
  deriving DecidableEq, Repr

/-- Bridge descriptor j. -/
def Image.brg (m : Image) (j : Nat) : BrgDesc :=
  let o := m.offBrg j
  ⟨o, m.field o 44 20, m.field o 42 2, m.field o 40 2, m.field o 32 8, m.field o 31 1 = 1⟩

/-- Ratio of a bridge. -/
def BrgDesc.ratio (b : BrgDesc) : Nat := lanesOf b.hi / lanesOf b.lo

/-- Coefficient j of a bridge, signed Q2.14. -/
def Image.coef (m : Image) (b : BrgDesc) (j : Nat) : Int := sext (m.field (b.off + 1 + j / 4) (16 * (j % 4)) 16) 16

/-- The words of cart template j. -/
def Image.cartTpl (m : Image) (j : Nat) : List Word := (List.range 8).map fun i => m.word (m.offCart + 8 * j + i)

/-! ## Instructions (R283, R284) -/

/-- OP of an instruction. -/
def mixOp (w : Word) : Nat := fld w 58 6

/-- DOM of an instruction. -/
def mixDom (w : Word) : Nat := fld w 56 2

/-- IDX of a format B instruction. -/
def mixIdx (w : Word) : Nat := fld w 32 13

/-- Fields an operation uses, beside OP; none where the operation is not defined. -/
def mixFields (op : Nat) : Option (List (Nat × Nat)) :=
  let dom := (56, 2)
  let w := (52, 4)
  let ws := (48, 4)
  let a := (45, 3)
  let idx := (32, 13)
  let as_ := (42, 3)
  let shB := (22, 6)
  let gain := [(41, 1), (25, 16)]
  match op with
  | 0x00 => some []
  | 0x01 => some []
  | 0x02 => some [dom, w, idx, (28, 4)]
  | 0x03 => some [dom, w, idx]
  | 0x04 => some [dom, a, idx, shB]
  | 0x05 => some [dom, a, idx, shB]
  | 0x06 => some [dom, w, idx]
  | 0x08 => some [dom, a]
  | 0x09 => some [dom, a, as_]
  | 0x0A => some [dom, a, as_]
  | 0x0B => some [dom, a, as_]
  | 0x0C => some ([dom, ws, a] ++ gain)
  | 0x0D => some ([dom, ws, a] ++ gain)
  | 0x0E => some ([dom, ws, a] ++ gain ++ [(9, 16)])
  | 0x0F => some ([dom, ws, a] ++ gain ++ [(9, 16)])
  | 0x10 => some [dom, w, as_, (3, 6)]
  | 0x11 => some [dom, w, ws]
  | 0x12 => some [dom, w]
  | 0x14 => some [dom, w, ws, idx]
  | 0x15 => some [dom, w, ws, idx]
  | 0x18 => some [idx, (12, 10), (2, 10)]
  | _ => none

/-- The bits of some fields of a word, in place. -/
def keepFields (w : Word) (fs : List (Nat × Nat)) : Nat := (fs.map fun f => fld w f.1 f.2 * 2 ^ f.1).sum

/-- Every bit outside the fields that the operation uses is zero, and the operation is defined. -/
def mixFieldsOk (w : Word) : Bool :=
  match mixFields (mixOp w) with
  | none => false
  | some fs => keepFields w ((58, 6) :: fs) = w.toNat

/-- With GP 1, the upper bits of a gain that is a parameter number are zero (R283). -/
def gainOk (w : Word) : Bool := fld w 41 1 = 0 || (fld w 37 4 = 0 && fld w 21 4 = 0)

/-- An instruction names things that exist, in its domain, with values in range (R284, R291; log 43). -/
def Image.instrOk (m : Image) (w : Word) : Bool :=
  let op := mixOp w
  let i := mixIdx w
  let d := mixDom w
  mixFieldsOk w && d ≠ 3 &&
    (if op = 2 || op = 3 || op = 4 then decide (i < m.nBuf) && (m.buf i).dom = d && (op ≠ 4 || fld w 22 6 ≤ 47)
    else if op = 5 || op = 6 then decide (i < m.nSpl) && (m.spl i).dom = d && (op ≠ 5 || fld w 22 6 ≤ 47)
    else if 0x0C ≤ op && op ≤ 0x0F then gainOk w
    else if op = 0x10 then decide (fld w 3 6 ≤ 47)
    else if op = 0x14 then decide (i < m.nBrg) && (m.brg i).hi = d
    else if op = 0x15 then decide (i < m.nBrg) && (m.brg i).lo = d
    else if op = 0x18 then decide (i < m.nCart) && decide (fld w 2 10 ≤ fld w 12 10)
    else true)

/-- Whether an instruction names bridge j. -/
def namesBridge (w : Word) (j : Nat) : Bool := (mixOp w = 0x14 || mixOp w = 0x15) && mixIdx w = j

/-- Words of a bridge's state: T − 1 for BDN, T / r − 1 for BUP, after the instruction that names it (R281; log 43). -/
def Image.brgSize (m : Image) (j : Nat) : Nat :=
  let b := m.brg j
  let bup := (List.range m.nInstr).any fun k => mixOp (m.instr k) = 0x15 && mixIdx (m.instr k) = j
  if bup then b.taps / b.ratio - 1 else b.taps - 1

/-! ## Cost (R286) -/

/-- CLK_MIX cycles of an instruction. -/
def Image.cost (m : Image) (w : Word) : Nat :=
  let op := mixOp w
  let i := mixIdx w
  let l := ceilDiv (lanesOf (mixDom w)) 4
  let b := m.brg i
  if op ≤ 1 then 1
  else if op ≤ 4 then ceilDiv (slotWords (m.buf i).dom (m.buf i).fmt) 4 + 6
  else if op ≤ 6 then ceilDiv (slotWords (m.spl i).dom (m.spl i).fmt) 4 + 2
  else if op ≤ 0x12 then l + 1
  else if op = 0x14 then ceilDiv (lanesOf b.lo * b.taps) 4 + 2 * ceilDiv (b.taps - 1) 4 + 6
  else if op = 0x15 then
    ceilDiv (lanesOf b.hi * b.taps / b.ratio) 4 + 2 * ceilDiv (b.taps / b.ratio - 1) 4 + 6
  else 4

/-- Cost of an image's block. -/
def Image.budget (m : Image) : Nat := ((List.range m.nInstr).map fun k => m.cost (m.instr k)).sum

/-! ## The checks of ARM (R291) -/

/-- Two ranges of words share a word; an empty one shares none. -/
def meet (a n b k : Nat) : Bool := 0 < n && 0 < k && a < b + k && b < a + n

/-- CHECK is the CRC-32 of the image's bytes with CHECK as zero. -/
def Image.checkOk (m : Image) : Bool :=
  let ws := (List.range m.size).map fun i => if i = 2 then setFld (m.word 2) 0 32 0 else m.word i
  crc32 (wordBytes ws) = m.field 2 0 32

/-- A ring lies inside sample memory, its domain is defined and NBLK is not zero. -/
def BufDesc.ringOk (b : BufDesc) : Bool :=
  b.dom ≠ 3 && b.nblk ≠ 0 && b.base + b.nblk * slotWords b.dom b.fmt ≤ 2 ^ 20

/-- Word 1 of a spool: its domain is defined and NBLK is not zero. -/
def BufDesc.spoolShape (b : BufDesc) : Bool := b.dom ≠ 3 && b.nblk ≠ 0

/-- Word 0 of a spool: it is 8-byte aligned and its slots lie inside 48 bits. -/
def BufDesc.spoolBase (b : BufDesc) : Bool :=
  b.base % 8 = 0 && (!b.spoolShape || b.base + b.nblk * 4 * slotWords b.dom b.fmt ≤ 2 ^ 48)

/-- A word of the spool table: word q mod 2 of spool q / 2. -/
def Image.splWordOk (m : Image) (q : Nat) : Bool :=
  if q % 2 = 0 then (m.spl (q / 2)).spoolBase else (m.spl (q / 2)).spoolShape

/-- Bridge j: HI above LO, T a multiple of r from 1 to 192, state inside sample memory, apart from every buffer and every
earlier bridge. -/
def Image.brgOk (m : Image) (j : Nat) : Bool :=
  let b := m.brg j
  let n := m.brgSize j
  b.hi ≠ 3 && b.lo < b.hi && 1 ≤ b.taps && b.taps ≤ 192 && b.taps % b.ratio = 0
    && b.state + n ≤ 2 ^ 20
    && ((List.range m.nBuf).all fun k =>
      let u := m.buf k
      !meet b.state n u.base (u.nblk * slotWords u.dom u.fmt))
    && ((List.range j).all fun k => !meet b.state n (m.brg k).state (m.brgSize k))

/-- Instruction k: as R291 says, END last and only there, a bridge named only once. -/
def Image.instrAt (m : Image) (k : Nat) : Bool :=
  let w := m.instr k
  m.instrOk w && ((mixOp w = 1) = (k + 1 = m.nInstr))
    && !((mixOp w = 0x14 || mixOp w = 0x15) && (List.range k).any fun q => namesBridge (m.instr q) (mixIdx w))

/-- Template word i of a template: TYPE in word 0, zero in word 7. -/
def Image.tplOk (m : Image) (j i : Nat) : Bool :=
  let w := m.word (m.offCart + 8 * j + i)
  if i = 0 then fld w 56 8 ∈ [0x01, 0x20, 0x30] else if i = 7 then w = 0 else true

/-- First word of an image that fails R291, word by word in ascending order (log 43). -/
def Image.badWord (m : Image) : Option Nat :=
  if m.field 0 48 16 ≠ 0x5658 || m.field 0 40 8 ≠ 1 || m.nInstr = 0 || 16384 < m.nInstr || 32768 < m.size then some 0
  else if 64 < m.nCart then some 1
  else if !m.checkOk then some 2
  else match firstBelow m.nBuf fun j => !(m.buf j).ringOk with
  | some j => some (4 + j)
  | none => match firstBelow (2 * m.nSpl) fun q => !m.splWordOk q with
  | some q => some (m.offSpl + q)
  | none => match firstBelow m.nBrg fun j => !m.brgOk j with
  | some j => some (m.offBrg j)
  | none => match firstBelow (8 * m.nCart) fun q => !m.tplOk (q / 8) (q % 8) with
  | some q => some (m.offCart + q)
  | none => (firstBelow m.nInstr fun k => !m.instrAt k).map fun k => m.offInstr + k

end Sys2Proof.Machine
end

