-- ==== Sys2Proof/Machine/Mix.lean ====
section
/-! DEFINITION. The Voxotte mix engines (09): ticks, blocks, the mix instruction set, spools, carts, program slots,
parameters and sample memory access. -/

namespace Sys2Proof.Machine

/-! ## Engines -/

/-- A mix engine replaced. -/
def State.setMix (s : State) (e : Nat) (m : MixEng) : State :=
  { s with mix := { s.mix with engs := Tbl.put {} s.mix.engs e m } }

/-- The active image of an engine. -/
def State.activeImage (s : State) (e : Nat) : Image :=
  ⟨(s.mixEng e).prog, s.get F.MIX_ENG_STATUS.ACT_SLOT e * 32768⟩

/-- The idle slot: the one that is not active; slot 0 where none is. -/
def State.idleSlot (s : State) (e : Nat) : Nat :=
  if s.isSet F.MIX_ENG_STATUS.ACT_VALID e then 1 - s.get F.MIX_ENG_STATUS.ACT_SLOT e else 0

/-- A Voxotte notice: each code at most once per block (R301). -/
def State.mixNotice (s : State) (e code v : Nat) : State :=
  let m := s.mixEng e
  if code ∈ m.raised then s
  else (s.setMix e { m with raised := code :: m.raised }).post1 6 (s.get F.MIX_CFG.EVQ 0) code e 0 v

/-- The block that the media clock is in (R269). -/
def State.mixBlock (s : State) : Nat :=
  let b := s.tb (s.get F.MIX_CFG.TB 0)
  b.sec * 1000 + b.f / 2 ^ 48 / 1000000

/-! ## Blocks (R270, R294, R295, R298, R300) -/

/-- A pending image becomes active at the first block at or after its START_BLK (R295, R296). -/
def State.mixSwap (s : State) (e b : Nat) : State :=
  if s.isSet F.MIX_ENG_STATUS.PEND e && s.get F.MIX_ENG_START_BLK.BLK e ≤ b then
    let slot := s.idleSlot e
    let s := (s.put F.MIX_ENG_STATUS.ACT_SLOT e slot).flag F.MIX_ENG_STATUS.ACT_VALID e true
    let s := (s.flag F.MIX_ENG_STATUS.PEND e false).put F.MIX_ENG_START_BLK.BLK e b
    let m := s.mixEng e
    (s.setMix e { m with first := true, swaps := m.swaps + 1, faulted := [], actBlk := b }).mixNotice e 1 b
  else s

/-- An engine starts a block: a due swap, the parameters of this moment, the first instruction (R295, R297, R298). -/
def State.mixStart (s : State) (e b : Nat) : State :=
  let s := (s.setMix e { s.mixEng e with raised := [] }).mixSwap e b
  if s.isSet F.MIX_ENG_STATUS.ACT_VALID e then
    let m := s.mixEng e
    (s.setMix e { m with run := some { block := b }, used := m.param, passed := b }).flag F.MIX_ENG_STATUS.RUNNING e true
  else s

/-- A tick reaches an engine: it starts the block if it is idle; a block still running is late (R270, R298). -/
def State.mixTick (s : State) (e : Nat) : State :=
  let b := s.mixBlock
  let m := s.mixEng e
  if !s.isSet F.MIX_CFG.EN 0 || !s.isSet F.MIX_ENG_CTL.EN e || m.tick = some b then s
  else
    let s := (s.setMix e { m with tick := some b }).put F.MIX_BLOCK.BLOCK 0 b
    match m.run with
    | none => s.mixStart e b
    | some r => if r.block + 1 = b then s.inc F.MIX_ENG_OVR_CNT.CNT e else s

/-- MIX_TICK. -/
def execMixTick (eng : Nat) (s : State) : Out := s.whenLive fun s => s.mixTick eng

/-- A block whose program has ended is over; a later tick starts the latest block and those between are skipped. -/
def State.mixEndBlock (s : State) (e : Nat) : State :=
  let m := s.mixEng e
  match m.run with
  | none => s
  | some r =>
    if !r.ended then s
    else
      let s := (s.setMix e { m with run := none, first := false }).flag F.MIX_ENG_STATUS.RUNNING e false
      let s := (s.inc F.MIX_ENG_BLK_CNT.CNT e).raiseMax F.MIX_ENG_CYC_MAX.MAX e (min r.cycles (2 ^ 21 - 1))
      let t := m.tick.getD 0
      if s.isSet F.MIX_ENG_CTL.EN e && m.passed < t then
        let skipped := t - (m.passed + 1)
        let s := s.mixStart e t
        if skipped = 0 then s else (s.add F.MIX_ENG_SKIP_CNT.CNT e skipped).mixNotice e 2 skipped
      else s

/-- BLOCK_END. -/
def execBlockEnd (eng : Nat) (s : State) : Out := s.whenReady fun s => s.mixEndBlock eng

/-- Issue the next instruction of an engine's block if it is of an operation (R285). -/
def State.mixIssue (s : State) (e op : Nat) (f : State → Image → Nat → Word → State) : State :=
  let m := s.mixEng e
  match m.run with
  | none => s
  | some r =>
    let img := s.activeImage e
    let w := img.instr r.pos
    if r.ended || mixOp w ≠ op then s
    else
      let t := f s img r.block w
      let n := t.mixEng e
      t.setMix e { n with run := some { r with
        pos := r.pos + 1
        ended := decide (op = 1)
        cycles := r.cycles + img.cost w } }

/-- NOP. -/
def execMixNop (eng : Nat) (s : State) : Out := s.whenLive fun s => s.mixIssue eng 0 fun s _ _ _ => s

/-- END: ends the block's program. -/
def execMixEnd (eng : Nat) (s : State) : Out := s.whenLive fun s => s.mixIssue eng 1 fun s _ _ _ => s

/-! ## Lanes (R277 to R279) -/

/-- Lanes 0 to n − 1 of a work register. -/
def MixEng.work (m : MixEng) (r n : Nat) : List Int := (Tbl.getList 0 m.w (r * 48) n).map fun v => v.toInt

/-- Lanes of a work register replaced from lane 0. -/
def MixEng.setWork (m : MixEng) (r : Nat) (xs : List Int) : MixEng :=
  { m with w := Tbl.putList 0 m.w (r * 48) (xs.map fun x => BitVec.ofInt 24 x) }

/-- Lanes 0 to n − 1 of an accumulator. -/
def MixEng.accs (m : MixEng) (r n : Nat) : List Int := (Tbl.getList 0 m.a (r * 48) n).map fun v => v.toInt

/-- Lanes of an accumulator replaced from lane 0. -/
def MixEng.setAccs (m : MixEng) (r : Nat) (xs : List Int) : MixEng :=
  { m with a := Tbl.putList 0 m.a (r * 48) (xs.map fun x => BitVec.ofInt 48 x) }

/-- Values saturated to a width, with the number that were clipped. -/
def satLanes (bits : Nat) (xs : List Int) : List Int × Nat :=
  let ys := xs.map (satTo bits)
  (ys.map fun y => y.1, (ys.filter fun y => y.2).length)

/-- Accumulator lanes narrowed to samples (R278). -/
def narrowLanes (xs : List Int) (sh : Nat) : List Int × Nat := satLanes 24 (xs.map fun x => shiftRound x sh true)

/-- Lanes that saturated are counted. -/
def State.countSat (s : State) (e n : Nat) : State := s.add F.MIX_ENG_SAT_CNT.CNT e n

/-- Work-register result. -/
def State.putWork (s : State) (e r : Nat) (xs : List Int) : State := s.setMix e ((s.mixEng e).setWork r xs)

/-- Accumulator result: lanes outside 48 bits saturate and are counted (R277). -/
def State.putAccs (s : State) (e r : Nat) (xs : List Int) : State :=
  let (ys, n) := satLanes 48 xs
  (s.setMix e ((s.mixEng e).setAccs r ys)).countSat e n

/-- A gain operand, Q3.12: the parameter of this block with GP 1 (R283, R297). -/
def MixEng.gain (m : MixEng) (w : Word) (lo : Nat) : Int :=
  if fld w 41 1 = 1 then (Tbl.at 0 m.used (fld w lo 12)).toInt else sext (fld w lo 16) 16

/-- Gain of each lane: constant, or the ramp of R279. -/
def MixEng.gains (m : MixEng) (w : Word) (ramp : Bool) (n : Nat) : List Int :=
  let g0 := m.gain w 25
  let g1 := m.gain w 9
  (List.range n).map fun i => if ramp then g0 + Int.tdiv ((g1 - g0) * (i + 1 : Nat)) n else g0

/-- AD = AD ± WS × gain. -/
def State.mixMacc (s : State) (e : Nat) (w : Word) (ramp : Bool) (sign : Int) : State :=
  let m := s.mixEng e
  let n := lanesOf (mixDom w)
  let ad := fld w 45 3
  let p := List.zipWith (· * ·) (m.work (fld w 48 4) n) (m.gains w ramp n)
  s.putAccs e ad (List.zipWith (fun a x => a + sign * x) (m.accs ad n) p)

/-- MAC AD, WS, G0. -/
def execMixMac (eng : Nat) (s : State) : Out :=
  s.whenLive fun s => s.mixIssue eng 0x0C fun s _ _ w => s.mixMacc eng w false 1

/-- MSU AD, WS, G0. -/
def execMixMsu (eng : Nat) (s : State) : Out :=
  s.whenLive fun s => s.mixIssue eng 0x0D fun s _ _ w => s.mixMacc eng w false (-1)

/-- MACR AD, WS, G0, G1. -/
def execMacr (eng : Nat) (s : State) : Out :=
  s.whenLive fun s => s.mixIssue eng 0x0E fun s _ _ w => s.mixMacc eng w true 1

/-- MSUR AD, WS, G0, G1. -/
def execMsur (eng : Nat) (s : State) : Out :=
  s.whenLive fun s => s.mixIssue eng 0x0F fun s _ _ w => s.mixMacc eng w true (-1)

/-- AD of two accumulators. -/
def State.mixAccs (s : State) (e : Nat) (w : Word) (f : Int → Int → Int) : State :=
  let m := s.mixEng e
  let n := lanesOf (mixDom w)
  let ad := fld w 45 3
  s.putAccs e ad (List.zipWith f (m.accs ad n) (m.accs (fld w 42 3) n))

/-- ACLR AD. -/
def execMixAclr (eng : Nat) (s : State) : Out :=
  s.whenLive fun s => s.mixIssue eng 0x08 fun s _ _ w => s.mixAccs eng w fun _ _ => 0

/-- AMOV AD, AS. -/
def execMixAmov (eng : Nat) (s : State) : Out :=
  s.whenLive fun s => s.mixIssue eng 0x09 fun s _ _ w => s.mixAccs eng w fun _ b => b

/-- AADD AD, AS. -/
def execMixAadd (eng : Nat) (s : State) : Out :=
  s.whenLive fun s => s.mixIssue eng 0x0A fun s _ _ w => s.mixAccs eng w fun a b => a + b

/-- ASUB AD, AS. -/
def execMixAsub (eng : Nat) (s : State) : Out :=
  s.whenLive fun s => s.mixIssue eng 0x0B fun s _ _ w => s.mixAccs eng w fun a b => a - b

/-- narrow(A, SH) of an accumulator, with its saturations counted. -/
def State.mixNarrow (s : State) (e a n sh : Nat) : List Int × State :=
  let (ys, k) := narrowLanes ((s.mixEng e).accs a n) sh
  (ys, s.countSat e k)

/-- ATW WD, AS, SH. -/
def execAtw (eng : Nat) (s : State) : Out :=
  s.whenLive fun s => s.mixIssue eng 0x10 fun s _ _ w =>
    let (ys, s) := s.mixNarrow eng (fld w 42 3) (lanesOf (mixDom w)) (fld w 3 6)
    s.putWork eng (fld w 52 4) ys

/-- WMOV WD, WS. -/
def execWmov (eng : Nat) (s : State) : Out :=
  s.whenLive fun s => s.mixIssue eng 0x11 fun s _ _ w =>
    s.putWork eng (fld w 52 4) ((s.mixEng eng).work (fld w 48 4) (lanesOf (mixDom w)))

/-- WCLR WD. -/
def execWclr (eng : Nat) (s : State) : Out :=
  s.whenLive fun s => s.mixIssue eng 0x12 fun s _ _ w =>
    s.putWork eng (fld w 52 4) (List.replicate (lanesOf (mixDom w)) 0)

/-! ## Rings (R272 to R275) -/

/-- Samples of a slot's words: S24, or S16 × 256 (R272, R273). -/
def samplesOf (fmt : Nat) (ws : List (BitVec 32)) : List Int :=
  if fmt = 0 then ws.map fun w => sext w.toNat 24
  else ws.flatMap fun w => [sext w.toNat 16 * 256, sext (w.toNat / 65536) 16 * 256]

/-- Pairs of 16-bit samples as words. -/
def pack16 : List Int → List (BitVec 32)
  | a :: b :: xs => BitVec.ofNat 32 (wrapInt b 16 * 65536 + wrapInt a 16) :: pack16 xs
  | [a] => [BitVec.ofNat 32 (wrapInt a 16)]
  | [] => []

/-- Words of a slot for block b, and the samples that saturated in S16 (R272, R273). -/
def mixSlot (fmt b : Nat) (xs : List Int) : List (BitVec 32) × Nat :=
  let stamp := BitVec.ofNat 32 b
  if fmt = 0 then ([stamp] ++ xs.map (fun x => BitVec.ofInt 32 x) ++ [stamp], 0)
  else
    let (ys, n) := satLanes 16 (xs.map fun x => shiftRound x 8 true)
    ([stamp] ++ pack16 ys ++ [stamp], n)

/-- Place of block b in a ring. -/
def BufDesc.place (d : BufDesc) (b : Int) : Nat := d.base + (b % (d.nblk : Int)).toNat * slotWords d.dom d.fmt

/-- RD W, buf, DELAY: zero in every sample of a stale block (R275). -/
def State.mixRead (s : State) (e : Nat) (d : BufDesc) (b : Int) (w : Nat) : State :=
  let a := d.place b
  let n := slotWords d.dom d.fmt
  let hurt := s.mix.hurts a n
  let (ws, s) := s.smemRead a n
  let stamp := BitVec.ofNat 32 (wrapInt b 32)
  if ws.getD 0 0 = stamp && ws.getD (n - 1) 0 = stamp && hurt = [] then
    s.putWork e w (samplesOf d.fmt ((ws.drop 1).take (n - 2)))
  else (s.putWork e w (List.replicate (lanesOf d.dom) 0)).inc F.MIX_ENG_STALE_CNT.CNT e

/-- RD. -/
def execRd (eng : Nat) (s : State) : Out :=
  s.whenLive fun s => s.mixIssue eng 0x02 fun s m b w =>
    s.mixRead eng (m.buf (mixIdx w)) ((b : Int) - fld w 28 4) (fld w 52 4)

/-- Samples written as block b of a ring. -/
def State.mixWrite (s : State) (e : Nat) (d : BufDesc) (b : Nat) (xs : List Int) : State :=
  let (ws, n) := mixSlot d.fmt b xs
  ({ s with mix := s.mix.write (d.place b) ws }).countSat e n

/-- WR buf, W. -/
def execWr (eng : Nat) (s : State) : Out :=
  s.whenLive fun s => s.mixIssue eng 0x03 fun s m b w =>
    s.mixWrite eng (m.buf (mixIdx w)) b ((s.mixEng eng).work (fld w 52 4) (lanesOf (mixDom w)))

/-- WRA buf, A, SH. -/
def execWra (eng : Nat) (s : State) : Out :=
  s.whenLive fun s => s.mixIssue eng 0x04 fun s m b w =>
    let (ys, s) := s.mixNarrow eng (fld w 45 3) (lanesOf (mixDom w)) (fld w 22 6)
    s.mixWrite eng (m.buf (mixIdx w)) b ys

/-! ## Spools (R287, R288) -/

/-- Slots of a spool queue. -/
def spoolDepth : Nat := 1024

/-- A slot enters the spool queue; a full queue drops it whole; a faulted spool takes none (R287, R288; log 44). -/
def State.mixSpool (s : State) (e i : Nat) (d : BufDesc) (b : Nat) (xs : List Int) : State :=
  let m := s.mixEng e
  let (ws, n) := mixSlot d.fmt b xs
  let s := s.countSat e n
  if i ∈ m.faulted then s
  else if spoolDepth ≤ m.spools.length then s.inc F.MIX_ENG_SPL_DROP_CNT.CNT e
  else
    let slot : SpoolSlot := ⟨m.swaps, i, d.base + b % d.nblk * (4 * slotWords d.dom d.fmt), ws⟩
    s.setMix e { m with spools := m.spools ++ [slot] }

/-- SPL spool, A, SH. -/
def execSpl (eng : Nat) (s : State) : Out :=
  s.whenLive fun s => s.mixIssue eng 0x05 fun s m b w =>
    let (ys, s) := s.mixNarrow eng (fld w 45 3) (lanesOf (mixDom w)) (fld w 22 6)
    s.mixSpool eng (mixIdx w) (m.spl (mixIdx w)) b ys

/-- SPLW spool, W. -/
def execSplw (eng : Nat) (s : State) : Out :=
  s.whenLive fun s => s.mixIssue eng 0x06 fun s m b w =>
    s.mixSpool eng (mixIdx w) (m.spl (mixIdx w)) b ((s.mixEng eng).work (fld w 52 4) (lanesOf (mixDom w)))

/-- A spool write stopped: the rest of the slot is not written and the spool is marked (R288, 12 R362). -/
def State.spoolFault (s : State) (e : Nat) (x : SpoolSlot) : State :=
  let m := s.mixEng e
  let s := s.inc F.MIX_ENG_SPL_FAULT_CNT.CNT e
  let keep := m.spools.filter fun y => !(y.prog = x.prog && y.spool = x.spool)
  let s := s.setMix e { m with
    spools := keep
    faulted := if x.prog = m.swaps then x.spool :: m.faulted else m.faulted }
  s.mixNotice e 4 x.spool

/-- SPOOL_SLOT_WRITE: the oldest slot is written at its IOVA, in the order of R274. -/
def execSpoolSlotWrite (eng : Nat) (s : State) : Out :=
  s.whenReady fun s =>
    let m := s.mixEng eng
    match m.spools with
    | [] => s
    | x :: xs =>
      let s := s.setMix eng { m with spools := xs }
      let q : Src := ⟨7, eng, s.get F.MIX_CFG.DOMAIN 0, eng⟩
      let o := s.vwrite q x.iova (x.words.flatMap fun w => leBytes 4 w.toNat)
      if o.stop = .ok then o.st else o.st.spoolFault eng x

/-! ## Bridges (R281, R282) -/

/-- Input sample k of a bridge: from the state for k below zero. -/
def bridgeIn (old xs : List Int) (k : Int) : Int :=
  if 0 ≤ k then xs.getD k.toNat 0 else old.getD (old.length + k).toNat 0

/-- BDN's outputs before narrowing. -/
def decimate (c : Nat → Int) (t r : Nat) (old xs : List Int) : List Int :=
  (List.range (xs.length / r)).map fun m =>
    ((List.range t).map fun j => c j * bridgeIn old xs ((r * m + r - 1 : Nat) - (j : Int))).sum

/-- BUP's outputs before narrowing. -/
def interpolate (c : Nat → Int) (t r : Nat) (old xs : List Int) : List Int :=
  (List.range (xs.length * r)).map fun q =>
    ((List.range (t / r)).map fun k => c (q % r + r * k) * bridgeIn old xs ((q / r : Nat) - (k : Int))).sum

/-- A bridge: state read, outputs narrowed with SH 14, new state written. -/
def State.mixBridge (s : State) (e : Nat) (m : Image) (w : Word) (down : Bool) : State :=
  let b := m.brg (mixIdx w)
  let r := b.ratio
  let size := if down then b.taps - 1 else b.taps / r - 1
  let g := s.mixEng e
  let xs := g.work (fld w 48 4) (lanesOf (mixDom w))
  let (ws, s) := if b.zero && g.first then (List.replicate size 0, s) else s.smemRead b.state size
  let old := ws.map fun v => sext v.toNat 24
  let ys := if down then decimate (m.coef b) b.taps r old xs else interpolate (m.coef b) b.taps r old xs
  let (zs, n) := narrowLanes ys 14
  let all := old ++ xs
  let new := (all.drop (all.length - size)).map fun x => BitVec.ofInt 32 x
  ({ (s.putWork e (fld w 52 4) zs) with mix := ((s.putWork e (fld w 52 4) zs).mix).write b.state new }).countSat e n

/-- BDN W, WS, bridge. -/
def execBdn (eng : Nat) (s : State) : Out :=
  s.whenLive fun s => s.mixIssue eng 0x14 fun s m _ w => s.mixBridge eng m w true

/-- BUP W, WS, bridge. -/
def execBup (eng : Nat) (s : State) : Out :=
  s.whenLive fun s => s.mixIssue eng 0x15 fun s m _ w => s.mixBridge eng m w false

/-! ## Carts (R289) -/

/-- Carts of an engine's queue. -/
def mixCartDepth : Nat := 64

/-- A template fires into the cart queue with word 7 the block number, or is dropped by a full queue. -/
def State.mixCart (s : State) (e : Nat) (m : Image) (b : Nat) (w : Word) : State :=
  let g := s.mixEng e
  if b % (fld w 12 10 + 1) ≠ fld w 2 10 then s
  else if mixCartDepth ≤ g.carts.length then
    (s.inc F.MIX_ENG_CART_DROP_CNT.CNT e).mixNotice e 3 (mixIdx w)
  else
    let ws := (m.cartTpl (mixIdx w)).set 7 (wd b)
    (s.setMix e { g with carts := g.carts ++ [ws] }).inc F.MIX_ENG_CART_CNT.CNT e

/-- CART tpl, PERIOD, PHASE. -/
def execCart (eng : Nat) (s : State) : Out :=
  s.whenReady fun s => s.mixIssue eng 0x18 fun s m b w => s.mixCart eng m b w

/-! ## Program slots (R293 to R295) -/

/-- A write of MIX_ENG_LOAD_DATA. -/
def State.mixLoad (s : State) (e : Nat) (v : Word) : State :=
  if s.isSet F.MIX_ENG_STATUS.PEND e then s.flag F.MIX_ENG_STATUS.LOAD_ERR e true
  else
    let a := s.get F.MIX_ENG_LOAD_ADDR.ADDR e
    let m := s.mixEng e
    (s.setMix e { m with prog := Tbl.put 0 m.prog (s.idleSlot e * 32768 + a) v }).put F.MIX_ENG_LOAD_ADDR.ADDR e (a + 1)

/-- MIX_ENG_LOAD_DATA_WRITE. -/
def execMixEngLoadDataWrite (eng : Nat) (value : Word) (s : State) : Out := s.whenLive fun s => s.mixLoad eng value

/-- A read of MIX_ENG_LOAD_DATA. -/
def State.mixLoadRead (s : State) (e : Nat) : Word × State :=
  let a := s.get F.MIX_ENG_LOAD_ADDR.ADDR e
  (Tbl.at 0 (s.mixEng e).prog (s.idleSlot e * 32768 + a), s.put F.MIX_ENG_LOAD_ADDR.ADDR e (a + 1))

/-- MIX_ENG_LOAD_DATA_READ. -/
def execMixEngLoadDataRead (hart eng : Nat) (s : State) : Out :=
  s.whenLive fun s =>
    let (v, t) := s.mixLoadRead eng
    t.respond hart v

/-- B_next: the block that the engine will start next (R294). -/
def State.mixNext (s : State) (e : Nat) : Nat :=
  let m := s.mixEng e
  let now := s.mixBlock
  match m.run with
  | some _ => if m.passed < m.tick.getD 0 then m.tick.getD 0 else m.passed + 1
  | none =>
    if s.isSet F.MIX_CFG.EN 0 && s.isSet F.MIX_ENG_CTL.EN e && m.tick ≠ some now then now else now + 1

/-- B_s of the swap index. -/
def State.swapBlock (s : State) (e : Nat) : Nat := ceilDiv (s.get F.MIX_ENG_SWAP_IDX.IDX e) 48

/-- ARM: BUSY, BAD_IMAGE, BUDGET, LATE, or the image is pending (R291 to R294). -/
def State.mixArm (s : State) (e : Nat) : State :=
  let img : Image := ⟨(s.mixEng e).prog, s.idleSlot e * 32768⟩
  if s.isSet F.MIX_ENG_STATUS.PEND e then s.put F.MIX_ENG_CMD_STATUS.RESULT e 4
  else match img.badWord with
    | some i => (s.put F.MIX_ENG_CMD_STATUS.RESULT e 1).put F.MIX_ENG_CMD_STATUS.ERR_WORD e i
    | none =>
      if 1080000 < img.budget then s.put F.MIX_ENG_CMD_STATUS.RESULT e 2
      else if s.swapBlock e < s.mixNext e + 2 then s.put F.MIX_ENG_CMD_STATUS.RESULT e 3
      else
        let s := (s.flag F.MIX_ENG_STATUS.PEND e true).put F.MIX_ENG_START_BLK.BLK e (s.swapBlock e)
        s.put F.MIX_ENG_CMD_STATUS.RESULT e 0

/-- DISARM. -/
def State.mixDisarm (s : State) (e : Nat) : State :=
  if s.isSet F.MIX_ENG_STATUS.PEND e then
    let s := (s.flag F.MIX_ENG_STATUS.PEND e false).put F.MIX_ENG_START_BLK.BLK e (s.mixEng e).actBlk
    s.put F.MIX_ENG_CMD_STATUS.RESULT e 0
  else s.put F.MIX_ENG_CMD_STATUS.RESULT e 5

/-- MIX_ENG_CMD with GO 1. -/
def State.mixCommand (s : State) (e op : Nat) : State :=
  let s := s.put F.MIX_ENG_CMD.OP e op
  match op with
  | 1 => s.mixArm e
  | 2 => s.mixDisarm e
  | _ => s.put F.MIX_ENG_CMD_STATUS.RESULT e 6

/-- ARM: OP 1. -/
def execArm (eng : Nat) (s : State) : Out := s.whenLive fun s => s.mixCommand eng 1

/-- DISARM: OP 2. -/
def execDisarm (eng : Nat) (s : State) : Out := s.whenLive fun s => s.mixCommand eng 2

/-! ## Direct writes (R276, R297, R299, R300) -/

/-- A write of MIX_ENG_PARAM. -/
def State.mixParam (s : State) (e i : Nat) (v : Word) : State :=
  let m := s.mixEng e
  s.setMix e { m with param := Tbl.put 0 m.param i (BitVec.ofNat 16 v.toNat) }

/-- PARAMETER_WRITE. -/
def execParameterWrite (eng index : Nat) (value : Word) (s : State) : Out :=
  s.whenLive fun s => s.mixParam eng index value

/-- An engine enabled anew starts at the next tick: the ticks up to the one under way have passed it (R300). -/
def State.mixRearm (s : State) (e : Nat) : State :=
  s.setMix e { s.mixEng e with tick := some s.mixBlock, passed := s.mixBlock }

/-- A write of MIX_ENG_CTL: an engine enabled anew starts at the next tick. -/
def State.mixEngCtl (s : State) (e : Nat) (v : Word) : State :=
  let on := fld v 0 1 = 1
  let s := if on && !s.isSet F.MIX_ENG_CTL.EN e then s.mixRearm e else s
  s.flag F.MIX_ENG_CTL.EN e on

/-- MIX_ENG_CTL_WRITE. -/
def execMixEngCtlWrite (eng : Nat) (value : Word) (s : State) : Out := s.whenLive fun s => s.mixEngCtl eng value

/-- A write of MIX_CFG: TB and DOMAIN stay while EN is 1; ticks begin with the next ms (R270, R299). -/
def State.mixCfg (s : State) (v : Word) : State :=
  let on := s.isSet F.MIX_CFG.EN 0
  let s' := s.setReg .MIX_CFG 0 (v &&& wd 0xFFFF)
  if on then
    (s'.put F.MIX_CFG.TB 0 (s.get F.MIX_CFG.TB 0)).put F.MIX_CFG.DOMAIN 0 (s.get F.MIX_CFG.DOMAIN 0)
  else if fld v 0 1 = 1 then
    (List.range 8).foldl State.mixRearm s'
  else s'

/-- A write of MIX_SMEM_DATA. -/
def State.smemStore (s : State) (v : Word) : State :=
  let a := s.get F.MIX_SMEM_ADDR.ADDR 0
  ({ s with mix := s.mix.write a [BitVec.ofNat 32 v.toNat] }).put F.MIX_SMEM_ADDR.ADDR 0 (a + 1)

/-- A read of MIX_SMEM_DATA. -/
def State.smemLoad (s : State) : Word × State :=
  let a := s.get F.MIX_SMEM_ADDR.ADDR 0
  let (ws, s) := s.smemRead a 1
  (wd (ws.getD 0 0).toNat, s.put F.MIX_SMEM_ADDR.ADDR 0 (a + 1))

/-- MIX_SMEM_DATA_ACCESS: a hart's write or read of MIX_SMEM_DATA. -/
def execMixSmemDataAccess (hart : Nat) (write : Bool) (value : Word) (s : State) : Out :=
  s.whenLive fun s =>
    if write then s.smemStore value
    else
      let (v, t) := s.smemLoad
      t.respond hart v

end Sys2Proof.Machine
end

