-- ==== Sys2Proof/Machine/VideoDecode.lean ====
section
/-! DEFINITION. Video decode (10 R303 to R318): stream records, packet carts, frame assembly, loss, decoding and
publication, the stream opcodes. What a codec reads in a bitstream, and the samples it makes of it, are free values of
Config (the codecs' own standards state them); everything around it is the rules'. -/

namespace Sys2Proof.Machine

namespace DRec
abbrev CODEC : RecF := ⟨16, 0, 61, 3⟩
abbrev SCID : RecF := ⟨16, 0, 41, 20⟩
abbrev GEN : RecF := ⟨16, 0, 33, 8⟩
abbrev NPIC : RecF := ⟨16, 0, 28, 5⟩
abbrev PUB_SL : RecF := ⟨16, 0, 26, 2⟩
abbrev NOTICE_EN : RecF := ⟨16, 0, 25, 1⟩
abbrev EVQ : RecF := ⟨16, 0, 19, 6⟩
abbrev MAX_W : RecF := ⟨16, 1, 51, 13⟩
abbrev MAX_H : RecF := ⟨16, 1, 38, 13⟩
abbrev PITCH : RecF := ⟨16, 1, 32, 6⟩
abbrev LOG2_BSB : RecF := ⟨16, 2, 48, 5⟩
abbrev BSB_BASE : RecF := ⟨16, 2, 0, 48⟩
abbrev POOL_BASE : RecF := ⟨16, 3, 0, 48⟩
abbrev PIC_BYTES : RecF := ⟨16, 4, 32, 32⟩
abbrev PUB_IOVA : RecF := ⟨16, 5, 0, 48⟩
abbrev CTX_BASE : RecF := ⟨16, 6, 0, 48⟩
abbrev OPEN : RecF := ⟨16, 8, 63, 1⟩
abbrev BROKEN : RecF := ⟨16, 8, 62, 1⟩
abbrev PUB_SEQ : RecF := ⟨16, 8, 0, 32⟩
abbrev LAST_TS : RecF := ⟨16, 9, 0, 64⟩
abbrev FRM_CNT : RecF := ⟨16, 10, 0, 48⟩
abbrev LOST_CNT : RecF := ⟨16, 11, 0, 48⟩
abbrev LATE_CNT : RecF := ⟨16, 12, 0, 48⟩
end DRec

/-- What an engine works on during a cart of a decode stream: its accesses, the stream's number, its record, what the
engines keep of it, the engine. -/
structure Dec where
  io : Vio
  stream : Nat
  recw : List Word
  ds : DecStream
  eng : Nat

/-- A field of the record. -/
def Dec.get (d : Dec) (f : RecF) : Nat := wordsGet d.recw f

/-- A field of the record replaced. -/
def Dec.set (d : Dec) (f : RecF) (v : Nat) : Dec := { d with recw := wordsSet d.recw f v }

/-- A count of the record raised. -/
def Dec.inc (d : Dec) (f : RecF) : Dec := d.set f (d.get f + 1)

/-- The state behind the engine's accesses changed. -/
def Dec.map (d : Dec) (f : State → State) : Dec := { d with io := d.io.map f }

/-- IOVA of a stream record (R307). -/
def State.decRecord (s : State) (stream : Nat) : Nat := s.get F.VDEC_STBL.BASE 0 + stream * 128

/-- Port, engine and domain of a decode engine's accesses. -/
def State.decSrc (s : State) (e : Nat) : Src := ⟨0, e, s.get F.VDEC_CFG.DOMAIN 0, e⟩

/-- A notice of a stream (R317). -/
def Dec.notice (d : Dec) (code v : Nat) : Dec :=
  if d.get DRec.NOTICE_EN = 1 then d.map fun s => s.post1 7 (d.get DRec.EVQ) code d.stream 0 v else d

/-! ## Loss (R312 to R317) -/

/-- Every reference slot (log 47). -/
def allRefs : Nat := 65535

/-- Codecs whose references are known slot by slot: VP9 and AV1 (R314). -/
def bySlot (codec : Nat) : Bool := codec = 3 || codec = 4

/-- Slots of a mask that another does not have. -/
def maskOff (a b : Nat) : Nat := nand64 a (2 ^ 16 - 1 - b % 2 ^ 16)

/-- Slots of either mask. -/
def maskOr (a b : Nat) : Nat := maskOff a b + b % 2 ^ 16

/-- Bitstream bytes held of a frame of a codec, in packet order. -/
def DecFrame.bytes (f : DecFrame) (codec : Nat) : List Byte := codedBytes codec (f.pkts.map fun p => p.2.2.2)

/-- A frame is lost: counted, BROKEN, its references invalid, LOST posted at the first one after a publication
(R314, R317). -/
def Dec.lose (d : Dec) (inval : Nat) : Dec :=
  let d := (d.inc DRec.LOST_CNT).set DRec.BROKEN 1
  let d := d.map fun s => s.inc F.VDEC_ENG_LOST_CNT.CNT d.eng
  let first := d.ds.good
  let all := inval ≠ 0 && !bySlot (d.get DRec.CODEC)
  let ds := { d.ds with
    made := if all then [] else d.ds.made
    valid := maskOff d.ds.valid inval
    lost := d.ds.lost + 1, good := false, told := d.ds.told || first }
  let d := { d with ds := ds }
  if first then d.notice 1 (d.get DRec.PUB_SEQ) else d

/-- References that a frame never whole would have updated: slots that nothing fixes where they are known slot by slot
(R314) (log 47). -/
def Dec.lostMask (d : Dec) (bytes : List Byte) : Nat :=
  if bySlot (d.get DRec.CODEC) then (Config.lostRefresh d.ds.hist (d.get DRec.CODEC) bytes).toNat else allRefs

/-- A frame in assembly is over: its later packets are late (R312). -/
def Dec.close (d : Dec) (f : DecFrame) : Dec :=
  let ds := { d.ds with
    frames := d.ds.frames.filter fun g => !(g.ts = f.ts && g.sl = f.sl)
    past := (f.ts, f.sl) :: d.ds.past }
  { d with ds := ds }

/-- A frame in assembly is lost. -/
def Dec.abandon (d : Dec) (f : DecFrame) : Dec := (d.close f).lose (d.lostMask (f.bytes (d.get DRec.CODEC)))

/-! ## Publication (R306, R308, R315, R317) -/

/-- Bytes of a picture's planes (log 47). -/
def planeBytes (made off n : Nat) : List Byte := (List.range n).map fun i => Config.decodedByte made (off + i)

/-- A picture written whole: words 0 and 1, each band with BANDS_DONE after it, words 2 to 4 with the zeros of words 5 and
6 behind them, word 7 (R305, R306). -/
def Vio.writePicture (v : Vio) (base id pitch : Nat) (p : DecPic) : Vio :=
  let w1 := pictureWord1 p.width p.height pitch p.fmt
  let v := v.put base [wd id, w1 0]
  let luma := headerPage
  let chroma := chromaOff p.height pitch
  let v := (List.range (bandsOf p.height)).foldl (fun v b =>
    let a := luma + b * (64 * pitch * 256)
    let c := chroma + b * (32 * pitch * 256)
    let v := v.write (base + a) (planeBytes p.made a (64 * pitch * 256))
    let v := v.write (base + c) (planeBytes p.made c (32 * pitch * 256))
    v.put (base + 8) [w1 (b + 1)]) v
  let v := v.put (base + 16) [wd p.ts, p.ingress, pictureWord4 p.key p.sl p.tl, 0, 0]
  v.put (base + 56) [wd id]

/-- IOVA of a pool picture. -/
def Dec.poolAt (d : Dec) (i : Nat) : Nat := d.get DRec.POOL_BASE + i * d.get DRec.PIC_BYTES

/-- A picture is published: written whole, then named in the publication word (R308). -/
def Dec.publish (d : Dec) (p : DecPic) : Dec :=
  let seq := (d.get DRec.PUB_SEQ + 1) % 2 ^ 32
  let io := (d.io.writePicture (d.poolAt p.idx) seq (d.get DRec.PITCH) p).put (d.get DRec.PUB_IOVA)
    [wd (seq * 2 ^ 32 + p.idx)]
  let d := { d with io := io }
  if !io.ok then d
  else
    let d := ((d.set DRec.PUB_SEQ seq).set DRec.LAST_TS p.ts).inc DRec.FRM_CNT
    let d := d.map fun s => s.inc F.VDEC_ENG_PUB_CNT.CNT d.eng
    let told := d.ds.told
    let lost := d.ds.lost
    let ds := { d.ds with pub := some p.idx, prev := d.ds.pub, good := true, lost := 0, told := false }
    let d := { d with ds := ds }
    if told then d.notice 2 lost else d

/-- Pictures still needed: references and those that await output. -/
def keepPics (ps : List DecPic) : List DecPic := ps.filter fun p => p.refs ≠ 0 || p.waits

/-- A picture due for output is published if it is of PUB_SL; it no longer awaits output (R303, R315). -/
def Dec.output (d : Dec) (made : Nat) : Dec :=
  match d.ds.pics.find? fun p => p.made = made && p.waits with
  | none => d
  | some p =>
    let shown := d.ds.pics.map fun q => if q.made = made then { q with waits := false } else q
    let ds := { d.ds with pics := keepPics shown }
    let d := { d with ds := ds }
    if p.sl = d.get DRec.PUB_SL then d.publish p else d

/-! ## Decoding a frame (R311, R313, R314, R316) -/

/-- Pool pictures that may be reused (R308). -/
def Dec.freePics (d : Dec) : List Nat :=
  (List.range (d.get DRec.NPIC)).filter fun i =>
    (d.ds.pics.all fun p => p.idx ≠ i) && d.ds.pub ≠ some i && d.ds.prev ≠ some i

/-- Pitch that a picture needs, in 256-byte units (R316). -/
def pitchNeeded (w : Nat) (deep : Bool) : Nat := ceilDiv (w * (if deep then 2 else 1)) 256

/-- Profiles of a codec (R303); VP8 has none. -/
def profilesOf (codec : Nat) : List Config.Profile :=
  match codec with
  | 0 => [.constrainedBaseline, .main, .high]
  | 1 => [.main, .main10]
  | 3 => [.profile0]
  | _ => [.main]

/-- Sample depths of a codec's profile (R303). -/
def depthsOf (codec : Nat) (p : Config.Profile) : List Nat :=
  if codec = 4 || (codec = 1 && p = .main10) then [8, 10] else [8]

/-- Tools that a codec's streams may not use (R303); film grain is parsed and not applied. -/
def excludedTools (codec : Nat) : List Config.Tool :=
  match codec with
  | 0 => [.field, .mbaff, .fmo, .aso, .redundantSlice]
  | 1 => [.rangeExtension, .screenContent, .multiLayer]
  | 4 => [.largeScaleTile]
  | _ => []

/-- A frame lies inside the profiles, level, depth, chroma and tools of its codec (R303). -/
def codecAllows (codec : Nat) (f : Config.CodedFrame) : Bool :=
  (codec = 2 || (f.profile ∈ profilesOf codec && f.level ≤ 51)) && f.depth ∈ depthsOf codec f.profile
    && (f.c420 || (codec = 4 && f.mono)) && f.tools.all fun t => t ∉ excludedTools codec

/-- What a frame says of itself and its references: its packets' link, for H.264 and H.265 its own syntax (R313). -/
def linkOf (codec : Nat) (f : Config.CodedFrame) (link : FrameLink) : FrameLink :=
  match codec with
  | 0 => ⟨if f.reference then some (f.number, 0) else none, []⟩
  | 1 => ⟨some (f.number, 0), f.rps.map fun p => (p, 0)⟩
  | _ => link

/-- An H.264 frame does not follow the last reference frame: frame_num neither repeats nor goes on (R313). -/
def frameGap (made : List (Nat × Nat)) (f : Config.CodedFrame) : Bool :=
  !(made.head?.any fun p => f.number = p.1 || f.number = (p.1 + 1) % f.range)

/-- A frame references one that was lost or never decoded (R313). -/
def Dec.unlinked (d : Dec) (f : Config.CodedFrame) (link : FrameLink) : Bool :=
  let codec := d.get DRec.CODEC
  !f.key && (((linkOf codec f link).needs.any fun n => n ∉ d.ds.made) || (codec = 0 && frameGap d.ds.made f)
    || maskOff f.refs.toNat d.ds.valid ≠ 0)

/-- Names of the frames decoded since the last key frame, with a frame decoded now; AV1 differences reach back 4,096. -/
def madeNow (codec : Nat) (made : List (Nat × Nat)) (f : Config.CodedFrame) (link : FrameLink) : List (Nat × Nat) :=
  let name := (linkOf codec f link).name.toList
  if f.key then name else (name ++ made.filter fun n => n ∉ name).take 4096

/-- A frame that may not be decoded (R303, R313, R316). -/
def Dec.refused (d : Dec) (f : Config.CodedFrame) (link : FrameLink) : Bool :=
  !f.good || !codecAllows (d.get DRec.CODEC) f || d.unlinked f link
    || f.width.toNat < 16 || 4096 < f.width.toNat || f.height.toNat < 16 || 2304 < f.height.toNat
    || d.get DRec.MAX_W < f.width.toNat || d.get DRec.MAX_H < f.height.toNat
    || d.get DRec.PITCH < pitchNeeded f.width.toNat (8 < f.depth) || d.get DRec.NPIC - 3 < f.nrefs

/-- References that a whole frame refused takes along: the slots it refreshes where its syntax gives them (R314). -/
def Dec.refusedMask (d : Dec) (f : Config.CodedFrame) (bytes : List Byte) : Nat :=
  if bySlot (d.get DRec.CODEC) && f.good then f.refresh.toNat else d.lostMask bytes

/-- The engine reads the pictures that a frame references. -/
def Dec.lookRefs (d : Dec) (refs : Nat) : Dec :=
  let used := d.ds.pics.filter fun p => nand64 p.refs refs ≠ 0
  { d with io := used.foldl (fun io p => io.look (d.poolAt p.idx) (d.get DRec.PIC_BYTES)) d.io }

/-- A whole frame is decoded: lost where it may not be, else its picture takes a pool place and its references, and what
is due for output leaves. The bytes of a pool picture change when it is published (R308; log 48). -/
def Dec.decode (d : Dec) (ts sl : Nat) (ingress : Word) (link : FrameLink) (bytes : List Byte) : Dec :=
  let codec := d.get DRec.CODEC
  let f := Config.decodeFrame d.ds.hist codec bytes
  let free := d.freePics
  if d.refused f link || free = [] then d.lose (d.refusedMask f bytes)
  else
    let idx := free.getD (Config.poolPick d.ds.hist % free.length) 0
    let w := f.width.toNat
    let h := f.height.toNat
    let made := f.next
    let d := d.map fun s => s.add F.VDEC_ENG_PIX_CNT.CNT d.eng (w * h)
    let d := (({ d with io := d.io.touch (d.get DRec.CTX_BASE) 262144 } : Dec)).lookRefs f.refs.toNat
    let pic : DecPic := ⟨idx, f.refresh.toNat, true, made, ts, ingress, f.key, sl, f.tl.toNat, w, h, b2n (8 < f.depth)⟩
    let rest := d.ds.pics.map fun q => { q with refs := maskOff q.refs f.refresh.toNat }
    let ds := { d.ds with
      hist := made
      made := madeNow codec d.ds.made f link
      valid := if f.key then allRefs else maskOr d.ds.valid f.refresh.toNat
      pics := keepPics (rest ++ [pic]) }
    let d := { d with ds := ds }
    let d := if f.key then d.set DRec.BROKEN 0 else d
    (Config.outputOrder made).foldl Dec.output d

/-! ## Assembly (R310 to R312) -/

/-- The last SEQ_EXT of a frame that the first packet of a later timestamp ends, for H.264, H.265 and VP8 (R311). -/
def Dec.stops (d : Dec) (f : DecFrame) : List Nat :=
  if bySlot (d.get DRec.CODEC) then [] else (d.ds.seen.filter fun x => f.ts < x.1).map fun x => x.2 - 1

/-- A frame holds its first and last packets with every one between them (R311). The first one is the earliest marked as a
start that is held. -/
def Dec.whole (d : Dec) (f : DecFrame) : Bool :=
  match (f.pkts.filter fun p => p.2.1).map (·.1) with
  | [] => false
  | a :: as =>
    let a := as.foldl min a
    (((f.pkts.filter fun p => p.2.2.1).map (·.1)) ++ d.stops f).any fun b =>
      a ≤ b && (List.range (b - a + 1)).all fun i => f.pkts.any fun p => p.1 = a + i

/-- A packet added to a frame in SEQ_EXT order; one held already stays. The first packet gives the frame's ingress time and
what it says of itself. -/
def DecFrame.add (f : DecFrame) (seq : Nat) (p : Piece) (stamp : Word) : DecFrame :=
  if f.pkts.any fun q => q.1 = seq then f
  else
    let before := f.pkts.filter fun q => q.1 < seq
    let after := f.pkts.filter fun q => seq < q.1
    { f with
      pkts := before ++ (seq, p.first, p.last, p.bytes) :: after
      ingress := if p.first then stamp else f.ingress
      link := if p.first then p.link else f.link }

/-- A packet of a timestamp has come: its lowest SEQ_EXT seen, the structures in force after it. -/
def Dec.note (d : Dec) (ts seq : Nat) (p : Piece) : Dec :=
  let low := match d.ds.seen.find? fun x => x.1 = ts with
    | some x => min x.2 seq
    | none => seq
  let ds := { d.ds with seen := (ts, low) :: d.ds.seen.filter (fun x => x.1 ≠ ts), av1 := p.av1, group := p.group }
  { d with ds := ds }

/-- A frame too large to be kept (R312). -/
def Dec.tooLarge (d : Dec) (f : DecFrame) : Bool :=
  1024 < f.pkts.length || 2 ^ d.get DRec.LOG2_BSB / 2 < (f.bytes (d.get DRec.CODEC)).length

/-- Every frame that is whole is decoded, the older one first. -/
def Dec.decodeWhole (d : Dec) : Dec :=
  d.ds.frames.foldl (fun d f =>
    if d.whole f then (d.close f).decode f.ts f.sl f.ingress f.link (f.bytes (d.get DRec.CODEC)) else d) d

/-- The frame of a packet, opened if it is new; of two frames in assembly, incomplete both since whole ones are decoded
before, the older gives way (R312). -/
def Dec.openFrame (d : Dec) (ts sl : Nat) : Dec :=
  if d.ds.frames.any fun f => f.ts = ts && f.sl = sl then d
  else
    let d := match d.ds.frames with
      | f :: _ :: _ => d.abandon f
      | _ => d
    let ds := { d.ds with frames := d.ds.frames ++ [({ ts := ts, sl := sl, pkts := [] } : DecFrame)] }
    { d with ds := ds }

/-- A packet's payload joins its frame, or its frame is lost; frames that it completes, its own or an earlier one, are
decoded in the same cart. -/
def Dec.assemble (d : Dec) (ts sl seq : Nat) (stamp : Word) (rtp : List Byte) : Dec :=
  if d.ds.past.any fun o => o.1 = ts && o.2 = sl then
    (d.inc DRec.LATE_CNT).map fun s => s.inc F.VDEC_ENG_LATE_CNT.CNT d.eng
  else
    let dd := d.io.st.ctx (d.get DRec.SCID) Ctx.DD_ID
    let p := depacketize (d.get DRec.CODEC) dd d.ds.av1 d.ds.group rtp
    let d := ((d.note ts seq p).decodeWhole).openFrame ts sl
    let d := { d with io := d.io.touch (d.get DRec.BSB_BASE) (2 ^ d.get DRec.LOG2_BSB) }
    match d.ds.frames.find? fun f => f.ts = ts && f.sl = sl with
    | none => d
    | some f =>
      let f := f.add seq p stamp
      let ds := { d.ds with frames := d.ds.frames.map fun g => if g.ts = ts && g.sl = sl then f else g }
      let d := { d with ds := ds }
      (if !p.good || d.tooLarge f then d.abandon f else d).decodeWhole

/-! ## Carts of a stream -/

/-- Stream of a decode cart: AUX of a forwarded one (R309), word 2 of another (log 46). -/
def decStream (c : Cart) : Nat :=
  if cartType c.words = 0x11 then fld (c.words.getD 3 0) 0 20 else (Config.cartStream (c.words.getD 2 0)).toNat

/-- The cart of a decode engine ends, its packet's cells released first (R309). -/
def State.endDecode (s : State) (e : Nat) (c : Cart) (f : State → State) : State :=
  let s := match c.pkt with
    | some id => s.unhold id
    | none => s
  let t := f s
  match t.cart c.seq with
  | some d => if d.st = .ended && d.status ≠ 0 then t.inc F.VDEC_ENG_ERR_CNT.CNT e else t
  | none => t

/-- Words 8 to 15 of the record written back; the last three are the engines' own (R307; log 48). -/
def Dec.writeBack (d : Dec) : Dec :=
  let n := d.io.st.freeCtr
  let d := d.map fun s => { s with freeCtr := n + 3 }
  let ws := (d.recw.drop 8).take 5 ++ [Config.engineWord n, Config.engineWord (n + 1), Config.engineWord (n + 2)]
  { d with io := d.io.put (d.io.st.decRecord d.stream + 64) ws }

/-- What the engines keep of a stream replaced. -/
def State.setStream (s : State) (stream : Nat) (ds : DecStream) : State :=
  { s with vid := { s.vid with streams := Tbl.put {} s.vid.streams stream ds } }

/-- A cart of a stream is over: the record is written back and the cart ends OK; or an access stopped, every reference is
invalid and BROKEN is set (R316). -/
def Dec.finish (d : Dec) (c : Cart) (name : Nat) : State :=
  let d := d.writeBack
  if d.io.ok then
    (d.io.st.setStream d.stream d.ds).endDecode d.eng c fun s => s.endNamed c 0 name
  else
    let ds := { d.ds with valid := 0, made := [] }
    let stop := d.io.stop
    let w := setFld (d.recw.getD 8 0) 62 1 1
    let v : Vio := ({ d.io with stop := .ok }).put (d.io.st.decRecord d.stream + 64) [w]
    (v.st.setStream d.stream ds).endDecode d.eng c fun s => s.endStopped c stop 4

/-- Run a cart of a stream: BAD_RECORD where the stream is none of VDEC_STBL, else its record is read first (R309). -/
def State.withStream (s : State) (e : Nat) (c : Cart) (f : Dec → State) : State :=
  let stream := decStream c
  if 2 ^ s.get F.VDEC_STBL.LOG2_N 0 ≤ stream then s.endDecode e c fun s => s.endNamed c 1 1
  else
    let v : Vio := { st := s, q := s.decSrc e }
    let (ws, v) := v.words (s.decRecord stream) 16
    let ds := Tbl.at {} v.st.vid.streams stream
    if v.ok then f { io := v, stream := stream, recw := ws, ds := ds, eng := e }
    else
      let stop := v.stop
      (v.st.setStream stream { ds with valid := 0, made := [] }).endDecode e c fun s => s.endStopped c stop 4

/-- An ERROR that leaves the stream as it is. -/
def Dec.fail (d : Dec) (c : Cart) (name : Nat) : State := d.io.st.endDecode d.eng c fun s => s.endNamed c 1 name

/-- A packet cart (R309): NOT_OPEN, STALE, discarded for AUTH_FAIL, or assembled. -/
def Dec.packet (d : Dec) (c : Cart) : State :=
  let w2 := c.words.getD 2 0
  let w3 := c.words.getD 3 0
  let p := c.pkt.bind d.io.st.pkt
  let auth := (p.map fun p => p.is Tag.AUTH_FAIL).getD false
  let rtp := (p.map fun p => d.io.st.pktPayload p).getD []
  if d.get DRec.OPEN = 0 then d.fail c 2
  else if d.get DRec.SCID ≠ fld w2 11 20 || d.get DRec.GEN ≠ fld w2 3 8 then d.fail c 3
  else if auth then d.finish c 6
  else
    let sl := if bySlot (d.get DRec.CODEC) then fld w3 41 2 else 0
    (d.assemble (c.words.getD 5 0).toNat sl (fld (c.words.getD 4 0) 16 48) (c.words.getD 6 0) rtp).finish c 5

/-- A packet cart of an engine. -/
def State.decPacket (s : State) (e : Nat) : State :=
  match (s.engineOp 1 e 1).filter fun c => cartType c.words = 0x11 with
  | none => s
  | some c => (s.inc F.VDEC_ENG_PKT_CNT.CNT e).withStream e c fun d => d.packet c

/-- PACKET. -/
def execPacket (eng : Nat) (s : State) : Out := s.whenClkReady fun s => s.decPacket eng

/-- Least NPIC of a codec (R307). -/
def leastNpic (codec : Nat) : Nat := if codec ≤ 1 then 19 else if codec = 2 then 6 else 11

/-- Words 0 to 6 of a stream record that OPEN refuses (R307, R318; log 49). -/
def badStream (ws : List Word) : Bool :=
  let g := wordsGet ws
  5 ≤ g DRec.CODEC || g DRec.NPIC < leastNpic (g DRec.CODEC) || 24 < g DRec.NPIC
    || g DRec.LOG2_BSB < 16 || 24 < g DRec.LOG2_BSB || g DRec.PITCH = 0 || 32 < g DRec.PITCH
    || g DRec.BSB_BASE % 4096 ≠ 0 || g DRec.POOL_BASE % 4096 ≠ 0 || g DRec.PIC_BYTES % 4096 ≠ 0
    || g DRec.PUB_IOVA % 8 ≠ 0 || g DRec.CTX_BASE % 4096 ≠ 0

/-- OPEN: words 8 to 12 set anew, every reference invalid (R318). -/
def Dec.open (d : Dec) (c : Cart) : State :=
  if badStream (d.recw.take 7) then d.fail c 1
  else
    let n := d.io.st.freeCtr
    let d := d.map fun s => { s with freeCtr := n + 1 }
    let recw := d.recw.take 8 ++ [wd (2 ^ 63), 0, 0, 0, 0] ++ d.recw.drop 13
    ({ d with recw := recw, ds := { hist := Config.free 45 n } }).finish c 5

/-- A stream cart of an opcode. -/
def State.decCart (s : State) (e op : Nat) (f : Dec → Cart → State) : State :=
  match (s.engineOp 1 e op).filter fun c => cartType c.words = 0x10 with
  | none => s
  | some c => s.withStream e c fun d => f d c

/-- OPEN of a decode stream. -/
def execDecOpen (eng : Nat) (s : State) : Out := s.whenClkReady fun s => s.decCart eng 2 Dec.open

/-- FLUSH: the frames in assembly are lost; the references stay (R318). -/
def Dec.flush (d : Dec) (c : Cart) : State :=
  if d.get DRec.OPEN = 0 then d.fail c 2
  else (d.ds.frames.foldl (fun d f => (d.close f).lose 0) d).finish c 5

/-- FLUSH. -/
def execDecFlush (eng : Nat) (s : State) : Out := s.whenClkReady fun s => s.decCart eng 3 Dec.flush

/-- CLOSE: assembly is abandoned and OPEN cleared (R318). -/
def Dec.shut (d : Dec) (c : Cart) : State :=
  let ds := { d.ds with frames := [] }
  let d := { d with ds := ds }
  (d.set DRec.OPEN 0).finish c 5

/-- CLOSE of a decode stream. -/
def execDecClose (eng : Nat) (s : State) : Out := s.whenClkReady fun s => s.decCart eng 4 Dec.shut

/-- DECODE_AU: the frames of a raw access unit, at the media time of word 5 (R318). -/
def Dec.accessUnit (d : Dec) (c : Cart) : State :=
  if d.get DRec.OPEN = 0 then d.fail c 2
  else
    let (bytes, io) := d.io.read (cartIova c 3) (fld (c.words.getD 4 0) 0 32)
    let d := { d with io := io }
    let codec := d.get DRec.CODEC
    let fs := Config.auFrames codec (rawFrame codec bytes)
    let ts := (c.words.getD 5 0).toNat
    (if io.ok then fs.foldl (fun d f => d.decode ts (f.1 % 4) 0 {} f.2) d else d).finish c 5

/-- DECODE_AU. -/
def execDecodeAu (eng : Nat) (s : State) : Out := s.whenClkReady fun s => s.decCart eng 5 Dec.accessUnit

end Sys2Proof.Machine
end

