-- ==== Sys2Proof/Machine/ErrorDetection.lean ====
section
/-! DEFINITION. What a detected error of the part itself does beside its record (16 R452, second table, R453; 06 R200,
R202; 07 R205; 09 R271). The command gives the place of the failure by INST and INFO as its record holds them; what
those leave open is drawn (log 52). -/

namespace Sys2Proof.Machine

/-- A frame in transmission that is no copy of a packet ends with an inverted FCS, its time-stamp entry ABORTED
(13 R391). -/
def State.abortRing (s : State) (port : Nat) (t : TxFrame) : State := (s.abortTx port t).txqEnd port t true

/-- Array 1: a frame of a receive FIFO is dropped, or a transmission ends with an inverted FCS. -/
def State.hurtFifo (s : State) (inst : Nat) : State :=
  let (d, s) := s.draw 52
  let port := inst % 256
  if d % 2 = 0 then
    match s.sending port with
    | some t => s.abortRing port t
    | none => s
  else
    let g := inst % 32
    let fs := Tbl.at [] s.ing.fifo g
    { s with ing := { s.ing with fifo := Tbl.put [] s.ing.fifo g (fs.eraseIdx (d / 2 % max 1 fs.length)) } }

/-- A frame of a ring, or one that waits for a receive ring, that uses a cell is treated like such a packet: not sent and
not delivered, or ended with an inverted FCS. -/
def State.hurtRingFrame (s : State) (cell : Nat) : State :=
  let hit : QFrame → Bool := fun f => f.pkt.isNone && decide (cell ∈ f.cells)
  let s := s.tm.queues.foldl (fun t e =>
    match e.2.find? hit with
    | none => t
    | some f => ({ t with tm := { t.tm with
        queues := Tbl.put [] t.tm.queues e.1 (e.2.filter fun g => !hit g) } }).dropFrame f) s
  let (lost, kept) := s.ing.ringWait.partition fun w => decide (cell ∈ w.cells)
  let s := State.freeCells { s with ing := { s.ing with ringWait := kept } } (lost.flatMap (·.cells))
  (List.range 256).foldl (fun t port =>
    match t.sending port with
    | some x => if hit x.frame then t.abortRing port x else t
    | none => t) s

/-- Array 2: the packet of a cell is treated as though its AUTH_FAIL had become 1. -/
def State.hurtCell (s : State) (cell : Nat) : State :=
  match s.tm.pkts.find? fun e => e.2.any fun p => cell ∈ p.cells with
  | some (id, _) => s.failAuth id
  | none => s.hurtRingFrame cell

/-- Record kinds of a subsystem, each with its words. -/
def recordKinds : Nat → List (Nat × Nat)
  | 2 => [(0, 14)]
  | 3 => [(1, 8), (2, 4), (3, 12)]
  | 4 => [(4, 4), (5, 9), (6, 8), (7, 16)]
  | 5 => [(8, 12)]
  | _ => []

/-- Array 3: a record is poisoned. -/
def State.hurtRecord (s : State) (subsys idx : Nat) : State :=
  let (d, s) := s.draw 53
  let (e, s) := s.draw 54
  let kinds := recordKinds subsys
  match kinds[d % max 1 kinds.length]? with
  | some (kind, n) => { s with err := { s.err with poison := (kind, idx, e % n) :: s.err.poison } }
  | none => s

/-- Array 6: the running cart of a core ends with the MEM exception, or a saved one will when it resumes (R205). -/
def State.hurtPea (s : State) (k : Nat) : State :=
  let (d, s) := s.draw 55
  let c := s.core k
  let seats := [Seat.run, Seat.slot0, Seat.slot1].filter fun t => (c.at t).isSome
  let seat := seats.getD (d % max 1 seats.length) .run
  match seat, c.at seat with
  | .run, some r => s.except k r ⟨7, 0⟩
  | seat, some r => s.setCore k (c.put (some { r with bad := true }) seat)
  | _, none => s

/-- A decode cart ends ERROR MEM; where its stream's record can be read, every reference is invalid and BROKEN is set
(10 R316). -/
def State.hurtDecode (s : State) (e : Nat) (c : Cart) : State :=
  let stream := decStream c
  let v : Vio := { st := s, q := s.decSrc e }
  let (ws, v) := v.words (s.decRecord stream) 16
  let ds := Tbl.at {} v.st.vid.streams stream
  if stream < 2 ^ s.get F.VDEC_STBL.LOG2_N 0 && v.ok then
    let d : Dec := { io := { v with stop := .memErr }, stream := stream, recw := ws, ds := ds, eng := e }
    d.finish c 4
  else s.endDecode e c fun s => s.endNamed c 1 4

/-- A composition cart ends ERROR MEM; a COMPOSE of an open layout has advanced STORE_IDX (11 R344). -/
def State.hurtCompose (s : State) (e : Nat) (c : Cart) : State :=
  if cartFunc c.words % 256 ≠ 0x41 || badCmpCart c || 2 ^ s.get F.CMP_LTBL.LOG2_N 0 ≤ cartLayout c then s.cmpError e c 4
  else
    let r := s.layoutRecord (cartLayout c)
    let v : Vio := { st := s, q := ⟨2, e, s.get F.CMP_CFG.DOMAIN 0, e⟩ }
    let (ws, v) := v.words r 128
    if v.ok && wordsGet ws CRec.OPEN ≠ 0 && !badLayout ws then (v.advanceStore r ws).st.cmpError e c 4 else s.cmpError e c 4

/-- Array 9: the cart of an engine ends ERROR MEM, with what R316, R322 and R344 say of that. -/
def State.hurtEngine (s : State) (subsys e : Nat) : State :=
  match s.engineCart (subsys - 8) e with
  | none => s
  | some c =>
    match subsys with
    | 9 => s.hurtDecode e c
    | 10 => s.hurtCompose e c
    | 11 => s.endEncode e c 1 17
    | _ => s

/-- Effect of an uncorrectable error in an array. -/
def State.hurtArray (s : State) (subsys inst info : Nat) : State :=
  match inst / 4096 % 16 with
  | 1 => s.hurtFifo (inst % 4096)
  | 2 => s.hurtCell info
  | 3 => s.hurtRecord subsys info
  | 6 => s.hurtPea (inst % 512)
  | 7 => { s with mix := { s.mix with bad := info % 2 ^ 20 :: s.mix.bad } }
  | 8 => s.flag F.MIX_ENG_CTL.EN (inst % 8) false
  | 9 => s.hurtEngine subsys (inst % 4096)
  | 11 => { s with ctl := { s.ctl with poisoned := info / 64 :: s.ctl.poisoned } }
  | 13 => s.flag F.SEC_STATUS.AK_VALID 0 false
  | _ => s

/-- An error of the dispatcher that sets a side's flag: SIDE_DETECTED, or SOLE_SIDE_ERROR while one side is offline
(06 R200, R202). Which side it is, no field of the record says: it is drawn (log 102). -/
def State.sideError (s : State) (inst : Nat) (info : Word) : State :=
  if s.isSet F.WD_LOCK_STATUS.A_OFF 0 then (s.flagSide 1).raise false 4 6 0x22 inst info
  else if s.isSet F.WD_LOCK_STATUS.B_OFF 0 then (s.flagSide 0).raise false 4 6 0x22 inst info
  else
    let (d, s) := s.draw 62
    (s.flagSide (d % 2)).raise false 1 6 0x23 inst info

/-- WB_LOST: a write-back of the line at an address loses its data, and the line leaves L2 with its mark (14 R404). -/
def State.loseLine (s : State) (a : Nat) : State :=
  let l := a / 64
  ({ s with ctl := { s.ctl with poisoned := s.ctl.poisoned.filter (· ≠ l) } }).loseData l

/-- HBM_UE: a read found the burst at a local offset uncorrectable, and the controller has logged it (12 R362). -/
def State.hurtBurst (s : State) (pc loc : Nat) : State :=
  if pc ∈ s.enabledPcs && loc < pcBytes then
    let s := { s with hbm := { s.hbm with ue := Tbl.put 0 s.hbm.ue (s.ofLocal pc loc / 32) 2 } }
    s.inc F.HBM_PC_UE_CNT.CNT pc
  else s

/-- A detected error: its effect on what it hit, and its record (R452, R454, R455). -/
def State.detect (s : State) (subsys code inst : Nat) (info : Word) : State :=
  if subsys = 0 || 14 < subsys then s
  else if (code = 0x02 && inst / 4096 % 16 = 5) || (code = 0x03 && subsys = 6) then s.sideError inst info
  else match errClass s code inst with
    | none => s
    | some cls =>
      let s := if code = 0x02 then s.hurtArray subsys inst info.toNat else s
      let s := if code = 0x10 then s.inc F.HBM_PC_CE_CNT.CNT (inst % 64) else s
      let s := if code = 0x11 then s.hurtBurst inst info.toNat else s
      let s := if code = 0x14 then s.loseLine info.toNat else s
      let s := if code = 0x01 && inst / 4096 % 16 = 6 then s.inc F.PEA_CORE_ECC_CNT.CNT (inst % 512) else s
      s.raise false cls subsys code inst info

/-- ERROR_DETECTION. -/
def execErrorDetection (subsys code inst : Nat) (info : Word) (s : State) : Out :=
  s.whenReady fun s => s.detect subsys code inst info

end Sys2Proof.Machine
end

