-- ==== Sys2Proof/Machine/Hbm.lean ====
section
/-! DEFINITION. The commands of the memory subsystem (12): service, requests, scrub, refresh, training helpers,
invalidation, fault queues, DMA channels. -/

namespace Sys2Proof.Machine

/-! ## Service (R352, R353) -/

/-- A write of HBM_CTL: 1 puts HBM in service if every enabled pseudo-channel is ONLINE; it never leaves service. -/
def State.hbmCtl (s : State) (v : Word) : State :=
  if fld v 0 1 = 1 && !s.isSet F.HBM_CTL.EN 0
      && s.enabledPcs.all fun c => s.get F.HBM_PC_STATE.STATE c = 2 then
    (s.flag F.HBM_CTL.EN 0 true).put F.HBM_STATUS.NPC 0 s.enabledPcs.length
  else s

/-- HBM_CTL_WRITE: the write. -/
def execHbmCtlWrite (value : Word) (s : State) : Out := s.whenLive fun s => s.hbmCtl value

/-- A pseudo-channel's state under a new mask bit while EN is 0: a bit set starts training; a bit cleared removes one in
TRAINING until full reset and sets its HBM_BOOT_FAIL bit. Only these transitions occur, so one that is ONLINE or
RETRAINING keeps its state (R353, R369) (log 19). -/
def State.maskPc (s : State) (m c : Nat) : State :=
  let st := s.get F.HBM_PC_STATE.STATE c
  if bitAt m c then
    if st = 0 && c ∉ s.hbm.removed then s.put F.HBM_PC_STATE.STATE c 1 else s
  else if st = 1 then
    let s := s.put F.HBM_PC_STATE.STATE c 0
    let s := s.setReg .HBM_BOOT_FAIL 0 (setFld (s.reg .HBM_BOOT_FAIL 0) c 1 1)
    { s with hbm := { s.hbm with removed := c :: s.hbm.removed } }
  else s

/-- A write of HBM_PC_MASK: ignored while EN is 1 (R352). -/
def State.hbmMask (s : State) (v : Word) : State :=
  if s.isSet F.HBM_CTL.EN 0 then s
  else (List.range 64).foldl (fun t c => t.maskPc v.toNat c) (s.setReg .HBM_PC_MASK 0 v)

/-! ## Requests (R354 to R358) -/

/-- A request enters its port with the urgency settings in force; a full port holds it at its requestor, behind those
already held (R354). -/
def State.enterPort (s : State) (r : HbmReq) : State :=
  if s.portFull r.port || s.hbm.gate.any fun w => w.port = r.port then
    { s with hbm := { s.hbm with gate := s.hbm.gate ++ [r] } }
  else { s with hbm := { s.hbm with waiting := s.hbm.waiting ++ [s.asEntered r] } }

/-- Room at a port lets in the request that waits longest for it. -/
def State.letIn (s : State) (p : Nat) : State :=
  match takeFirst (fun w : HbmReq => w.port = p) s.hbm.gate with
  | none => s
  | some (r, rest) =>
    if s.portFull p then s
    else { s with hbm := { s.hbm with gate := rest, waiting := s.hbm.waiting ++ [s.asEntered r] } }

/-- Urgency of a request (R355). -/
def State.urgency (s : State) (r : HbmReq) : Nat :=
  let age := s.clock - r.entered
  let u := if r.target / 2 ≤ age then max r.prio 2 else r.prio
  if r.target ≤ age then 3 else u

/-- A request behind earlier ones may be served: none earlier overlaps it, and in an IN_ORDER port none earlier is of
its stream (R357, R358). -/
def State.mayServe (s : State) (earlier : List HbmReq) (r : HbmReq) : Bool :=
  earlier.all fun e => !overlaps e r
    && !(e.port = r.port && e.stream = r.stream && s.get F.HBM_PORT_CFG.ORDER r.port = 1)

/-- Requests of a pseudo-channel that may be served, in age order. -/
def State.servable (s : State) (pc : Nat) : List HbmReq → List HbmReq → List HbmReq
  | _, [] => []
  | earlier, r :: rs =>
    let tail := s.servable pc (earlier ++ [r]) rs
    if (s.pcOf (r.addr - hbmBase)).1 = pc && s.mayServe earlier r then r :: tail else tail

/-- A request meets the open row of its pseudo-channel. -/
def State.rowHit (s : State) (pc : Nat) (r : HbmReq) : Bool :=
  Tbl.at 0 s.hbm.openRow pc = Config.rowOf pc (s.pcOf (r.addr - hbmBase)).2 + 1

/-- The request a pseudo-channel serves: of the highest urgency; one that 16 open-row requests have passed before any
that entered after it; then an open row before an activation; then the oldest (R356). -/
def State.choose (s : State) (pc : Nat) : Option HbmReq :=
  let rs := s.servable pc [] s.hbm.waiting
  let top := rs.foldl (fun m r => max m (s.urgency r)) 0
  let best := rs.filter fun r => s.urgency r = top
  match best.find? fun r => 16 ≤ r.passed with
  | some r =>
    let cand := best.takeWhile (fun x => x ≠ r) ++ [r]
    some ((cand.find? (s.rowHit pc)).getD (cand.headD r))
  | none => match best.find? (s.rowHit pc) with
    | some r => some r
    | none => best.head?

/-- Take a request out of the waiting list; older ones of its urgency that an open-row request passed count it. -/
def State.unqueue (s : State) (pc : Nat) (r : HbmReq) : State :=
  let hit := s.rowHit pc r
  let u := s.urgency r
  let older := s.hbm.waiting.takeWhile fun x => x ≠ r
  let newer := (s.hbm.waiting.dropWhile fun x => x ≠ r).tail
  let bump := fun x : HbmReq =>
    if hit && (s.pcOf (x.addr - hbmBase)).1 = pc && s.urgency x = u then { x with passed := x.passed + 1 } else x
  { s with hbm := { s.hbm with
    waiting := older.map bump ++ newer
    openRow := Tbl.put 0 s.hbm.openRow pc (Config.rowOf pc (s.pcOf (r.addr - hbmBase)).2 + 1) } }

/-- Perform a request and count it on its port; the control cores' L2 keeps a poisoned line (R355, R362, 14 R404). -/
def State.perform (s : State) (r : HbmReq) : State :=
  let o := if r.write then s.physPut r.addr (slice r.data 0 r.len) else s.physGet r.addr r.len
  let t := (o.st.inc (if r.write then F.HBM_PORT_WR_CNT.CNT else F.HBM_PORT_RD_CNT.CNT) r.port).countLate r
  let bad := o.stop ≠ .ok
  let data := if r.write then [] else if bad then List.replicate r.len 0 else o.bytes
  let t := { t with hbm := { t.hbm with served := some (r.port, data, bad) } }
  if r.port = 9 && bad then
    if r.write then t.raise false 2 13 0x14 0 (wd r.addr)
    else { t with ctl := { t.ctl with poisoned := r.addr / 64 :: t.ctl.poisoned } }
  else t

/-- A request of urgency 3 waits for a pseudo-channel. -/
def State.urgentWaits (s : State) (pc : Nat) : Bool :=
  (s.hbm.waiting ++ s.hbm.held).any fun r => (s.pcOf (r.addr - hbmBase)).1 = pc && s.urgency r = 3

/-- Owed refreshes are issued as soon as no request of urgency 3 waits; a refresh closes the open row (R364). -/
def State.payRefresh (s : State) (pc : Nat) : State :=
  if s.urgentWaits pc || Tbl.at 0 s.hbm.owed pc = 0 then s
  else { s with hbm := { s.hbm with
    owed := Tbl.put 0 s.hbm.owed pc 0, openRow := Tbl.put 0 s.hbm.openRow pc 0 } }

/-- With no request to serve, a pseudo-channel gives the stacks the oldest write of its write queue (R356). -/
def State.drainWrite (s : State) (pc : Nat) : State :=
  { s with hbm := { s.hbm with writeq := Tbl.put [] s.hbm.writeq pc (Tbl.at [] s.hbm.writeq pc).tail } }

/-- HBM_REQUEST: the arriving requests enter their ports, then the pseudo-channel serves one; in RETRAINING it holds
them all. -/
def execHbmRequest (pc : Nat) (arriving : List HbmReq) (s : State) : Out :=
  s.whenLive fun s =>
    let s := arriving.foldl State.enterPort s
    if s.get F.HBM_PC_STATE.STATE pc = 3 then s
    else match s.choose pc with
      | none => s.drainWrite pc
      | some r => (((s.unqueue pc r).perform r).letIn r.port).payRefresh pc

/-- A write of HBM_PORT_CFG: ORDER is fixed on some ports and elsewhere changes only while the port holds no request
(R354). -/
def State.portCfg (s : State) (p : Nat) (v : Word) : State :=
  let old := s.get F.HBM_PORT_CFG.ORDER p
  let settable := 3 ≤ p && (p ≤ 6 || p = 8)
  let empty := !(s.hbm.waiting.any fun w => w.port = p)
  let s := s.setReg .HBM_PORT_CFG p (mergeWrite .HBM_PORT_CFG (s.reg .HBM_PORT_CFG p) v)
  if settable && empty then s else s.put F.HBM_PORT_CFG.ORDER p old

/-! ## Scrub and refresh -/

/-- PATROL_SCRUB: read the next granule; a correctable error in it is corrected, logged and counted, an uncorrectable
one is logged (R361, R362). HOURS 0 stops the scrub, and a RETRAINING pseudo-channel holds its read (R367). -/
def execPatrolScrub (corrected : Bool) (s : State) : Out :=
  s.whenLive fun s =>
    let granules := s.get F.HBM_STATUS.NPC 0 * (pcBytes / 256)
    let g := s.hbm.scrubPos % granules
    let (pc, loc) := s.pcOf (g * 256)
    if granules = 0 || s.get F.HBM_SCRUB_CFG.HOURS 0 = 0 || s.get F.HBM_PC_STATE.STATE pc = 3 then s
    else
      let s := { s with hbm := { s.hbm with scrubPos := (g + 1) % granules } }
      if s.get F.HBM_PC_STATE.STATE pc = 4 then s
      else
        let s := (List.range 8).foldl (fun t i => t.logUe (g * 8 + i)) s
        if corrected then (s.inc F.HBM_PC_CE_CNT.CNT pc).raise false 1 12 0x10 pc (wd loc) else s

/-- REFRESH: a refresh falls due; it is owed while a request of urgency 3 waits and fewer than POSTPONE_MAX are owed,
and otherwise issued with those owed, closing the open row (R364). -/
def execRefresh (pc : Nat) (s : State) : Out :=
  s.whenLive fun s =>
    let owed := Tbl.at 0 s.hbm.owed pc
    if s.get F.HBM_PC_STATE.STATE pc = 0 then s
    else if s.urgentWaits pc && owed < s.get F.HBM_REF_CFG.POSTPONE_MAX 0 then
      ({ s with hbm := { s.hbm with owed := Tbl.put 0 s.hbm.owed pc (owed + 1) } }).raiseMax
        F.HBM_PC_REF_OWED_MAX.MAX pc (owed + 1)
    else
      { s with hbm := { s.hbm with
        owed := Tbl.put 0 s.hbm.owed pc (if s.urgentWaits pc then owed else 0)
        openRow := Tbl.put 0 s.hbm.openRow pc 0 } }

/-! ## Training helpers (R365 to R368) -/

/-- Another pseudo-channel is RETRAINING. -/
def State.otherRetraining (s : State) (pc : Nat) : Bool :=
  (List.range 64).any fun c => c ≠ pc && s.get F.HBM_PC_STATE.STATE c = 3

/-- The pseudo-channel's state allows a helper. -/
def State.trnAllowed (s : State) (op pc : Nat) : Bool :=
  let st := s.get F.HBM_PC_STATE.STATE pc
  match op with
  | 5 => st = 2 && !s.otherRetraining pc
  | 6 => st = 1 || st = 3
  | 7 => (st = 2 || st = 3) && s.isSet F.HBM_CTL.EN 0
  | _ => st = 1 || st = 3

/-- Granules of 256 bytes of the training region: local offset of each, and the pattern in it. -/
def State.trnRegion (s : State) : List (Nat × List Byte) :=
  let seed := s.get F.HBM_TRN_CFG.SEED 0
  let pat := s.get F.HBM_TRN_CFG.PAT 0
  let start := s.get F.HBM_TRN_CFG.OFFSET 0 * 256
  let len := (if s.get F.HBM_TRN_CFG.LEN 0 = 0 then 256 else s.get F.HBM_TRN_CFG.LEN 0) * 4096
  (List.range (min len (pcBytes - start) / 256)).map fun k =>
    (start + k * 256, (List.range 256).map fun i => Config.trainPattern seed pat (k * 256 + i))

/-- Write the pattern over the region of a pseudo-channel. -/
def State.trnPattern (s : State) (pc : Nat) : State :=
  s.trnRegion.foldl (fun t g => t.storeBytes (s.ofLocal pc g.1) g.2) s

/-- Read the region of a pseudo-channel and compare it with the pattern: the lanes of the bytes that differ, each byte's
lanes being the controller's own affair (R365) (log 11). -/
def State.trnCompare (s : State) (pc : Nat) : Nat :=
  s.trnRegion.foldl (fun m g =>
    (List.zip (Tbl.getList 0 s.hbm.mem (s.ofLocal pc g.1) 256) g.2).zipIdx.foldl (fun m p =>
      if p.1.1 = p.1.2 then m else m ||| (Config.byteLanes (g.1 + p.2)).toNat) m) 0

/-- The pseudo-channel goes into service: its lane settings take effect, and a repair since it was last in service is
logged as a Corrected error (R365, R366). -/
def State.trnOnline (s : State) (pc : Nat) : State :=
  let dly := (List.range 38).foldl (fun t k => Tbl.put 0 t (pc * 38 + k) (s.reg .HBM_PC_DLY (pc * 38 + k))) s.hbm.dly
  let fixed := pc ∈ s.hbm.repaired
  let s := { s with hbm := { s.hbm with dly := dly, repaired := s.hbm.repaired.filter (· ≠ pc) } }
  let s := s.put F.HBM_PC_STATE.STATE pc 2
  if fixed then s.raiseFree 1 12 0x12 pc else s

/-- The pseudo-channel goes out of service with one Contained error (R368). -/
def State.trnOffline (s : State) (pc : Nat) : State :=
  let s := s.put F.HBM_PC_STATE.STATE pc 4
  let s := s.setReg .HBM_PC_OFFLINE 0 (setFld (s.reg .HBM_PC_OFFLINE 0) pc 1 1)
  s.raiseFree 3 12 0x13 pc

/-- A training helper; laneErr and caErr are what the stack's lanes show in it: a lane that errs on its way miscompares,
and so does one whose bytes in the region are not the pattern's. -/
def State.trnCommand (s : State) (op pc laneErr : Nat) (caErr : Bool) : State :=
  let s := (s.put F.HBM_TRN_CMD.OP 0 op).put F.HBM_TRN_CMD.PC 0 pc
  if op = 0 || 7 < op then s.put F.HBM_TRN_STATUS.RESULT 0 2
  else if !s.trnAllowed op pc then s.put F.HBM_TRN_STATUS.RESULT 0 1
  else
    let s := s.setReg .HBM_TRN_STATUS 0
      (wd (b2n caErr * 2 ^ 63 + (if op = 1 then laneErr % 2 ^ 38
        else if op = 3 then (laneErr ||| s.trnCompare pc) % 2 ^ 38 else 0)))
    match op with
    | 2 => s.trnPattern pc
    | 4 => { s with hbm := { s.hbm with
        repair := Tbl.put 0 s.hbm.repair pc (s.reg .HBM_PC_REPAIR pc)
        repaired := if pc ∈ s.hbm.repaired then s.hbm.repaired else pc :: s.hbm.repaired } }
    | 5 => (s.put F.HBM_PC_STATE.STATE pc 3).inc F.HBM_PC_RETRAIN_CNT.CNT pc
    | 6 => s.trnOnline pc
    | 7 => s.trnOffline pc
    | _ => s

/-- READ_TRAIN: HBM_TRN_CMD with OP 1. -/
def execReadTrain (pc laneErr : Nat) (caErr : Bool) (s : State) : Out :=
  s.whenLive fun s => s.trnCommand 1 pc laneErr caErr

/-- WRITE_PATTERN: OP 2. -/
def execWritePattern (pc : Nat) (caErr : Bool) (s : State) : Out := s.whenLive fun s => s.trnCommand 2 pc 0 caErr

/-- READ_COMPARE: OP 3. -/
def execReadCompare (pc laneErr : Nat) (caErr : Bool) (s : State) : Out :=
  s.whenLive fun s => s.trnCommand 3 pc laneErr caErr

/-- APPLY_REPAIR: OP 4. -/
def execApplyRepair (pc : Nat) (s : State) : Out := s.whenLive fun s => s.trnCommand 4 pc 0 false

/-- RETRAIN: OP 5. -/
def execRetrain (pc : Nat) (s : State) : Out := s.whenLive fun s => s.trnCommand 5 pc 0 false

/-- ONLINE: OP 6. -/
def execOnline (pc : Nat) (s : State) : Out := s.whenLive fun s => s.trnCommand 6 pc 0 false

/-- OFFLINE: OP 7. -/
def execOffline (pc : Nat) (s : State) : Out := s.whenLive fun s => s.trnCommand 7 pc 0 false

/-! ## IOMMU commands (R374, R376) -/

/-- The cached entry maps a byte of the range, or is a non-leaf entry of the domain. -/
def invHits (dom first pages : Nat) (c : CacheEnt) : Bool :=
  c.domain = dom &&
    (if !isLeaf c.level c.entry then true
    else if c.level = 2 then c.tag * 512 < first + pages && first < c.tag * 512 + 512
    else first ≤ c.tag && c.tag < first + pages)

/-- IOM_CMD with GO 1: the removal is made, and GO reads 1 until INVALIDATE_DONE; a reserved OP removes nothing and GO
reads 0. -/
def State.iomCommand (s : State) (op dom : Nat) : State :=
  if s.isSet F.IOM_CMD.GO 0 then s
  else
    let s := (s.put F.IOM_CMD.OP 0 op).put F.IOM_CMD.DOMAIN 0 dom
    if op = 0 || 3 < op then s
    else
      let pages := max 1 (s.get F.IOM_CMD_PAGES.PAGES 0)
      let first := s.get F.IOM_CMD_IOVA.IOVA 0
      let keep := fun c : CacheEnt =>
        if op = 1 then false else if op = 2 then c.domain ≠ dom else !invHits dom first pages c
      ({ s with iom := { s.iom with cache := s.iom.cache.filter keep } }).flag F.IOM_CMD.GO 0 true

/-- INV_ALL: OP 1. -/
def execInvAll (s : State) : Out := s.whenLive fun s => s.iomCommand 1 (s.get F.IOM_CMD.DOMAIN 0)

/-- INV_DOM: OP 2. -/
def execInvDom (domain : Nat) (s : State) : Out := s.whenLive fun s => s.iomCommand 2 domain

/-- INV_RANGE: OP 3. -/
def execInvRange (domain : Nat) (s : State) : Out := s.whenLive fun s => s.iomCommand 3 domain

/-- INVALIDATE_DONE: every access that used a removed entry is performed; GO reads 0. -/
def execInvalidateDone (s : State) : Out := s.whenLive fun s => s.flag F.IOM_CMD.GO 0 false

/-- A write of IOM_FQ_POP: 1 removes the oldest record; ignored when there is none. -/
def State.fqPop (s : State) (domain : Nat) (value : Word) : State :=
  if fld value 0 1 = 1 then
    { s with iom := { s.iom with fq := Tbl.put [] s.iom.fq domain (Tbl.at [] s.iom.fq domain).tail } }
  else s

/-- IOM_FQ_POP: the write. -/
def execIomFqPop (domain : Nat) (value : Word) (s : State) : Out := s.whenLive fun s => s.fqPop domain value

/-! ## DMA channels (R378 to R380) -/

/-- The transfer that the registers name is refused at START. -/
def State.dmaRefused (s : State) (c : Nat) : Bool :=
  let op := s.get F.HBM_DMA_CFG.OP c
  let len := s.get F.HBM_DMA_LEN.LEN c
  1 < op || len = 0 || (op = 1 && (len % 8 ≠ 0 || s.get F.HBM_DMA_DST.DST c % 8 ≠ 0))

/-- The channel's abort request. -/
def State.setAbort (s : State) (c : Nat) (b : Bool) : State :=
  { s with iom := { s.iom with abort := Tbl.put false s.iom.abort c b } }

/-- START: accepted in every state but RUNNING. -/
def State.dmaStart (s : State) (c : Nat) : State :=
  if s.get F.HBM_DMA_STATUS.STATE c = 1 then s
  else
    let s := (s.put F.HBM_DMA_STATUS.BYTES_DONE c 0).setAbort c false
    s.put F.HBM_DMA_STATUS.STATE c (if s.dmaRefused c then 6 else 1)

/-- RESUME: accepted only in FAULT and MEM_ERR. -/
def State.dmaResume (s : State) (c : Nat) : State :=
  let st := s.get F.HBM_DMA_STATUS.STATE c
  if st = 3 || st = 4 then (s.put F.HBM_DMA_STATUS.STATE c 1).setAbort c false else s

/-- ABORT: accepted only in RUNNING. -/
def State.dmaAbort (s : State) (c : Nat) : State :=
  if s.get F.HBM_DMA_STATUS.STATE c = 1 then s.setAbort c true else s

/-- START: HBM_DMA_CMD with bit 0. -/
def execStart (ch : Nat) (s : State) : Out := s.whenLive fun s => s.dmaStart ch

/-- RESUME: HBM_DMA_CMD with bit 1. -/
def execResume (ch : Nat) (s : State) : Out := s.whenLive fun s => s.dmaResume ch

/-- ABORT: HBM_DMA_CMD with bit 2. -/
def execAbort (ch : Nat) (s : State) : Out := s.whenLive fun s => s.dmaAbort ch

/-- A transfer stops in a state, with its item if NOTIFY is 1 (R380). -/
def State.dmaStop (s : State) (c st : Nat) : State :=
  let s := (s.put F.HBM_DMA_STATUS.STATE c st).setAbort c false
  if s.isSet F.HBM_DMA_CFG.NOTIFY c then
    s.post1 10 (s.get F.HBM_DMA_CFG.EVQ c) st c 0 (s.get F.HBM_DMA_STATUS.BYTES_DONE c)
  else s

/-- Length of the next chunk: to the end, or to a 4 KiB boundary of source or destination (R379). -/
def chunkLen (op src dst left : Nat) : Nat :=
  let n := min left (4096 - dst % 4096)
  if op = 0 then min n (4096 - src % 4096) else n

/-- Bytes of a FILL from an offset of the transfer. -/
def fillBytes (pattern off n : Nat) : List Byte :=
  (List.range n).map fun i => BitVec.ofNat 8 (pattern / 256 ^ ((off + i) % 8))

/-- The result of a stopped access as a channel state: FAULT or MEM_ERR. -/
def MemStop.dmaState : MemStop → Nat
  | .xlate => 3
  | _ => 4

/-- The write of a chunk whose destination is translated. -/
def State.dmaWrite (s : State) (c pa n : Nat) (data : List Byte) : State :=
  let done := s.get F.HBM_DMA_STATUS.BYTES_DONE c
  let w := s.physWrite 8 c pa data
  match w.stop with
  | .held => w.st
  | .ok =>
    let s := w.st.add F.HBM_PORT_WR_CNT.CNT 8 (ceilDiv (pa % 64 + n) 64)
    let s := s.put F.HBM_DMA_STATUS.BYTES_DONE c (done + n)
    if Tbl.at false s.iom.abort c then s.dmaStop c 5
    else if s.get F.HBM_DMA_LEN.LEN c ≤ done + n then s.dmaStop c 2
    else s
  | _ => if Config.chunkPartial s.freeCtr then ({ w.st with freeCtr := s.freeCtr + 1 }).dmaStop c 4
    else ({ s with freeCtr := s.freeCtr + 1 }).dmaStop c 4

/-- One chunk: translate source and destination, read the whole chunk, write it. -/
def State.dmaMove (s : State) (c : Nat) : State :=
  let q : Src := ⟨8, c, s.get F.HBM_DMA_CFG.DOMAIN c, c⟩
  let op := s.get F.HBM_DMA_CFG.OP c
  let done := s.get F.HBM_DMA_STATUS.BYTES_DONE c
  let src := (s.get F.HBM_DMA_SRC.SRC c + done) % 2 ^ 48
  let dst := (s.get F.HBM_DMA_DST.DST c + done) % 2 ^ 48
  let n := chunkLen op src dst (s.get F.HBM_DMA_LEN.LEN c - done)
  if n = 0 then s.dmaStop c 2
  else
    let rd : Except XFault Nat × State := if op = 0 then s.translate q.domain src false else (.ok 0, s)
    match rd with
    | (.error x, t) => (t.iomFault q src false x).dmaStop c 3
    | (.ok spa, t) =>
      match t.translate q.domain dst true with
      | (.error x, u) => (u.iomFault q dst true x).dmaStop c 3
      | (.ok dpa, u) =>
        if op = 0 then
          let r := u.physRead 8 c spa n
          match r.stop with
          | .held => r.st
          | .ok => (r.st.add F.HBM_PORT_RD_CNT.CNT 8 (ceilDiv (spa % 64 + n) 64)).dmaWrite c dpa n r.bytes
          | _ => r.st.dmaStop c 4
        else u.dmaWrite c dpa n (fillBytes (s.get F.HBM_DMA_SRC.SRC c) done n)

/-- DMA_CHUNK: a running channel moves one chunk, or stops. -/
def execDmaChunk (ch : Nat) (s : State) : Out :=
  s.whenReady fun s => if s.get F.HBM_DMA_STATUS.STATE ch = 1 then s.dmaMove ch else s

end Sys2Proof.Machine
end

