-- ==== Sys2Proof/Machine/Reset.lean ====
section
/-! DEFINITION. Full reset and the pins and rails that start it (16 R465 to R467, 17 R477, R482, R484). -/

namespace Sys2Proof.Machine

/-- Everything on die at its reset value, with what full reset leaves: fuses, boot flash, the pins, the queue; HBM is
drawn again at release (R467). step is the step of R466 reached. -/
def State.cleared (s : State) (rst : Rst) : State :=
  { State.reset with
    freeCtr := s.freeCtr
    sec := { fuses := s.sec.fuses, flash := s.sec.flash }
    hbm := { mem := s.hbm.mem }
    rst := rst
    pending := s.pending }

/-- The step of R466 that the pins allow: 2 while RESET_N or a monitored rail holds reset, 3 until the core reference is
present, 4 with every PLL locked. -/
def Rst.reached (r : Rst) : Nat :=
  if !r.resetN || r.railsLow ≠ [] then 2 else if r.refclk then 4 else 3

/-- A full reset starts or goes on under new pins: outputs take their reset state, FAULT_N is released, the stacks are in
self-refresh (R466 steps 1 to 4). -/
def State.enterReset (s : State) (r : Rst) : State :=
  let r := { r with halted := false, selfRefresh := true }
  s.cleared { r with step := r.reached }

/-- The pins changed while full reset is in progress: it proceeds as far as they allow. -/
def State.proceed (s : State) (r : Rst) : State :=
  if s.rst.step = 5 then { s with rst := r } else { s with rst := { r with step := r.reached } }

/-- RESET_N_ASSERT: RESET_N goes low and a full reset starts, whatever the part does (R461, R465, R484). -/
def execResetNAssert (s : State) : Out := .next (s.enterReset { s.rst with resetN := false })

/-- RESET_N_RELEASE: RESET_N goes high; the reference clocks are taken and the PLLs lock (R466 steps 3, 4). -/
def execResetNRelease (s : State) : Out := .next (s.proceed { s.rst with resetN := true })

/-- FULL_RESET_RELEASE: 2 ms after step 3, with the PLLs locked, every hart fetches from the boot ROM and the root of
trust starts (R466 step 5, R467). HBM contents are a free value (log 4). -/
def execFullResetRelease (s : State) : Out :=
  if s.rst.step = 4 then
    let t := s.cleared { s.rst with step := 5, selfRefresh := false }
    let mem := (Config.hbmAfterReset s.freeCtr s.hbm.mem).foldl
      (fun m e => if e.1 < 51539607552 then Tbl.put 0 m e.1 e.2 else m) ([] : Tbl Byte)
    .next { t with freeCtr := s.freeCtr + 1, hbm := { mem := mem } }
  else .next s

/-- RAIL_UNDERVOLTAGE: a monitored rail falls below 90%; the part holds itself in full reset as though RESET_N were
low (17 R482). Other rails are not monitored. -/
def execRailUndervoltage (rail : Nat) (s : State) : Out :=
  if rail < 3 then
    .next (s.enterReset { s.rst with railsLow := if rail ∈ s.rst.railsLow then s.rst.railsLow else rail :: s.rst.railsLow })
  else .next s

/-- MONITORED_RAIL_RETURN: the three monitored rails are above 90% again and the held reset proceeds (17 R482). -/
def execMonitoredRailReturn (s : State) : Out := .next (s.proceed { s.rst with railsLow := [] })

/-- REFCLK100_RETURN: the core reference is present again; during reset the PLLs lock and step 4 occurs (R466). -/
def execRefclk100Return (s : State) : Out := .next (s.proceed { s.rst with refclk := true })

/-- A full reset that the part starts itself (R465, R460). -/
def State.selfReset (s : State) : State := s.enterReset s.rst

/-- A write of CTL_RESET: KEY 0x5253 with GO 1 starts full reset (R465). -/
def State.ctlReset (s : State) (value : Word) : State :=
  if fld value 16 16 = 0x5253 && fld value 0 1 = 1 then s.selfReset else s

/-- CTL_RESET: a write with KEY 0x5253 and GO 1 starts a full reset; any other key is ignored (R465). A halted part
does not answer it (R461). -/
def execCtlReset (value : Word) (s : State) : Out :=
  s.whenLive fun s => s.ctlReset value

/-- FATAL_RESET_TIMER: FATAL_RESET_MS after the first Fatal error a full reset starts (R460). -/
def execFatalResetTimer (s : State) : Out :=
  s.whenLive fun s =>
    match s.err.resetDue with
    | some t => if t ≤ s.clock then s.selfReset else s
    | none => s

/-- Subsystem of a physical address in the register windows (00 R8 prefixes, 01 R15). -/
def subsysOf (a : Nat) : Nat :=
  match a / 2 ^ 24 with
  | 0x20 => 1
  | 0x21 => 2
  | 0x22 => 3
  | 0x23 => 4
  | 0x24 => 5
  | 0x25 => 6
  | 0x26 => 7
  | 0x27 => 8
  | 0x28 => 9
  | 0x29 => 11
  | 0x2A => 10
  | 0x2B => 12
  | 0x2C => 12
  | 0x30 => 14
  | _ => 13

/-- WEDGED: a register access unanswered for 100 µs completes with an error response and a Contained error; the
instance is a free value where the spec names none (R452) (log 16). -/
def execWedged (hart : Nat) (kind : AccessKind) (addr : Nat) (s : State) : Out :=
  s.whenLive fun s =>
    let (v, s) := s.draw 2
    (s.accessFault hart kind addr).raise false 3 (subsysOf addr) 0x30 v (wd addr)

/-- CLOCK_LOSS: the core reference is lost, or the PLL of a domain loses lock: a Fatal error (R452). In full reset the
lost reference takes the part back to step 3 (R466). -/
def execClockLoss (reference : Bool) (s : State) : Out :=
  let s := if reference then s.proceed { s.rst with refclk := false } else s
  s.whenLive fun s =>
    let (v, s) := s.draw 2
    s.raiseFree 4 13 0x40 v

/-- TRST_N_CHANGE: the TAP is held in Test-Logic-Reset while TRST_N is low (17 R477). -/
def execTrstNChange (low : Bool) (s : State) : Out := .next { s with rst := { s.rst with trstLow := low } }

end Sys2Proof.Machine
end

