-- ==== Sys2Proof/Machine/RegAccess.lean ====
section
/-! DEFINITION. Accesses of harts: the physical address map and what it refuses (01 R22 to R25, 00 R4 to R8, 14 R401 to
R404, 15 R438), plain stores and loads (log 54), and a read and a write of every register, each with the operation that
the register's chapter gives it. -/

namespace Sys2Proof.Machine

/-! ## The map (R22, R402) -/

/-- A range of the physical address map. -/
inductive Zone where
  | rom
  | mailbox
  | scratch
  | window
  | buffer
  | hbm
  deriving DecidableEq, Repr

/-- First address of each range and the first one past it; HBM ends with the enabled pseudo-channels (R25). -/
def State.zones (s : State) : List (Zone × Nat × Nat) :=
  [(.rom, 0, 0x40000), (.mailbox, 0x01000000, 0x01010000), (.scratch, 0x08000000, 0x08100000),
   (.window, 0x20000000, 0x31000000), (.buffer, 0x4000000000, 0x4006000000), (.hbm, hbmBase, s.hbmEnd)]

/-- The range that holds every byte of an access. -/
def State.zoneAt (s : State) (a len : Nat) : Option Zone :=
  (s.zones.find? fun z => decide (z.2.1 ≤ a ∧ a + len ≤ z.2.2)).map (·.1)

/-- Kinds of access a range allows. -/
def Zone.allows : Zone → AccessKind → Bool
  | .rom, k => k = .load || k = .fetch
  | .mailbox, k => k = .load || k = .store
  | .scratch, _ => true
  | .window, k => k = .load || k = .store
  | .buffer, k => k = .load
  | .hbm, _ => true

/-- A range marked I/O. -/
def Zone.io (z : Zone) : Bool := z = .mailbox || z = .window || z = .buffer

/-- Widths a hart accesses with. -/
def widths : List Nat := [1, 2, 4, 8]

/-- The access completes with an error response: no range holds it, its range refuses its kind, it is misaligned in an
I/O range, or it is a register access of another width (R5, R23, R25, R402). -/
def State.refusesAccess (s : State) (k : AccessKind) (a width : Nat) : Bool :=
  match s.zoneAt a width with
  | none => true
  | some z =>
    !z.allows k || (z.io && !(decide (width ∈ widths) && decide (a % width = 0))) || (z = .window && width ≠ 8)

/-- PACKET_BUFFER_DEBUG_READ: the current bytes of a cell; a misaligned load is refused (R24). -/
def execPacketBufferDebugRead (hart addr width : Nat) (s : State) : Out :=
  s.whenLive fun s =>
    if s.refusesAccess .load addr width then s.accessFault hart .load addr
    else if s.zoneAt addr width = some .buffer then
      s.respond hart (wd (ofLe (Tbl.getList 0 s.tm.buf (addr - 0x4000000000) width)))
    else s

/-! ## Loads and stores of memory (R22, R402, R404; log 54) -/

/-- L2 fills a line of HBM through HP9 for a hart: one whose read ends with an error response is kept poisoned. A line it
holds modified or poisoned is not read again; which other lines it holds is not modelled (log 53). -/
def State.fillLine (s : State) (h l : Nat) : State :=
  if l ∈ s.ctl.poisoned || (Tbl.find s.hbm.l2 l).isSome then s
  else
    let r := s.physRead 9 h (l * 64) 64
    let t := r.st.inc F.HBM_PORT_RD_CNT.CNT 9
    if r.stop = .ok then t else { t with ctl := { t.ctl with poisoned := l :: t.ctl.poisoned } }

/-- Lines that an access touches. -/
def linesOf (a width : Nat) : List Nat := (List.range ((a + width - 1) / 64 - a / 64 + 1)).map fun i => a / 64 + i

/-- L2 holds the lines of an access to HBM. -/
def State.fillLines (s : State) (h : Nat) (z : Zone) (a width : Nat) : State :=
  if z = .hbm then (linesOf a width).foldl (fun t l => t.fillLine h l) s else s

/-- After an access to HBM the L2 may give up a line. -/
def State.afterHbm (s : State) (z : Zone) : State := if z = .hbm then s.l2Turn else s

/-- A line of an access is poisoned. -/
def State.touchesPoison (s : State) (z : Zone) (a width : Nat) : Bool :=
  (z = .hbm || z = .scratch) && (linesOf a width).any fun l => l ∈ s.ctl.poisoned

/-- ERROR_RESPONSE_ACCESS: the hart takes the fault and no byte is performed: an access that the map refuses, a misaligned
AMO to a cacheable range, a fetch, load or AMO of a poisoned line (R23, R362; 14 R401 to R404). An access that completes
is none of this command's (log 1). -/
def execErrorResponseAccess (hart : Nat) (kind : AccessKind) (addr width : Nat) (s : State) : Out :=
  s.whenReady fun s =>
    if s.refusesAccess kind addr width then s.accessFault hart kind addr
    else if kind = .amo && addr % width ≠ 0 then s.trap hart 6 addr
    else match s.zoneAt addr width with
      | none => s
      | some z =>
        let t := s.fillLines hart z addr width
        if kind ≠ .store && t.touchesPoison z addr width then t.accessFault hart kind addr
        else if t.hbm.blocked.isSome then t else s

/-- The M half of the mailbox. -/
def inHalfM (a : Nat) : Bool := decide (0x01000000 ≤ a ∧ a < 0x01008000)

/-- A hart's store to a memory range. A store to a poisoned line keeps the mark. -/
def State.hartStore (s : State) (h : Nat) (priv : Priv) (z : Zone) (a width : Nat) (v : Word) : State :=
  let bs := leBytes width v.toNat
  match z with
  | .mailbox =>
    if priv ≠ .m && inHalfM a then s.accessFault h .store a
    else { s with ctl := { s.ctl with mailbox := Tbl.putList 0 s.ctl.mailbox (a - 0x01000000) bs } }
  | .scratch => { s with ctl := { s.ctl with scratch := Tbl.putList 0 s.ctl.scratch (a - 0x08000000) bs } }
  | .hbm => (((s.fillLines h z a width).l2Store (linesOf a width) (a - hbmBase) bs)).afterHbm z
  | _ => s

/-- A hart's load from a memory range: zero from the M half outside M mode (15 R438), an access fault from a poisoned
line. -/
def State.hartLoad (s : State) (h : Nat) (priv : Priv) (z : Zone) (a width : Nat) : State :=
  let t := s.fillLines h z a width
  if t.touchesPoison z a width then (t.accessFault h .load a).afterHbm z
  else
    let bs := match z with
      | .rom => (List.range width).map fun i => Config.romByte (a + i)
      | .mailbox =>
        if priv ≠ .m && inHalfM a then [] else Tbl.getList 0 s.ctl.mailbox (a - 0x01000000) width
      | .scratch => Tbl.getList 0 s.ctl.scratch (a - 0x08000000) width
      | .buffer => Tbl.getList 0 s.tm.buf (a - 0x4000000000) width
      | .hbm => Tbl.getList 0 t.hbm.mem (a - hbmBase) width
      | .window => []
    (t.respond h (wd (ofLe bs))).afterHbm z

/-- The block of a register window answers: those of CLK_PEA and CLK_VID do not once THERM_TRIP has stopped these
clocks (16 R460). -/
def State.answers (s : State) (a : Nat) : Bool :=
  !(s.err.clkStopped && decide (a / 2 ^ 24 ∈ [0x25, 0x26, 0x28, 0x29, 0x2A]))

/-! ## Register writes -/

/-- A write under the access codes alone (00 R7, R8). -/
def State.plainWrite (s : State) (r : Reg) (i : Nat) (v : Word) : State := s.setReg r i (mergeWrite r (s.reg r i) v)

/-- A plain write, ignored where a condition holds. -/
def State.writeUnless (s : State) (busy : Bool) (r : Reg) (i : Nat) (v : Word) : State :=
  if busy then s else s.plainWrite r i v

/-- A write of a command register: ignored while its GO reads 1; with GO 1 the command runs on the fields written
(00 R8, R11). -/
def State.command (s : State) (go : RFld) (i : Nat) (v : Word) (f : State → State) : State :=
  if s.isSet go i then s
  else
    let t := s.plainWrite go.reg i v
    if bitAt v.toNat go.lo then f t else t

/-- A write of a ring's CFG register: while EN is 1 only EN takes it (02 R59, 05 R161, 14 R418). -/
def State.ringCfg (s : State) (en : RFld) (i : Nat) (v : Word) : State :=
  if s.isSet en i then s.put en i (fld v 0 1) else s.plainWrite en.reg i v

/-- HBM_DMA_CMD: START, then RESUME, then ABORT where a write sets several (R378) (log 55). -/
def State.dmaCommand (s : State) (c : Nat) (v : Word) : State :=
  let s := if bitAt v.toNat 0 then s.dmaStart c else s
  let s := if bitAt v.toNat 1 then s.dmaResume c else s
  if bitAt v.toNat 2 then s.dmaAbort c else s

/-- A helper's command whose lane and CA errors the write does not bring: they are free (log 55). -/
def State.trainDrawn (s : State) (op pc : Nat) : State :=
  let (lanes, s) := s.draw 56
  let (ca, s) := s.draw 57
  s.trnCommand op pc (lanes % 2 ^ 38) (ca % 2 = 1)

/-- An MDIO frame whose answer the write does not bring: it is free (log 55). -/
def State.mdioDrawn (s : State) (op : Nat) : State :=
  let (d, s) := s.draw 58
  s.mdio op (d % 65536)

/-- FLUSH with the producers that are partway through an item for the queue: which they are is free (log 55). -/
def State.flushDrawn (s : State) (q : Nat) : State :=
  let (m, s) := s.draw 59
  s.flushQueue q ((List.range 16).filter fun src => bitAt m src)

/-- A write of ERR_INJECT: with GO 1 the injected record, else the fields. -/
def State.injectWrite (s : State) (v : Word) : State := if bitAt v.toNat 63 then s.inject v else s.plainWrite .ERR_INJECT 0 v

/-- A write of a register of ingress, encryption, forwarding or traffic. -/
def State.writeMedia (s : State) (r : Reg) (i : Nat) (v : Word) : State :=
  match r with
  | .PRT_GRP_CFG => s.grpCfg i v
  | .PRT_PORT_CFG => if s.isPort i then s.portCfgWrite i v else s
  | .ING_CTX_CMD => s.command F.ING_CTX_CMD.GO i v fun t => t.ctxCommand (fld v 32 4) (fld v 0 20)
  | .ING_CTX_DATA => s.writeUnless (s.isSet F.ING_CTX_CMD.GO 0) r i v
  | .ING_RING_BASE => s.writeUnless (s.isSet F.ING_RING_CFG.EN i) r i v
  | .ING_RING_CFG => s.ringCfg F.ING_RING_CFG.EN i v
  | .SRT_CMD => s.command F.SRT_CMD.GO i v fun t => t.srtCommand (fld v 32 4) (fld v 0 20)
  | .SRT_DATA => s.writeUnless (s.isSet F.SRT_CMD.GO 0) r i v
  | .FWD_CMD => s.command F.FWD_CMD.GO i v fun t => t.fwdCommand (fld v 32 4) (fld v 0 20)
  | .FWD_DATA => s.writeUnless (s.isSet F.FWD_CMD.GO 0) r i v
  | .TM_CMD => s.command F.TM_CMD.GO i v fun t => t.tmCommand (fld v 32 4) (fld v 0 17)
  | .TM_DATA => s.writeUnless (s.isSet F.TM_CMD.GO 0) r i v
  | .TM_TXR_BASE => s.writeUnless (s.isSet F.TM_TXR_CFG.EN i) r i v
  | .TM_TXR_CFG => s.ringCfg F.TM_TXR_CFG.EN i v
  | .TM_GCL_CMD => s.command F.TM_GCL_CMD.GO i v fun t => t.gclCommand i (fld v 32 2)
  | _ => s.plainWrite r i v

/-- A write of a register of the dispatcher, the Pea pods, Voxotte or the video engines. -/
def State.writeWork (s : State) (r : Reg) (i : Nat) (v : Word) : State :=
  match r with
  | .WD_CMD => s.command F.WD_CMD.GO i v fun t => t.wdCommand (fld v 32 4) (fld v 0 16)
  | .WD_DATA => s.writeUnless (s.isSet F.WD_CMD.GO 0) r i v
  | .WD_LOCK_CMD => if bitAt v.toNat 0 then s.swap else s
  | .WD_POOL_CFG => s.poolWrite i false v
  | .WD_POOL_MASK => s.poolWrite i true v
  | .WD_SUB_GO => if bitAt v.toNat 0 then s.submitWindow i else s
  | .PEA_POD_MEM_DATA => s.podStore i v
  | .MIX_CFG => s.mixCfg v
  | .MIX_SMEM_DATA => s.smemStore v
  | .MIX_ENG_CTL => s.mixEngCtl i v
  | .MIX_ENG_LOAD_ADDR => (s.plainWrite r i v).flag F.MIX_ENG_STATUS.LOAD_ERR i false
  | .MIX_ENG_LOAD_DATA => s.mixLoad i v
  | .MIX_ENG_CMD => s.command F.MIX_ENG_CMD.GO i v fun t => t.mixCommand i (fld v 32 4)
  | .MIX_ENG_PARAM => s.mixParam (i / 4096) (i % 4096) v
  | .VENC_KF_CMD => s.kfCmd v
  | .CMP_COEF_DATA => s.coefStore v
  | _ => s.plainWrite r i v

/-- A write of a register of HBM, the IOMMU or the Time Unit. -/
def State.writeMemory (s : State) (r : Reg) (i : Nat) (v : Word) : State :=
  match r with
  | .HBM_CTL => s.hbmCtl v
  | .HBM_PC_MASK => s.hbmMask v
  | .HBM_PORT_CFG => s.portCfg i v
  | .HBM_REF_CFG => (s.plainWrite r i v).put F.HBM_REF_CFG.POSTPONE_MAX i (min 8 (fld v 0 4))
  | .HBM_TRN_CMD => s.command F.HBM_TRN_CMD.GO i v fun t => t.trainDrawn (fld v 32 4) (fld v 0 6)
  | .HBM_TRN_CFG => s.writeUnless (s.isSet F.HBM_TRN_CMD.GO 0) r i v
  | .HBM_PC_DLY =>
    s.writeUnless (s.get F.HBM_PC_STATE.STATE (i / 38) ≠ 1 && s.get F.HBM_PC_STATE.STATE (i / 38) ≠ 3) r i v
  | .HBM_DMA_SRC => s.writeUnless (s.get F.HBM_DMA_STATUS.STATE i = 1) r i v
  | .HBM_DMA_DST => s.writeUnless (s.get F.HBM_DMA_STATUS.STATE i = 1) r i v
  | .HBM_DMA_LEN => s.writeUnless (s.get F.HBM_DMA_STATUS.STATE i = 1) r i v
  | .HBM_DMA_CFG => s.writeUnless (s.get F.HBM_DMA_STATUS.STATE i = 1) r i v
  | .HBM_DMA_CMD => s.dmaCommand i v
  | .IOM_CMD => s.command F.IOM_CMD.GO i v fun t => t.iomCommand (fld v 32 4) (fld v 0 6)
  | .IOM_CMD_IOVA => s.writeUnless (s.isSet F.IOM_CMD.GO 0) r i v
  | .IOM_CMD_PAGES => s.writeUnless (s.isSet F.IOM_CMD.GO 0) r i v
  | .IOM_FQ_POP => s.fqPop i v
  | .TIM_XSNAP => if bitAt v.toNat 0 then s.xsnap else s
  | .TIM_TB_CFG => s.tbCfg i v
  | .TIM_TB_RATE => s.writeUnless (s.get F.TIM_TB_CFG.SRC i ≠ 0) r i v
  | .TIM_TB_SET_SEC => s.writeUnless (s.isSet F.TIM_TB_CMD.GO i) r i v
  | .TIM_TB_SET_NS => s.writeUnless (s.isSet F.TIM_TB_CMD.GO i) r i v
  | .TIM_TB_CMD => s.command F.TIM_TB_CMD.GO i v fun t => t.timCommand i (fld v 32 4)
  | .TIM_TB_SLEW_OFF => s.slewOff i v
  | .TIM_IN_CFG => s.inCfg i v
  | .TIM_OUT_CFG => s.outCfg i v
  | .TIM_OUT_START_SEC => s.writeUnless (s.isSet F.TIM_OUT_CFG.EN i) r i v
  | .TIM_OUT_START_NS => s.writeUnless (s.isSet F.TIM_OUT_CFG.EN i) r i v
  | .TIM_OUT_PERIOD => s.writeUnless (s.isSet F.TIM_OUT_CFG.EN i) r i v
  | .TIM_TXQ_POP => s.txqPop i v
  | _ => s.plainWrite r i v

/-- A write of a register of the Error Controller, the control complex or the root of trust. -/
def State.writeControl (s : State) (priv : Priv) (r : Reg) (i : Nat) (v : Word) : State :=
  match r with
  | .ERR_STATUS => s.clearSlots v
  | .ERR_LOG_POP => s.popLogs v
  | .ERR_INJECT => s.injectWrite v
  | .ERR_TRACE_WR => if i = 3 then s.traceCommit priv v else s.plainWrite r i v
  | .ERR_THERM_CFG => s.thermCfg v
  | .CTL_MTIMECMP => (s.plainWrite r i v).setMtip i
  | .CTL_MGT_RX_BASE => s.writeUnless (s.isSet F.CTL_MGT_RX_CFG.EN 0) r i v
  | .CTL_MGT_RX_CFG => s.ringCfg F.CTL_MGT_RX_CFG.EN i v
  | .CTL_MGT_TX_BASE => s.writeUnless (s.isSet F.CTL_MGT_TX_CFG.EN 0) r i v
  | .CTL_MGT_TX_CFG => s.ringCfg F.CTL_MGT_TX_CFG.EN i v
  | .CTL_MDIO_CMD => s.command F.CTL_MDIO_CMD.GO i v fun t => t.mdioDrawn (fld v 32 2)
  | .CTL_RESET => s.ctlReset v
  | .CTL_RYU_DOORBELL => s.ryuRing v
  | .CTL_EVQ_CFG => s.evqCfg i v
  | .CTL_EVQ_CMD => if bitAt v.toNat 0 then s.flushDrawn i else s
  | .SEC_MBX_DB_M => s.doorbell true v
  | .SEC_MBX_DB_S => s.doorbell false v
  | _ => s.plainWrite r i v

/-- A write of a register, by the window it lies in. -/
def State.writeReg (s : State) (priv : Priv) (r : Reg) (i : Nat) (v : Word) : State :=
  let w := r.row.base / 2 ^ 24
  if w ≤ 0x24 then s.writeMedia r i v
  else if w ≤ 0x2A then s.writeWork r i v
  else if w ≤ 0x2D then s.writeMemory r i v
  else s.writeControl priv r i v

/-- The page of the root of trust that only M mode writes (15 R438). -/
def mOnlyPage (a : Nat) : Bool := decide (0x30001000 ≤ a ∧ a < 0x30002000)

/-- The pages of the CTL_ window that device firmware keeps for M mode by PMP (14, after R405). -/
def keptPage (a : Nat) : Bool := decide (a / 2 ^ 12 ∈ [0x2F001, 0x2F002, 0x2F040])

/-- A hart's write access. -/
def State.writeAccess (s : State) (h : Nat) (priv : Priv) (a width : Nat) (v : Word) : State :=
  if s.refusesAccess .store a width || ((mOnlyPage a || keptPage a) && priv ≠ .m) then s.accessFault h .store a
  else match s.zoneAt a width with
  | some .window =>
    if s.answers a then
      match regAt a with
      | some (r, i) => s.writeReg priv r i v
      | none => s
    else s
  | some z => s.hartStore h priv z a width v
  | none => s

/-- REGISTER_WRITE: a hart's write. -/
def execRegisterWrite (hart : Nat) (priv : Priv) (addr width : Nat) (value : Word) (s : State) : Out :=
  s.whenReady fun s => s.writeAccess hart priv addr width value

/-! ## Register reads -/

/-- SEQ of the cart an engine runs, with BUSY and what more the status word of its kind shows. -/
def State.engineStatus (s : State) (kind e : Nat) (more : Cart → Nat) : Word :=
  match s.engineCart kind e with
  | some c => wd (c.seq * 2 ^ 32 + more c + 1)
  | none => 0

/-- VENC_ENG_STATUS: HOME, LADDER and WAIT_SRC. -/
def State.encStatus (s : State) (e : Nat) (c : Cart) : Nat :=
  let w := match s.encJob e with
    | some j => !j.got && j.done.isNone
    | none => false
  cartLadder c * 2 ^ 8 + b2n w * 2

/-- Word w of the oldest record of a list, zero where there is none. -/
def oldestWord (rs : List (List Word)) (w : Nat) : Word := (rs.headD []).getD w 0

/-- A hint entry as VENC_HINT shows it. -/
def HintEnt.word (h : HintEnt) : Word :=
  wd (h.counts.getD 2 0 * 2 ^ 48 + h.counts.getD 1 0 * 2 ^ 32 + h.counts.getD 0 0 * 2 ^ 16 + h.pend)

/-- What a plain read of a register returns: the register, or what it shows of the rest of the state. -/
def State.viewReg (s : State) (h : Nat) (priv : Priv) (r : Reg) (i : Nat) : Word :=
  match r with
  | .TM_BUF_OCC => wd s.occ
  | .TM_Q_DEPTH => wd (s.depth (i / 8) (i % 8))
  | .WD_STORE_FREE => wd (storeSize - s.work.store.length)
  | .WD_SEQ_NEXT => wd s.work.seq
  | .WD_POOL_MASK => s.reg r i &&& wd (2 ^ engineCount (s.get F.WD_POOL_CFG.KIND i) - 1)
  | .PEA_CORE_STATE => (s.core i).stateWord
  | .MIX_ENG_PARAM => wd (Tbl.at 0 (s.mixEng (i / 4096)).param (i % 4096)).toNat
  | .VDEC_ENG_STATUS => s.engineStatus 1 i fun c => decStream c * 2 ^ 12
  | .VENC_ENG_STATUS => s.engineStatus 3 i (s.encStatus i)
  | .CMP_ENG_STATUS => s.engineStatus 2 i fun c => cartLayout c * 2 ^ 16
  | .VENC_HINT => (s.hintEnt i).word
  | .IOM_FQ_COUNT => wd (Tbl.at [] s.iom.fq i).length
  | .IOM_FQ_REC => oldestWord (Tbl.at [] s.iom.fq (i / 4)) (i % 4)
  | .TIM_TB_RATE => wd (wrapInt (s.rateAdj i) 64)
  | .TIM_TB_SLEW_OFF => wd (s.slewRead i)
  | .TIM_TXQ_STATUS => wd (Tbl.at [] s.tim.txq i).length
  | .TIM_TXQ_HEAD0 => ((Tbl.at [] s.tim.txq i).headD (0, 0)).1
  | .TIM_TXQ_HEAD1 => ((Tbl.at [] s.tim.txq i).headD (0, 0)).2
  | .ERR_LOG_COUNT => wd (Tbl.at [] s.err.logs i).length
  | .ERR_LOG_HEAD_W => oldestWord (Tbl.at [] s.err.logs (i / 4)) (i % 4)
  | .CTL_ID => wd (0x9256 * 2 ^ 16 + Config.siliconStep.toNat)
  | .CTL_MTIME => wd s.mtime
  | .CTL_EXT_M => wd (s.extBits 1 i)
  | .CTL_EXT_S => wd (s.extBits 0 i)
  | .CTL_EVQ_STATUS => wd ((s.items i).length * 2 ^ 32 + entriesHeld (s.items i))
  | .CTL_EVQ_LATCH => Tbl.at 0 s.ctl.latch (latchKey (i / 32) h (priv = .m) + i % 32)
  | .SEC_STATUS => setFld (s.reg r i) 10 2 s.sec.fuses.lifecycle
  | _ => s.reg r i

/-- A read that returns a word and changes state. -/
def respondWith (h : Nat) (x : Word × State) : State := x.2.respond h x.1

/-- Registers of a port, which exist only for the first lane of a port (02, lane groups and ports). -/
def Reg.ofPort (r : Reg) : Bool := r.row.base / 0x1000 = 0x20010

/-- A read of a register: the value, RC fields cleared by it (00 R8, R10), and what a read of some registers does. -/
def State.readReg (s : State) (h : Nat) (priv : Priv) (r : Reg) (i : Nat) : State :=
  if r.ofPort && !s.isPort i then s.respond h 0
  else match r with
  | .MIX_SMEM_DATA => respondWith h s.smemLoad
  | .MIX_ENG_LOAD_DATA => respondWith h (s.mixLoadRead i)
  | .PEA_POD_MEM_DATA => respondWith h (s.podLoad i)
  | .CMP_COEF_DATA => respondWith h s.coefLoad
  | .TIM_TB_NOW_SEC => s.nowSecRead h i
  | .TIM_TB_NOW_NS => s.nowNsRead h i
  | .ERR_TRACE_RD_DATA => s.traceRead h
  | .CTL_EVQ_HEAD => s.headRead h (priv = .m) i
  | _ => (s.respond h (s.viewReg h priv r i)).setReg r i (s.reg r i &&& ~~~wd r.row.rc)

/-- A hart's load. -/
def State.readAccess (s : State) (h : Nat) (priv : Priv) (a width : Nat) : State :=
  if s.refusesAccess .load a width || (keptPage a && priv ≠ .m) then s.accessFault h .load a
  else match s.zoneAt a width with
  | some .window =>
    if s.answers a then
      match regAt a with
      | some (r, i) => s.readReg h priv r i
      | none => s.respond h 0
    else s
  | some z => s.hartLoad h priv z a width
  | none => s

/-- RC_REGISTER_READ: a hart's read. -/
def execRcRegisterRead (hart : Nat) (priv : Priv) (addr width : Nat) (s : State) : Out :=
  s.whenReady fun s => s.readAccess hart priv addr width

end Sys2Proof.Machine
end

