-- ==== Sys2Proof/Machine/Dispatch.lean ====
section
/-! DEFINITION. One arm per command: the command's meaning, or its refusal by name. -/

namespace Sys2Proof.Machine

/-- The effect of a command on everything but the queue. -/
def exec (i : Instr) (s : State) : Host.Outcome State Fault Refusal :=
  match i with
  | .registerWrite hart priv addr width value => Sys2Proof.Machine.execRegisterWrite hart priv addr width value s
  | .rcRegisterRead hart priv addr width => Sys2Proof.Machine.execRcRegisterRead hart priv addr width s
  | .errorResponseAccess hart kind addr width => Sys2Proof.Machine.execErrorResponseAccess hart kind addr width s
  | .packetBufferDebugRead hart addr width => Sys2Proof.Machine.execPacketBufferDebugRead hart addr width s
  | .prtGrpCfgWrite group value => Sys2Proof.Machine.execPrtGrpCfgWrite group value s
  | .prtPortCfgWrite port value => Sys2Proof.Machine.execPrtPortCfgWrite port value s
  | .frameArrival port bytes fcs => Sys2Proof.Machine.execFrameArrival port bytes fcs s
  | .pipelineSlot pipe => Sys2Proof.Machine.execPipelineSlot pipe s
  | .frameFcsFail pkt => Sys2Proof.Machine.execFrameFcsFail pkt s
  | .authVerdict pkt => Sys2Proof.Machine.execAuthVerdict pkt s
  | .policerScrub => Sys2Proof.Machine.execPolicerScrub s
  | .install scid => Sys2Proof.Machine.execInstall scid s
  | .remove scid => Sys2Proof.Machine.execRemove scid s
  | .update scid => Sys2Proof.Machine.execUpdate scid s
  | .read scid => Sys2Proof.Machine.execRead scid s
  | .readStats scid => Sys2Proof.Machine.execReadStats scid s
  | .keyWrite index => Sys2Proof.Machine.execKeyWrite index s
  | .keyErase index => Sys2Proof.Machine.execKeyErase index s
  | .keyRead index => Sys2Proof.Machine.execKeyRead index s
  | .inInit index => Sys2Proof.Machine.execInInit index s
  | .inUpdate index => Sys2Proof.Machine.execInUpdate index s
  | .inRead index => Sys2Proof.Machine.execInRead index s
  | .outInit index => Sys2Proof.Machine.execOutInit index s
  | .outUpdate index => Sys2Proof.Machine.execOutUpdate index s
  | .outRead index => Sys2Proof.Machine.execOutRead index s
  | .forwardingDecision pkt => Sys2Proof.Machine.execForwardingDecision pkt s
  | .subscriptionDecision walker => Sys2Proof.Machine.execSubscriptionDecision walker s
  | .rateHint scid => Sys2Proof.Machine.execRateHint scid s
  | .talkerSweep => Sys2Proof.Machine.execTalkerSweep s
  | .srcWrite index => Sys2Proof.Machine.execSrcWrite index s
  | .srcRead index => Sys2Proof.Machine.execSrcRead index s
  | .subAdd index => Sys2Proof.Machine.execSubAdd index s
  | .subUpdate index => Sys2Proof.Machine.execSubUpdate index s
  | .subRemove index => Sys2Proof.Machine.execSubRemove index s
  | .subRemoveDone => Sys2Proof.Machine.execSubRemoveDone s
  | .subRead index => Sys2Proof.Machine.execSubRead index s
  | .rbLoad index => Sys2Proof.Machine.execRbLoad index s
  | .rbRead index => Sys2Proof.Machine.execRbRead index s
  | .confWrite index => Sys2Proof.Machine.execConfWrite index s
  | .confRead index => Sys2Proof.Machine.execConfRead index s
  | .talkerClear index => Sys2Proof.Machine.execTalkerClear index s
  | .carInit cgid => Sys2Proof.Machine.execCarInit cgid s
  | .carUpdate cgid => Sys2Proof.Machine.execCarUpdate cgid s
  | .carRead cgid => Sys2Proof.Machine.execCarRead cgid s
  | .carStats cgid => Sys2Proof.Machine.execCarStats cgid s
  | .tokenReset cgid => Sys2Proof.Machine.execTokenReset cgid s
  | .shaperScrub => Sys2Proof.Machine.execShaperScrub s
  | .heldPacketDrop => Sys2Proof.Machine.execHeldPacketDrop s
  | .transmitSelection port => Sys2Proof.Machine.execTransmitSelection port s
  | .frameTransmitEnd port => Sys2Proof.Machine.execFrameTransmitEnd port s
  | .load port => Sys2Proof.Machine.execLoad port s
  | .disable port => Sys2Proof.Machine.execDisable port s
  | .gclStart port => Sys2Proof.Machine.execGclStart port s
  | .gclEntryChange port => Sys2Proof.Machine.execGclEntryChange port s
  | .txRingFrame ring => Sys2Proof.Machine.execTxRingFrame ring s
  | .cartAccept => Sys2Proof.Machine.execCartAccept s
  | .wdSubGo hart => Sys2Proof.Machine.execWdSubGo hart s
  | .dispatch => Sys2Proof.Machine.execDispatch s
  | .preemptSave core => Sys2Proof.Machine.execPreemptSave core s
  | .cartRetire seq => Sys2Proof.Machine.execCartRetire seq s
  | .ageNotice seq => Sys2Proof.Machine.execAgeNotice seq s
  | .cartExpire seq => Sys2Proof.Machine.execCartExpire seq s
  | .coachWrite index => Sys2Proof.Machine.execCoachWrite index s
  | .coachRead index => Sys2Proof.Machine.execCoachRead index s
  | .coachCancel index => Sys2Proof.Machine.execCoachCancel index s
  | .fltRead index => Sys2Proof.Machine.execFltRead index s
  | .fltRearm index => Sys2Proof.Machine.execFltRearm index s
  | .fltCancel index => Sys2Proof.Machine.execFltCancel index s
  | .wdPoolCfgWrite pool mask value => Sys2Proof.Machine.execWdPoolCfgWrite pool mask value s
  | .sideMismatch flagA flagB => Sys2Proof.Machine.execSideMismatch flagA flagB s
  | .switchoverRelease => Sys2Proof.Machine.execSwitchoverRelease s
  | .swap => Sys2Proof.Machine.execSwap s
  | .swapDone => Sys2Proof.Machine.execSwapDone s
  | .standardBundle core => Sys2Proof.Machine.execStandardBundle core s
  | .stagedBundle core => Sys2Proof.Machine.execStagedBundle core s
  | .ldi core => Sys2Proof.Machine.execLdi core s
  | .ldip core => Sys2Proof.Machine.execLdip core s
  | .addil core => Sys2Proof.Machine.execAddil core s
  | .cmpil core => Sys2Proof.Machine.execCmpil core s
  | .controlNop core => Sys2Proof.Machine.execControlNop core s
  | .br core => Sys2Proof.Machine.execBr core s
  | .brc core => Sys2Proof.Machine.execBrc core s
  | .call core => Sys2Proof.Machine.execCall core s
  | .jr core => Sys2Proof.Machine.execJr core s
  | .loop core => Sys2Proof.Machine.execLoop core s
  | .exit core => Sys2Proof.Machine.execExit core s
  | .dma core => Sys2Proof.Machine.execDma core s
  | .dwait core => Sys2Proof.Machine.execDwait core s
  | .submit core => Sys2Proof.Machine.execSubmit core s
  | .hbmRd core ch => Sys2Proof.Machine.execHbmRd core ch s
  | .hbmWr core ch => Sys2Proof.Machine.execHbmWr core ch s
  | .pktRd core ch => Sys2Proof.Machine.execPktRd core ch s
  | .pktFree core ch => Sys2Proof.Machine.execPktFree core ch s
  | .inject core ch => Sys2Proof.Machine.execInject core ch s
  | .smpWr core ch => Sys2Proof.Machine.execSmpWr core ch s
  | .smpRd core ch => Sys2Proof.Machine.execSmpRd core ch s
  | .podMemDataAccess hart pod write value => Sys2Proof.Machine.execPodMemDataAccess hart pod write value s
  | .mixTick eng => Sys2Proof.Machine.execMixTick eng s
  | .blockEnd eng => Sys2Proof.Machine.execBlockEnd eng s
  | .mixNop eng => Sys2Proof.Machine.execMixNop eng s
  | .mixEnd eng => Sys2Proof.Machine.execMixEnd eng s
  | .rd eng => Sys2Proof.Machine.execRd eng s
  | .wr eng => Sys2Proof.Machine.execWr eng s
  | .wra eng => Sys2Proof.Machine.execWra eng s
  | .spl eng => Sys2Proof.Machine.execSpl eng s
  | .splw eng => Sys2Proof.Machine.execSplw eng s
  | .mixAclr eng => Sys2Proof.Machine.execMixAclr eng s
  | .mixAmov eng => Sys2Proof.Machine.execMixAmov eng s
  | .mixAadd eng => Sys2Proof.Machine.execMixAadd eng s
  | .mixAsub eng => Sys2Proof.Machine.execMixAsub eng s
  | .mixMac eng => Sys2Proof.Machine.execMixMac eng s
  | .mixMsu eng => Sys2Proof.Machine.execMixMsu eng s
  | .macr eng => Sys2Proof.Machine.execMacr eng s
  | .msur eng => Sys2Proof.Machine.execMsur eng s
  | .atw eng => Sys2Proof.Machine.execAtw eng s
  | .wmov eng => Sys2Proof.Machine.execWmov eng s
  | .wclr eng => Sys2Proof.Machine.execWclr eng s
  | .bdn eng => Sys2Proof.Machine.execBdn eng s
  | .bup eng => Sys2Proof.Machine.execBup eng s
  | .cart eng => Sys2Proof.Machine.execCart eng s
  | .spoolSlotWrite eng => Sys2Proof.Machine.execSpoolSlotWrite eng s
  | .mixEngLoadDataWrite eng value => Sys2Proof.Machine.execMixEngLoadDataWrite eng value s
  | .arm eng => Sys2Proof.Machine.execArm eng s
  | .disarm eng => Sys2Proof.Machine.execDisarm eng s
  | .parameterWrite eng index value => Sys2Proof.Machine.execParameterWrite eng index value s
  | .mixEngCtlWrite eng value => Sys2Proof.Machine.execMixEngCtlWrite eng value s
  | .mixSmemDataAccess hart write value => Sys2Proof.Machine.execMixSmemDataAccess hart write value s
  | .packet eng => Sys2Proof.Machine.execPacket eng s
  | .decOpen eng => Sys2Proof.Machine.execDecOpen eng s
  | .decFlush eng => Sys2Proof.Machine.execDecFlush eng s
  | .decClose eng => Sys2Proof.Machine.execDecClose eng s
  | .decodeAu eng => Sys2Proof.Machine.execDecodeAu eng s
  | .ladderOpen eng => Sys2Proof.Machine.execLadderOpen eng s
  | .encode eng => Sys2Proof.Machine.execEncode eng s
  | .encodeSrcTimeout eng => Sys2Proof.Machine.execEncodeSrcTimeout eng s
  | .encodeFrameAccept eng => Sys2Proof.Machine.execEncodeFrameAccept eng s
  | .ladderClose eng => Sys2Proof.Machine.execLadderClose eng s
  | .hintEntryMove eng ladder => Sys2Proof.Machine.execHintEntryMove eng ladder s
  | .vencKfCmdWrite value => Sys2Proof.Machine.execVencKfCmdWrite value s
  | .cmpOpen eng => Sys2Proof.Machine.execCmpOpen eng s
  | .compose eng => Sys2Proof.Machine.execCompose eng s
  | .cmpClose eng => Sys2Proof.Machine.execCmpClose eng s
  | .cmpCoefDataWrite value => Sys2Proof.Machine.execCmpCoefDataWrite value s
  | .hbmCtlWrite value => Sys2Proof.Machine.execHbmCtlWrite value s
  | .hbmRequest pc arriving => Sys2Proof.Machine.execHbmRequest pc arriving s
  | .patrolScrub corrected => Sys2Proof.Machine.execPatrolScrub corrected s
  | .refresh pc => Sys2Proof.Machine.execRefresh pc s
  | .readTrain pc laneErr caErr => Sys2Proof.Machine.execReadTrain pc laneErr caErr s
  | .writePattern pc caErr => Sys2Proof.Machine.execWritePattern pc caErr s
  | .readCompare pc laneErr caErr => Sys2Proof.Machine.execReadCompare pc laneErr caErr s
  | .applyRepair pc => Sys2Proof.Machine.execApplyRepair pc s
  | .retrain pc => Sys2Proof.Machine.execRetrain pc s
  | .online pc => Sys2Proof.Machine.execOnline pc s
  | .offline pc => Sys2Proof.Machine.execOffline pc s
  | .invAll => Sys2Proof.Machine.execInvAll s
  | .invDom domain => Sys2Proof.Machine.execInvDom domain s
  | .invRange domain => Sys2Proof.Machine.execInvRange domain s
  | .invalidateDone => Sys2Proof.Machine.execInvalidateDone s
  | .iomFqPop domain value => Sys2Proof.Machine.execIomFqPop domain value s
  | .start ch => Sys2Proof.Machine.execStart ch s
  | .resume ch => Sys2Proof.Machine.execResume ch s
  | .abort ch => Sys2Proof.Machine.execAbort ch s
  | .dmaChunk ch => Sys2Proof.Machine.execDmaChunk ch s
  | .rateLockUpdate tb edges measured => Sys2Proof.Machine.execRateLockUpdate tb edges measured s
  | .setNow tb => Sys2Proof.Machine.execSetNow tb s
  | .setAtPps0 tb => Sys2Proof.Machine.execSetAtPps0 tb s
  | .setAtPps1 tb => Sys2Proof.Machine.execSetAtPps1 tb s
  | .timTbSlewOffWrite tb value => Sys2Proof.Machine.execTimTbSlewOffWrite tb value s
  | .slewDone tb => Sys2Proof.Machine.execSlewDone tb s
  | .timTbNowSecRead hart tb => Sys2Proof.Machine.execTimTbNowSecRead hart tb s
  | .timTbNowNsRead hart tb => Sys2Proof.Machine.execTimTbNowNsRead hart tb s
  | .timXsnap => Sys2Proof.Machine.execTimXsnap s
  | .timTxqPop port value => Sys2Proof.Machine.execTimTxqPop port value s
  | .inputEdge input rising quarter => Sys2Proof.Machine.execInputEdge input rising quarter s
  | .ppsLost input => Sys2Proof.Machine.execPpsLost input s
  | .outputRise output => Sys2Proof.Machine.execOutputRise output s
  | .outputFall output => Sys2Proof.Machine.execOutputFall output s
  | .timOutCfgWrite output value => Sys2Proof.Machine.execTimOutCfgWrite output value s
  | .machineTimerInterrupt hart => Sys2Proof.Machine.execMachineTimerInterrupt hart s
  | .eventItemPost src => Sys2Proof.Machine.execEventItemPost src s
  | .evqHeadRead hart priv queue mie swip => Sys2Proof.Machine.execEvqHeadRead hart priv queue mie swip s
  | .evqReadWake hart mie swip => Sys2Proof.Machine.execEvqReadWake hart mie swip s
  | .evqFlush queue partway => Sys2Proof.Machine.execEvqFlush queue partway s
  | .ctlEvqCfgWrite queue value => Sys2Proof.Machine.execCtlEvqCfgWrite queue value s
  | .mgtFrameReceive bytes fcsOk => Sys2Proof.Machine.execMgtFrameReceive bytes fcsOk s
  | .mgtTxFrame => Sys2Proof.Machine.execMgtTxFrame s
  | .mdioAddress => Sys2Proof.Machine.execMdioAddress s
  | .mdioWrite => Sys2Proof.Machine.execMdioWrite s
  | .mdioReadInc data => Sys2Proof.Machine.execMdioReadInc data s
  | .mdioRead data => Sys2Proof.Machine.execMdioRead data s
  | .ctlRyuDoorbell value => Sys2Proof.Machine.execCtlRyuDoorbell value s
  | .version channel => Sys2Proof.Machine.execVersion channel s
  | .featGet channel => Sys2Proof.Machine.execFeatGet channel s
  | .featSet channel => Sys2Proof.Machine.execFeatSet channel s
  | .thermalRead channel stack0 stack1 => Sys2Proof.Machine.execThermalRead channel stack0 stack1 s
  | .hbmInfo channel margins => Sys2Proof.Machine.execHbmInfo channel margins s
  | .channelMaskSet channel => Sys2Proof.Machine.execChannelMaskSet channel s
  | .errEventsCfg channel => Sys2Proof.Machine.execErrEventsCfg channel s
  | .traceRead channel => Sys2Proof.Machine.execTraceRead channel s
  | .autoSwap => Sys2Proof.Machine.execAutoSwap s
  | .errEventPost => Sys2Proof.Machine.execErrEventPost s
  | .rootOfTrustBoot selfTestOk => Sys2Proof.Machine.execRootOfTrustBoot selfTestOk s
  | .secMbxDbM hart priv value => Sys2Proof.Machine.execSecMbxDbM hart priv value s
  | .secMbxDbS value => Sys2Proof.Machine.execSecMbxDbS value s
  | .report half => Sys2Proof.Machine.execReport half s
  | .readMeas half => Sys2Proof.Machine.execReadMeas half s
  | .extend half => Sys2Proof.Machine.execExtend half s
  | .getCert half => Sys2Proof.Machine.execGetCert half s
  | .verify half => Sys2Proof.Machine.execVerify half s
  | .lock half => Sys2Proof.Machine.execLock half s
  | .cfgWrite half => Sys2Proof.Machine.execCfgWrite half s
  | .svnCommit half => Sys2Proof.Machine.execSvnCommit half s
  | .wrap half => Sys2Proof.Machine.execWrap half s
  | .unwrap half => Sys2Proof.Machine.execUnwrap half s
  | .networkRequest => Sys2Proof.Machine.execNetworkRequest s
  | .secChallenge => Sys2Proof.Machine.execSecChallenge s
  | .secUnlock token => Sys2Proof.Machine.execSecUnlock token s
  | .errorDetection subsys code inst info => Sys2Proof.Machine.execErrorDetection subsys code inst info s
  | .fatalResetTimer => Sys2Proof.Machine.execFatalResetTimer s
  | .wedged hart kind addr => Sys2Proof.Machine.execWedged hart kind addr s
  | .clockLoss reference => Sys2Proof.Machine.execClockLoss reference s
  | .slotFullClear value => Sys2Proof.Machine.execSlotFullClear value s
  | .errLogPop value => Sys2Proof.Machine.execErrLogPop value s
  | .errInject value => Sys2Proof.Machine.execErrInject value s
  | .errTraceWr3 priv value => Sys2Proof.Machine.execErrTraceWr3 priv value s
  | .errTraceRdData hart => Sys2Proof.Machine.execErrTraceRdData hart s
  | .thermalReading readings => Sys2Proof.Machine.execThermalReading readings s
  | .errThermCfgWrite value => Sys2Proof.Machine.execErrThermCfgWrite value s
  | .ctlReset value => Sys2Proof.Machine.execCtlReset value s
  | .resetNAssert => Sys2Proof.Machine.execResetNAssert s
  | .resetNRelease => Sys2Proof.Machine.execResetNRelease s
  | .fullResetRelease => Sys2Proof.Machine.execFullResetRelease s
  | .railUndervoltage rail => Sys2Proof.Machine.execRailUndervoltage rail s
  | .monitoredRailReturn => Sys2Proof.Machine.execMonitoredRailReturn s
  | .refclk100Return => Sys2Proof.Machine.execRefclk100Return s
  | .blockLock group locked => Sys2Proof.Machine.execBlockLock group locked s
  | .mgtLinkChange up speed duplex => Sys2Proof.Machine.execMgtLinkChange up speed duplex s
  | .trstNChange low => Sys2Proof.Machine.execTrstNChange low s
  | .mixEngLoadDataRead hart eng => Sys2Proof.Machine.execMixEngLoadDataRead hart eng s
  | .cmpCoefDataRead hart => Sys2Proof.Machine.execCmpCoefDataRead hart s

end Sys2Proof.Machine
end

