-- ==== Sys2Proof/Machine/Step.lean ====
section
/-! DEFINITION. One step: the command at the front of the queue, or an idle cycle. -/

namespace Sys2Proof.Machine

/-- The state with another queue. -/
def State.withQueue (s : State) (q : List Instr) : State := { s with pending := q }

/-- A step takes the command at the front and runs it on the state with the queue's rest; with no command waiting the
block idles (log 1). -/
def step (s : State) : Host.Outcome State Fault Refusal :=
  match s.pending with
  | c :: rest => exec c (s.withQueue rest)
  | [] => .next s.idle

/-- The state with the command that a word spells at the front of its queue, unchanged where it spells none. -/
def State.withFetchWord (s : State) (nbits w : Nat) : State :=
  match Sys2Proof.decodeTableWord nbits w with
  | some c => s.withQueue (c :: s.pending)
  | none => s

end Sys2Proof.Machine
end

