-- ==== Sys2Proof/Safety.lean ====
section
/-! DEFINITION. The terms the statements use: what it is for a command to complete, what it leaves unchanged, the
commands that act in every state. -/

namespace Sys2Proof.Machine

/-- The command completes: it answers a next state, and P holds of that state. -/
def Does (c : Instr) (s : State) (P : State → Prop) : Prop := ∃ t, exec c s = .next t ∧ P t

/-- Every register but those of a list keeps its value. -/
def KeepsRegs (s t : State) (rs : List Reg) : Prop := ∀ r i, r ∉ rs → t.reg r i = s.reg r i

/-- Every register keeps its value but the named instances. -/
def KeepsBut (s t : State) (rs : List (Reg × Nat)) : Prop := ∀ r i, (r, i) ∉ rs → t.reg r i = s.reg r i

/-- Nothing but the named register instances changes. -/
def Only (s t : State) (rs : List (Reg × Nat)) : Prop := t = { s with regs := t.regs } ∧ KeepsBut s t rs

/-- No access to HBM has to wait: no request waits at a port and no pseudo-channel is retraining (12 R354, R357, R358,
R367), and no producer is held at its event crossing (01 R21). -/
def Ready (s : State) : Prop :=
  s.live = true ∧ s.free = true ∧ s.hbm.waiting = [] ∧ s.hbm.held = [] ∧ ∀ pc, s.get F.HBM_PC_STATE.STATE pc ≠ 3

/-- The packet buffer takes n cells of a drop-class (05 R152, R154). -/
def State.hasRoom (s : State) (dclass n : Nat) : Prop := s.occ < s.get F.TM_BUF_THR.THR dclass ∧ s.occ + n ≤ cellCount

/-- Extension of a sequence number by the record of context i (02 R53). -/
def State.seqExt (s : State) (i seq : Nat) : Nat :=
  if s.ctx i Ctx.INIT = 0 then 65536 + seq
  else wrapInt (s.ctx i Ctx.HI_SEQ + sext (seq + 65536 - s.ctx i Ctx.HI_SEQ % 65536) 16) 48

/-- Extension of a timestamp by the record of context i (02 R53). -/
def State.tsExt (s : State) (i ts : Nat) : Nat :=
  if s.ctx i Ctx.INIT = 0 then 2 ^ 32 + ts
  else wrapInt (s.ctx i Ctx.HI_TS + sext (ts + 2 ^ 32 - s.ctx i Ctx.HI_TS % 2 ^ 32) 32) 64

/-- The running cart of core k issues the legal bundle w next. -/
def Issues (s : State) (k : Nat) (r : PeaRun) (w : Word) : Prop :=
  s.live = true ∧ s.err.clkStopped = false ∧ s.issuable k = some r ∧ r.pc < 4096 ∧ s.bundle k r = w ∧ bundleLegal w = true

/-- The running cart of core k stands as r with the memories of p, and nothing else has changed. -/
def PeaGoes (s : State) (k : Nat) (r : PeaRun) (p : Pea) (t : State) : Prop :=
  t.core k = { s.core k with run := some r, stalled := false } ∧ (∀ j, j ≠ k → t.core j = s.core j) ∧
    t = { s with pea := { p with cores := t.pea.cores } }

/-- The running cart of core k takes an exception and leaves ERROR: with no transfer in flight the core is free, its
RESULT holds the code, the bundle index and the address, and the exception is counted (07 R228). -/
def Excepts (c : Instr) (s : State) (k : Nat) (r : PeaRun) (e : PeaExc) : Prop :=
  r.moving = false → cartType r.words = 0x01 → Does c s fun t => (t.core k).run = none ∧
    t.get F.PEA_CORE_EXC_CNT.CNT k = (s.get F.PEA_CORE_EXC_CNT.CNT k + 1) % 2 ^ 48 ∧
    ∀ d ∈ t.work.store, d.seq = r.seq → d.st = .ended ∧ d.status = 1 ∧
      d.result = wd (e.code * 2 ^ 56 + min r.pc 4095 * 2 ^ 32 + e.addr % 2 ^ 24)

/-- Cart q has ended with a status. -/
def Ended (t : State) (q status : Nat) : Prop := ∃ d, t.cart q = some d ∧ d.st = .ended ∧ d.status = status

/-- Cart q has ended with a status and a RESULT. -/
def EndedAs (t : State) (q status : Nat) (result : Word) : Prop :=
  ∃ d, t.cart q = some d ∧ d.st = .ended ∧ d.status = status ∧ d.result = result

/-- Mix engine e runs block r.block and its next instruction is w, of operation op. -/
def MixIssues (s : State) (e op : Nat) (r : MixRun) (w : Word) : Prop :=
  s.live = true ∧ (s.mixEng e).run = some r ∧ r.ended = false ∧ (s.activeImage e).instr r.pos = w ∧ mixOp w = op

/-- Mix engine e has gone on to its next instruction; the other engines are as they were. -/
def MixGoes (s t : State) (e : Nat) (r : MixRun) (w : Word) : Prop :=
  (t.mixEng e).run = some { r with pos := r.pos + 1, cycles := r.cycles + (s.activeImage e).cost w } ∧
    ∀ j, j ≠ e → t.mixEng j = s.mixEng j

/-- Lane i of accumulator k of a mix engine. -/
def State.mixAcc (s : State) (e k i : Nat) : Int := (Tbl.at 0 (s.mixEng e).a (k * 48 + i)).toInt

/-- Lane i of work register k of a mix engine. -/
def State.mixLane (s : State) (e k i : Nat) : Int := (Tbl.at 0 (s.mixEng e).w (k * 48 + i)).toInt

/-- Device firmware runs and serves channel c next: its request names message m and is not the one last answered. -/
def RyuWaits (s : State) (c m : Nat) : Prop :=
  s.firmwareRuns = true ∧ s.ryuNext c = true ∧ s.ryuMsg c = m ∧
    s.scr (channelBase c + 12) 4 ≠ s.scr (channelBase c + 0x80C) 4

/-- Channel c is answered: payload, RSP_HDR and RSP_CTL stand in it, its doorbell no longer pends, and with NOTIFY 1 one
item of SRC 13 is on its way. -/
def RyuAnswered (s t : State) (c status : Nat) (payload : List Byte) : Prop :=
  let b := channelBase c
  let ctl := ofLe (s.scr (b + 8) 4)
  t.scr (b + 0x840) payload.length = payload ∧
  t.scr (b + 0x800) 8 = s.scr b 4 ++ leBytes 2 (ryuLen status payload) ++ s.scr (b + 6) 2 ∧
  t.scr (b + 0x808) 8 = leBytes 4 status ++ s.scr (b + 12) 4 ∧
  bitAt (t.get F.CTL_RYU_PEND.PEND 0) c = false ∧
  (bitAt ctl 6 = true → Tbl.at [] t.ctl.crossing 13 = Tbl.at [] s.ctl.crossing 13 ++
    [(ctl % 64, [itemHeader 13 0 0 c status, wd (ofLe (s.scr (b + 12) 4))])])

/-- The root of trust serves a half next: its request names message n and is not the one last answered. -/
def MbxWaits (s : State) (m : Bool) (n : Nat) : Prop :=
  s.rotServes = true ∧ s.rung m = true ∧ (m = false → s.rung true = false) ∧ s.mbxMsg m = n ∧
    ofLe (s.mbx (halfBase m + 12) 4) ≠ ofLe (s.mbx (halfBase m + 0x400C) 4)

/-- A half is answered: payload, RSP_HDR and RSP_CTL stand in it, and its doorbell no longer waits. -/
def MbxAnswered (s t : State) (m : Bool) (status : Nat) (payload : List Byte) : Prop :=
  let b := halfBase m
  t.mbx (b + 0x4040) payload.length = payload ∧
  t.mbx (b + 0x4000) 8 = s.mbx b 4 ++ leBytes 2 payload.length ++ s.mbx (b + 6) 2 ∧
  t.mbx (b + 0x4008) 8 = leBytes 4 status ++ leBytes 4 (ofLe (s.mbx (b + 12) 4)) ∧ t.rung m = false

/-- Registers that a write changes by the access codes of their fields alone, some of every chapter that has any. -/
def plainRegs : List Reg :=
  [.ING_PORT_CFG, .ING_POL_OVH, .ING_RING_MAP, .ING_RING_TAIL, .SRT_LIFE_MARGIN, .SRT_NOTICE_CFG, .FWD_STEER_A,
   .FWD_XMAP_LO, .TM_LEN_PROF, .TM_BUF_THR, .TM_PQ_CFG, .TM_GCL_ENTRY, .WD_CFG, .WD_POOL_WGT, .VDEC_CFG, .CMP_CFG,
   .IOM_DOM_CFG, .TIM_PORT_CORR, .TIM_TXQ_CFG, .ERR_CFG, .CTL_MSIP, .CTL_RYU_CFG,
   .CTL_EVQ_NOTICE, .CTL_RYU_PEND, .CMP_COEF_STATUS]

/-- Registers that a read clears (RC). -/
def clearingRegs : List Reg := [.TM_BUF_PEAK, .MIX_ENG_CYC_MAX, .CMP_ENG_CYC_MAX, .HBM_PC_REF_OWED_MAX]

/-- The pins, rails and clocks of the part, which act in every state (16 R466, 17 R477, R482). -/
def isPin : Instr → Bool
  | .resetNAssert => true
  | .resetNRelease => true
  | .fullResetRelease => true
  | .railUndervoltage _ => true
  | .monitoredRailReturn => true
  | .refclk100Return => true
  | .trstNChange _ => true
  | .clockLoss reference => reference
  | _ => false

/-- The step ended in a next state. -/
def Goes (o : Out) : Prop := match o with
  | .next _ => True
  | .fault _ => False
  | .refused _ => False

end Sys2Proof.Machine
end

