-- ==== Sys2Proof/WellFormed.lean ====
section
/-! DEFINITION. Which commands the sender may send: every instance, index and code within the range the spec gives it.
A command out of range is none of the part's (log 57). -/

namespace Sys2Proof

/-- A width that a hart accesses with: 2 or 4 bytes for a fetch, 1 to 8 otherwise (14 R401, R402). -/
def widthOk (k : AccessKind) (width : Nat) : Bool :=
  match k with
  | .fetch => width = 2 || width = 4
  | _ => width = 1 || width = 2 || width = 4 || width = 8

/-- A frame on a line: at least its FCS and at most the largest a MAC counts (02 R36). -/
def frameOk (bytes : List Byte) : Bool := decide (4 ≤ bytes.length ∧ bytes.length < 2 ^ 16)

/-- A producer of event items (14 R408). -/
def producerOk (src : Nat) : Bool := decide (0 < src ∧ src < 15)

/-- Training margins: one of 16 bits for each pseudo-channel (14 R423). -/
def marginsOk (margins : List Nat) : Bool := decide (margins.length = 64) && margins.all fun m => decide (m < 2 ^ 16)

/-- Readings of the 24 junction sensors, of 16 signed bits each (16 R469, 17 R491). -/
def readingsOk (readings : List Int) : Bool := decide (readings.length = 24) && readings.all fun t => decide (-32768 ≤ t ∧ t < 32768)

/-- A measured frequency error in 2^−48 (13 R382). -/
def measuredOk (measured : Int) : Bool := decide (-(2 ^ 63) ≤ measured ∧ measured < 2 ^ 63)

/-- A debug unlock token (15 R450). -/
def tokenOk (token : List Byte) : Bool := decide (token.length = 196)

/-- A request at an HBM port: a port and its stream, a length of 1 to 64 bytes in one line of HBM, and the data of a
write (12 R354, R355). -/
def reqOk (r : HbmReq) : Bool :=
  decide (r.port < 12 ∧ 0 < r.len ∧ r.addr % 64 + r.len ≤ 64 ∧ 0x10000000000 ≤ r.addr)
    && decide (r.data.length = if r.write then r.len else 0)

/-- A command that may be sent. -/
def Instr.wellFormed : Instr → Bool
  | .registerWrite hart _ addr width _ => decide (hart < 8) && decide (addr < 2 ^ 46) && widthOk .load width
  | .rcRegisterRead hart _ addr width => decide (hart < 8) && decide (addr < 2 ^ 46) && widthOk .load width
  | .errorResponseAccess hart kind addr width => decide (hart < 8) && decide (addr < 2 ^ 46) && widthOk kind width
  | .packetBufferDebugRead hart addr width => decide (hart < 8) && decide (addr < 2 ^ 46) && widthOk .load width
  | .prtGrpCfgWrite group _ => decide (group < 32)
  | .prtPortCfgWrite port _ => decide (port < 256)
  | .frameArrival port bytes _ => decide (port < 256) && frameOk bytes
  | .pipelineSlot pipe => decide (pipe < 8)
  | .frameFcsFail _ => true
  | .authVerdict _ => true
  | .policerScrub => true
  | .install scid => decide (scid < 2 ^ 20)
  | .remove scid => decide (scid < 2 ^ 20)
  | .update scid => decide (scid < 2 ^ 20)
  | .read scid => decide (scid < 2 ^ 20)
  | .readStats scid => decide (scid < 2 ^ 20)
  | .keyWrite index => decide (index < 2 ^ 20)
  | .keyErase index => decide (index < 2 ^ 20)
  | .keyRead index => decide (index < 2 ^ 20)
  | .inInit index => decide (index < 2 ^ 20)
  | .inUpdate index => decide (index < 2 ^ 20)
  | .inRead index => decide (index < 2 ^ 20)
  | .outInit index => decide (index < 2 ^ 20)
  | .outUpdate index => decide (index < 2 ^ 20)
  | .outRead index => decide (index < 2 ^ 20)
  | .forwardingDecision _ => true
  | .subscriptionDecision walker => decide (walker < 16)
  | .rateHint scid => decide (scid < 2 ^ 20)
  | .talkerSweep => true
  | .srcWrite index => decide (index < 2 ^ 20)
  | .srcRead index => decide (index < 2 ^ 20)
  | .subAdd index => decide (index < 2 ^ 20)
  | .subUpdate index => decide (index < 2 ^ 20)
  | .subRemove index => decide (index < 2 ^ 20)
  | .subRemoveDone => true
  | .subRead index => decide (index < 2 ^ 20)
  | .rbLoad index => decide (index < 2 ^ 20)
  | .rbRead index => decide (index < 2 ^ 20)
  | .confWrite index => decide (index < 2 ^ 20)
  | .confRead index => decide (index < 2 ^ 20)
  | .talkerClear index => decide (index < 2 ^ 20)
  | .carInit cgid => decide (cgid < 2 ^ 17)
  | .carUpdate cgid => decide (cgid < 2 ^ 17)
  | .carRead cgid => decide (cgid < 2 ^ 17)
  | .carStats cgid => decide (cgid < 2 ^ 17)
  | .tokenReset cgid => decide (cgid < 2 ^ 17)
  | .shaperScrub => true
  | .heldPacketDrop => true
  | .transmitSelection port => decide (port < 256)
  | .frameTransmitEnd port => decide (port < 256)
  | .load port => decide (port < 256)
  | .disable port => decide (port < 256)
  | .gclStart port => decide (port < 256)
  | .gclEntryChange port => decide (port < 256)
  | .txRingFrame ring => decide (ring < 16)
  | .cartAccept => true
  | .wdSubGo hart => decide (hart < 8)
  | .dispatch => true
  | .preemptSave core => decide (core < 512)
  | .cartRetire seq => decide (seq < 2 ^ 32)
  | .ageNotice seq => decide (seq < 2 ^ 32)
  | .cartExpire seq => decide (seq < 2 ^ 32)
  | .coachWrite index => decide (index < 2 ^ 16)
  | .coachRead index => decide (index < 2 ^ 16)
  | .coachCancel index => decide (index < 2 ^ 16)
  | .fltRead index => decide (index < 2 ^ 16)
  | .fltRearm index => decide (index < 2 ^ 16)
  | .fltCancel index => decide (index < 2 ^ 16)
  | .wdPoolCfgWrite pool _ _ => decide (pool < 16)
  | .sideMismatch _ _ => true
  | .switchoverRelease => true
  | .swap => true
  | .swapDone => true
  | .standardBundle core => decide (core < 512)
  | .stagedBundle core => decide (core < 512)
  | .ldi core => decide (core < 512)
  | .ldip core => decide (core < 512)
  | .addil core => decide (core < 512)
  | .cmpil core => decide (core < 512)
  | .controlNop core => decide (core < 512)
  | .br core => decide (core < 512)
  | .brc core => decide (core < 512)
  | .call core => decide (core < 512)
  | .jr core => decide (core < 512)
  | .loop core => decide (core < 512)
  | .exit core => decide (core < 512)
  | .dma core => decide (core < 512)
  | .dwait core => decide (core < 512)
  | .submit core => decide (core < 512)
  | .hbmRd core ch => decide (core < 512) && decide (ch < 4)
  | .hbmWr core ch => decide (core < 512) && decide (ch < 4)
  | .pktRd core ch => decide (core < 512) && decide (ch < 4)
  | .pktFree core ch => decide (core < 512) && decide (ch < 4)
  | .inject core ch => decide (core < 512) && decide (ch < 4)
  | .smpWr core ch => decide (core < 512) && decide (ch < 4)
  | .smpRd core ch => decide (core < 512) && decide (ch < 4)
  | .podMemDataAccess hart pod _ _ => decide (hart < 8) && decide (pod < 32)
  | .mixTick eng => decide (eng < 8)
  | .blockEnd eng => decide (eng < 8)
  | .mixNop eng => decide (eng < 8)
  | .mixEnd eng => decide (eng < 8)
  | .rd eng => decide (eng < 8)
  | .wr eng => decide (eng < 8)
  | .wra eng => decide (eng < 8)
  | .spl eng => decide (eng < 8)
  | .splw eng => decide (eng < 8)
  | .mixAclr eng => decide (eng < 8)
  | .mixAmov eng => decide (eng < 8)
  | .mixAadd eng => decide (eng < 8)
  | .mixAsub eng => decide (eng < 8)
  | .mixMac eng => decide (eng < 8)
  | .mixMsu eng => decide (eng < 8)
  | .macr eng => decide (eng < 8)
  | .msur eng => decide (eng < 8)
  | .atw eng => decide (eng < 8)
  | .wmov eng => decide (eng < 8)
  | .wclr eng => decide (eng < 8)
  | .bdn eng => decide (eng < 8)
  | .bup eng => decide (eng < 8)
  | .cart eng => decide (eng < 8)
  | .spoolSlotWrite eng => decide (eng < 8)
  | .mixEngLoadDataWrite eng _ => decide (eng < 8)
  | .arm eng => decide (eng < 8)
  | .disarm eng => decide (eng < 8)
  | .parameterWrite eng index _ => decide (eng < 8) && decide (index < 4096)
  | .mixEngCtlWrite eng _ => decide (eng < 8)
  | .mixSmemDataAccess hart _ _ => decide (hart < 8)
  | .packet eng => decide (eng < 64)
  | .decOpen eng => decide (eng < 64)
  | .decFlush eng => decide (eng < 64)
  | .decClose eng => decide (eng < 64)
  | .decodeAu eng => decide (eng < 64)
  | .ladderOpen eng => decide (eng < 32)
  | .encode eng => decide (eng < 32)
  | .encodeSrcTimeout eng => decide (eng < 32)
  | .encodeFrameAccept eng => decide (eng < 32)
  | .ladderClose eng => decide (eng < 32)
  | .hintEntryMove eng ladder => decide (eng < 32) && decide (ladder < 256)
  | .vencKfCmdWrite _ => true
  | .cmpOpen eng => decide (eng < 16)
  | .compose eng => decide (eng < 16)
  | .cmpClose eng => decide (eng < 16)
  | .cmpCoefDataWrite _ => true
  | .hbmCtlWrite _ => true
  | .hbmRequest pc arriving => decide (pc < 64) && arriving.all reqOk
  | .patrolScrub _ => true
  | .refresh pc => decide (pc < 64)
  | .readTrain pc laneErr _ => decide (pc < 64) && decide (laneErr < 2 ^ 38)
  | .writePattern pc _ => decide (pc < 64)
  | .readCompare pc laneErr _ => decide (pc < 64) && decide (laneErr < 2 ^ 38)
  | .applyRepair pc => decide (pc < 64)
  | .retrain pc => decide (pc < 64)
  | .online pc => decide (pc < 64)
  | .offline pc => decide (pc < 64)
  | .invAll => true
  | .invDom domain => decide (domain < 64)
  | .invRange domain => decide (domain < 64)
  | .invalidateDone => true
  | .iomFqPop domain _ => decide (domain < 64)
  | .start ch => decide (ch < 16)
  | .resume ch => decide (ch < 16)
  | .abort ch => decide (ch < 16)
  | .dmaChunk ch => decide (ch < 16)
  | .rateLockUpdate tb _ measured => decide (tb < 8) && measuredOk measured
  | .setNow tb => decide (tb < 8)
  | .setAtPps0 tb => decide (tb < 8)
  | .setAtPps1 tb => decide (tb < 8)
  | .timTbSlewOffWrite tb _ => decide (tb < 8)
  | .slewDone tb => decide (tb < 8)
  | .timTbNowSecRead hart tb => decide (hart < 8) && decide (tb < 8)
  | .timTbNowNsRead hart tb => decide (hart < 8) && decide (tb < 8)
  | .timXsnap => true
  | .timTxqPop port _ => decide (port < 256)
  | .inputEdge input _ quarter => decide (input < 18) && decide (quarter < 4)
  | .ppsLost input => decide (input < 18)
  | .outputRise output => decide (output < 3)
  | .outputFall output => decide (output < 3)
  | .timOutCfgWrite output _ => decide (output < 3)
  | .machineTimerInterrupt hart => decide (hart < 8)
  | .eventItemPost src => producerOk src
  | .evqHeadRead hart _ queue mie swip =>
    decide (hart < 8) && decide (queue < 64) && decide (mie < 2 ^ 64) && decide (swip < 2 ^ 64)
  | .evqReadWake hart mie swip => decide (hart < 8) && decide (mie < 2 ^ 64) && decide (swip < 2 ^ 64)
  | .evqFlush queue partway => decide (queue < 64) && partway.all producerOk
  | .ctlEvqCfgWrite queue _ => decide (queue < 64)
  | .mgtFrameReceive bytes _ => frameOk bytes
  | .mgtTxFrame => true
  | .mdioAddress => true
  | .mdioWrite => true
  | .mdioReadInc data => decide (data < 2 ^ 16)
  | .mdioRead data => decide (data < 2 ^ 16)
  | .ctlRyuDoorbell _ => true
  | .version channel => decide (channel < 8)
  | .featGet channel => decide (channel < 8)
  | .featSet channel => decide (channel < 8)
  | .thermalRead channel stack0 stack1 => decide (channel < 8) && decide (stack0 < 2 ^ 16) && decide (stack1 < 2 ^ 16)
  | .hbmInfo channel margins => decide (channel < 8) && marginsOk margins
  | .channelMaskSet channel => decide (channel < 8)
  | .errEventsCfg channel => decide (channel < 8)
  | .traceRead channel => decide (channel < 8)
  | .autoSwap => true
  | .errEventPost => true
  | .rootOfTrustBoot _ => true
  | .secMbxDbM hart _ _ => decide (hart < 8)
  | .secMbxDbS _ => true
  | .report _ => true
  | .readMeas _ => true
  | .extend _ => true
  | .getCert _ => true
  | .verify _ => true
  | .lock _ => true
  | .cfgWrite _ => true
  | .svnCommit _ => true
  | .wrap _ => true
  | .unwrap _ => true
  | .networkRequest => true
  | .secChallenge => true
  | .secUnlock token => tokenOk token
  | .errorDetection subsys code inst _ =>
    decide (0 < subsys ∧ subsys < 15) && decide (code < 256) && decide (inst < 2 ^ 16)
  | .fatalResetTimer => true
  | .wedged hart _ addr => decide (hart < 8) && decide (addr < 2 ^ 46)
  | .clockLoss _ => true
  | .slotFullClear _ => true
  | .errLogPop _ => true
  | .errInject _ => true
  | .errTraceWr3 _ _ => true
  | .errTraceRdData hart => decide (hart < 8)
  | .thermalReading readings => readingsOk readings
  | .errThermCfgWrite _ => true
  | .ctlReset _ => true
  | .resetNAssert => true
  | .resetNRelease => true
  | .fullResetRelease => true
  | .railUndervoltage rail => decide (rail < 3)
  | .monitoredRailReturn => true
  | .refclk100Return => true
  | .blockLock group _ => decide (group < 32)
  | .mgtLinkChange _ speed _ => decide (speed < 3)
  | .trstNChange _ => true
  | .mixEngLoadDataRead hart eng => decide (hart < 8) && decide (eng < 8)
  | .cmpCoefDataRead hart => decide (hart < 8)

end Sys2Proof
end

