-- ==== Sys2Proof/Certificates/Slice0/Obligations.lean ====
section
/-! DEFINITION. The statements for the provers, one def each; OBLIGATIONS.json gives their ids, tiers and rules. -/

open Sys2Proof Sys2Proof.Machine

/-! ## The queue and full reset -/

/-- A step with command c in front of the queue is exec of c on the state with the queue's rest. -/
def Obligations.StepRunsFront : Prop :=
  ∀ (c : Instr) (rest : List Instr) (s : State), s.pending = c :: rest → step s = exec c (s.withQueue rest)

/-- Every step answers a next state: the spec gives every access and every failure an effect on the part's state, so
no command ends in a fault or a refusal, in any state. -/
def Obligations.EveryStepGoes : Prop := ∀ s : State, Goes (step s)

/-- The queue is first in, first out: n steps take its first n commands, and no command changes the queue. -/
def Obligations.QueueIsFifo : Prop :=
  ∀ (n : Nat) (s t : State), core.run n s = .next t → t.pending = s.pending.drop n

/-- In full reset, and once halted, nothing but a pin, rail or clock of the part changes anything: any number of other
commands, CTL_RESET and the timer of FATAL_RESET_MS among them, leaves every register, memory and output as it is
(R461, R466; log 1: commands act only while the part runs). -/
def Obligations.DeadPartHolds : Prop :=
  ∀ (n : Nat) (s : State), s.live = false → (∀ c ∈ s.pending, isPin c = false) →
    core.run n s = .next (s.withQueue (s.pending.drop n))

/-- A Fatal error halts the part when the Fatal slot is full; the first one asserts FAULT_N, stops the media ports and
leaves the part running (R460, R461). -/
def Obligations.SecondFatalHalts : Prop :=
  ∀ (s : State) (inj : Bool) (subsys code inst : Nat) (info : Word),
    (bitAt (s.reg .ERR_STATUS 0).toNat 3 = true → (s.raise inj 4 subsys code inst info).rst.halted = true) ∧
    (bitAt (s.reg .ERR_STATUS 0).toNat 3 = false →
      let t := s.raise inj 4 subsys code inst info
      t.err.faultN = true ∧ t.err.mediaStopped = true ∧ t.rst = s.rst ∧ bitAt (t.reg .ERR_STATUS 0).toNat 3 = true)

/-- Every step keeps the byte memories in their one canonical form: the bytes of HBM, of the scratch, of the mailbox, of the
packet buffer and of the boot flash are listed at strictly rising offsets, and none is listed that equals what an unlisted
byte reads as; so two memories that read alike are equal data. -/
def Obligations.MemoriesCanonical : Prop :=
  ∀ s t : State, Memory.wf s = true → step s = .next t → Memory.wf t = true

/-- Full reset: every register of the part is back at its reset value, every queue, table, log and memory on die is empty, of
the memory controllers and the harts too, and fuses and boot flash are unchanged, at each of the four ways in (RESET_N, a
monitored rail, CTL_RESET, the timer of FATAL_RESET_MS) and at release (R465, R467). Full reset goes on as its pins allow
(R466): with RESET_N high, no monitored rail low and the core reference present it reaches step 4; without the reference,
and when the reference is lost, it stands before step 4. The memories have their canonical form in the state that reset
leaves. -/
def Obligations.FullReset : Prop :=
  (∀ (s : State),
     let cleared (t : State) := (∀ r i, t.reg r i = r.resetAt i) ∧ t.ctl = {} ∧ t.err = {} ∧ t.tim = {} ∧ t.iom = {} ∧
       t.srt = {} ∧ t.ing = {} ∧ t.fwd = {} ∧ t.tm = {} ∧ t.work = {} ∧ t.pea = {} ∧ t.mix = {} ∧ t.vid = {} ∧
       t.hbm = { mem := t.hbm.mem } ∧ t.hart = {} ∧ t.clock = 0 ∧
       t.sec = { fuses := s.sec.fuses, flash := s.sec.flash } ∧ t.pending = s.pending
     Does .resetNAssert s (fun t => cleared t ∧ t.rst.step = 2 ∧ t.rst.resetN = false ∧ t.live = false) ∧
     (∀ rail, rail < 3 → Does (.railUndervoltage rail) s
       fun t => cleared t ∧ t.rst.step = 2 ∧ rail ∈ t.rst.railsLow ∧ t.live = false) ∧
     (∀ v : Word, s.live = true → fld v 16 16 = 0x5253 → fld v 0 1 = 1 →
       Does (.ctlReset v) s fun t => cleared t ∧ t.rst.step < 5 ∧ t.live = false) ∧
     (∀ due, s.live = true → s.err.resetDue = some due → due ≤ s.clock →
       Does .fatalResetTimer s fun t => cleared t ∧ t.live = false) ∧
     (s.rst.step = 4 → Does .fullResetRelease s
       fun t => cleared t ∧ t.rst.step = 5 ∧ t.live = !s.rst.halted)) ∧
  (∀ (s : State), s.rst.step ≠ 5 →
     (s.rst.railsLow = [] → s.rst.refclk = true → Does .resetNRelease s
       fun t => t.rst.step = 4 ∧ t = { s with rst := t.rst }) ∧
     (s.rst.railsLow = [] → s.rst.refclk = false → Does .resetNRelease s
       fun t => t.rst.step = 3 ∧ t = { s with rst := t.rst }) ∧
     (s.rst.resetN = true → s.rst.refclk = true → Does .monitoredRailReturn s
       fun t => t.rst.step = 4 ∧ t.rst.railsLow = [] ∧ t = { s with rst := t.rst }) ∧
     (s.rst.resetN = true → s.rst.railsLow = [] → Does .refclk100Return s
       fun t => t.rst.step = 4 ∧ t.rst.refclk = true ∧ t = { s with rst := t.rst }) ∧
     (s.rst.resetN = true → s.rst.railsLow = [] → Does (.clockLoss true) s
       fun t => t.rst.step = 3 ∧ t.rst.refclk = false ∧ t = { s with rst := t.rst }) ∧
     (∀ low, Does (.trstNChange low) s fun t => t = { s with rst := { s.rst with trstLow := low } })) ∧
  (Memory.wf State.reset = true)

/-! ## Time -/

/-- One CLK_TIME cycle of a time base that no offset is being absorbed into (R381, R384; the cycle is what a step does
on an empty queue, log 1): its 48 fraction bits advance by 2^48 + RATE_ADJ, a second carries, MTIP of every hart follows
the compare (14 R405), and with no management frame waiting the queue, the memories, every register but the counters of
waiting cycles, TIM_TB_RATE and TIM_TB_STATUS, and every other part of the state stay. -/
def Obligations.IdleAdvancesTime : Prop :=
  ∀ (s : State) (t : Nat), s.live = true → s.rst.refclk = true → s.pending = [] → t < 8 → (s.tb t).rem = 0 →
    ∃ u, step s = .next u ∧ u.clock = s.clock + 1 ∧ (u.tb t).rem = 0 ∧
      (let f := (((s.tb t).f + 2 ^ 48 : Nat) + s.rateAdj t).toNat
       u.tb t = if 1000000000 * 2 ^ 48 ≤ f
         then { sec := ((s.tb t).sec + 1) % 2 ^ 48, f := f - 1000000000 * 2 ^ 48, rem := 0 }
         else { sec := (s.tb t).sec, f := f, rem := 0 }) ∧
      (∀ h, h < 8 → Tbl.at false u.hart.mtip h = decide ((s.reg .CTL_MTIMECMP h).toNat ≤ (s.clock + 1) / 10)) ∧
      (s.ctl.mgtRx = [] →
        KeepsRegs s u [.PEA_CORE_BUSY_CNT, .PEA_CORE_STALL_CNT, .PEA_POD_SUBMIT_HOLD_CNT, .PEA_POD_INJ_HOLD_CNT,
          .WD_HW_HOLD_CNT, .VENC_ENG_HOLD_CNT, .HBM_PORT_HOLD_CNT, .TIM_TB_RATE, .TIM_TB_STATUS] ∧
        u = { s with
          clock := u.clock, regs := u.regs, hart := { s.hart with mtip := u.hart.mtip }
          tim := { s.tim with tbs := u.tim.tbs, slewDone := u.tim.slewDone } })

/-- SET gives a time base its value once (R385): SET_NOW takes the SET registers and sets SET_DONE, SET_AT_PPS0 and
SET_AT_PPS1 wait with GO 1, and after SET_DONE each is refused ALREADY_SET with the time base unchanged. Slewing (R387): a
write of TIM_TB_SLEW_OFF after SET_DONE replaces the remainder by the signed offset in 2^−16 ns and SLEWING follows it;
before SET_DONE it is ignored; the end of a slew posts its notice once. Reads of a time base (R388, R389): NOW_SEC returns
the seconds and latches the value for its hart; the next NOW_NS of that hart returns the latched nanoseconds though the
time base has moved on, and without a latch a fresh value; TIM_XSNAP copies all eight. -/
def Obligations.TimeBaseCommands : Prop :=
  (∀ (s : State) (tb : Nat), s.live = true → s.isSet F.TIM_TB_CMD.GO tb = false →
     (s.isSet F.TIM_TB_STATUS.SET_DONE tb = false → s.get F.TIM_TB_SET_NS.NS tb < 1000000000 →
       Does (.setNow tb) s (fun t => t.isSet F.TIM_TB_STATUS.SET_DONE tb = true ∧ t.get F.TIM_TB_STATUS.RESULT tb = 0 ∧
         (t.tb tb).sec = s.get F.TIM_TB_SET_SEC.SEC tb ∧
         (t.tb tb).f = s.get F.TIM_TB_SET_NS.NS tb * 2 ^ 48 + s.get F.TIM_TB_SET_NS.FRAC tb * 2 ^ 32 ∧
         (∀ u, u ≠ tb → t.tb u = s.tb u) ∧ t = { s with regs := t.regs, tim := t.tim, ctl := t.ctl })) ∧
     (s.isSet F.TIM_TB_STATUS.SET_DONE tb = false → s.get F.TIM_TB_SET_NS.NS tb < 1000000000 →
       (s.ppsUsable 0 = true → Does (.setAtPps0 tb) s fun t => t.isSet F.TIM_TB_CMD.GO tb = true ∧
         t.get F.TIM_TB_CMD.OP tb = 2 ∧ t.tim = s.tim) ∧
       (s.ppsUsable 1 = true → Does (.setAtPps1 tb) s fun t => t.isSet F.TIM_TB_CMD.GO tb = true ∧
         t.get F.TIM_TB_CMD.OP tb = 3 ∧ t.tim = s.tim)) ∧
     (s.isSet F.TIM_TB_STATUS.SET_DONE tb = true → ∀ c ∈ [Instr.setNow tb, .setAtPps0 tb, .setAtPps1 tb],
       Does c s fun t => t.get F.TIM_TB_STATUS.RESULT tb = 1 ∧ t.tim = s.tim ∧
         KeepsBut s t [(.TIM_TB_CMD, tb), (.TIM_TB_STATUS, tb)])) ∧
  (∀ (s : State) (tb : Nat) (v : Word), s.live = true →
     (s.isSet F.TIM_TB_STATUS.SET_DONE tb = true → Does (.timTbSlewOffWrite tb v) s fun t =>
       (t.tb tb).rem = sext (fld v 0 48) 48 * 2 ^ 32 ∧ (t.tb tb).sec = (s.tb tb).sec ∧ (t.tb tb).f = (s.tb tb).f ∧
       t.isSet F.TIM_TB_STATUS.SLEWING tb = decide (fld v 0 48 ≠ 0) ∧ KeepsBut s t [(.TIM_TB_STATUS, tb)]) ∧
     (s.isSet F.TIM_TB_STATUS.SET_DONE tb = false → Does (.timTbSlewOffWrite tb v) s fun t => t = s) ∧
     (∀ x, Tbl.at 0 s.tim.slewDone tb = x + 1 → Does (.slewDone tb) s fun t =>
       Tbl.at 0 t.tim.slewDone tb = 0 ∧ t.regs = s.regs ∧
       (s.isSet F.TIM_TB_CFG.NOTICE_EN tb = true → (Tbl.at [] t.ctl.crossing 11).length =
         (Tbl.at [] s.ctl.crossing 11).length + 1))) ∧
  (∀ (s : State) (hart tb : Nat), s.live = true → (∀ t, (s.tb t).sec < 2 ^ 48) →
     Does (.timTbNowSecRead hart tb) s (fun t => Tbl.at 0 t.hart.resp hart = wd (s.tb tb).sec ∧ t.regs = s.regs ∧
       (∀ u : State, u.live = true → u.tim.latch = t.tim.latch →
         Does (.timTbNowNsRead hart tb) u fun x => Tbl.at 0 x.hart.resp hart = nsWord (s.tb tb).f)) ∧
     (Tbl.at none s.tim.latch (tb * 8 + hart) = none → Does (.timTbNowNsRead hart tb) s fun t =>
       Tbl.at 0 t.hart.resp hart = nsWord (s.tb tb).f ∧ t.tim = s.tim) ∧
     Does .timXsnap s (fun t => (∀ u, u < 8 → t.get F.TIM_XSNAP_SEC.SEC u = (s.tb u).sec ∧
         t.reg .TIM_XSNAP_NS u = nsWord (s.tb u).f) ∧ KeepsRegs s t [.TIM_XSNAP_SEC, .TIM_XSNAP_NS] ∧
       t = { s with regs := t.regs }))

/-- Inputs (R397, R398): an edge of the selected polarity that comes at least MIN_NS after the last accepted one is counted
and stamps the input from its time base, to 1 ns for a GPIO input, and for a PPS input to 0.25 ns at the edge itself,
which also ends LOST and gives each time base that waits for it its SET value plus the time since the edge (R385); one
that comes sooner is counted as ignored; another polarity only moves LEVEL; 2 s without an accepted edge makes an enabled
PPS input LOST. Outputs (R399): EN 1 with a period below 20 ns or a width not below it is refused with CFG_ERR and every
other field kept; an accepted EN plans the first edge at or after now; the rise and the fall come when the time base
reaches them. A hardware rate source (R382, R383): REF10M_IN outside 9,990 to 10,010 edges in a gate, or block lock lost,
loses the source: RATE_ADJ is held, SRC_LOST set and LOCKED cleared; a gate that finds it present moves RATE_ADJ by a step
of gain 2^−K. A popped transmit time-stamp entry is the oldest (R391). -/
def Obligations.TimePins : Prop :=
  (∀ (s : State) (i : Nat) (rising : Bool) (q : Nat), s.live = true → i < 18 →
     let last := Tbl.at 0 s.tim.lastEdge i
     let chosen := edgeSelected (s.get F.TIM_IN_CFG.EDGE i) rising
     let now := (s.tb (s.get F.TIM_IN_CFG.TB i)).total
     let stamped (t : State) (x : Nat) : Prop := t.reg .TIM_IN_LAST_SEC i = wd (x / 65536000000000) ∧
       t.reg .TIM_IN_LAST_NS i = wd (x % 65536000000000)
     (chosen = true → 2 ≤ i → (last = 0 ∨ s.get F.TIM_IN_CFG.MIN_NS i ≤ s.clock + 1 - last) →
       Does (.inputEdge i rising q) s fun t => t.get F.TIM_IN_EVT_CNT.CNT i = (s.get F.TIM_IN_EVT_CNT.CNT i + 1) % 2 ^ 48 ∧
         Tbl.at 0 t.tim.lastEdge i = s.clock + 1 ∧ t.get F.TIM_IN_STATUS.LEVEL i = b2n rising ∧
         stamped t (now / 65536 * 65536) ∧ t.tim.tbs = s.tim.tbs ∧ KeepsBut s t [(.TIM_IN_STATUS, i), (.TIM_IN_LAST_SEC, i), (.TIM_IN_LAST_NS, i), (.TIM_IN_EVT_CNT, i)]) ∧
     (chosen = true → i < 2 → (last = 0 ∨ s.get F.TIM_IN_CFG.MIN_NS i ≤ s.clock + 1 - last) →
       Does (.inputEdge i rising q) s fun t => t.get F.TIM_IN_EVT_CNT.CNT i = (s.get F.TIM_IN_EVT_CNT.CNT i + 1) % 2 ^ 48 ∧
         Tbl.at 0 t.tim.lastEdge i = s.clock + 1 ∧ t.get F.TIM_IN_STATUS.LEVEL i = b2n rising ∧
         t.isSet F.TIM_IN_STATUS.LOST i = false ∧
         ((∀ u, u < 8 → s.awaitsPps i u = false) → stamped t ((now - q % 4 * 2 ^ 14) / 2 ^ 14 * 2 ^ 14) ∧
           t.tim.tbs = s.tim.tbs ∧
           KeepsBut s t [(.TIM_IN_STATUS, i), (.TIM_IN_LAST_SEC, i), (.TIM_IN_LAST_NS, i), (.TIM_IN_EVT_CNT, i)]) ∧
         ∀ u, u < 8 → s.awaitsPps i u = true → s.get F.TIM_TB_SET_SEC.SEC u + 1 < 2 ^ 48 →
           t.isSet F.TIM_TB_STATUS.SET_DONE u = true ∧ t.isSet F.TIM_TB_CMD.GO u = false ∧
           (t.tb u).sec * (1000000000 * 2 ^ 48) + (t.tb u).f = s.get F.TIM_TB_SET_SEC.SEC u * (1000000000 * 2 ^ 48) +
             s.get F.TIM_TB_SET_NS.NS u * 2 ^ 48 + s.get F.TIM_TB_SET_NS.FRAC u * 2 ^ 32 + q % 4 * 2 ^ 46) ∧
     (chosen = true → last ≠ 0 → s.clock + 1 - last < s.get F.TIM_IN_CFG.MIN_NS i →
       Does (.inputEdge i rising q) s fun t => t.get F.TIM_IN_IGN_CNT.CNT i = (s.get F.TIM_IN_IGN_CNT.CNT i + 1) % 2 ^ 48 ∧
         t.tim = s.tim ∧ t.ctl = s.ctl ∧ KeepsBut s t [(.TIM_IN_STATUS, i), (.TIM_IN_IGN_CNT, i)]) ∧
     (chosen = false → Does (.inputEdge i rising q) s fun t => t.get F.TIM_IN_STATUS.LEVEL i = b2n rising ∧
       t = { s with regs := t.regs } ∧ KeepsBut s t [(.TIM_IN_STATUS, i)]) ∧
     (i < 2 → s.ppsUsable i = true → max (last - 1) (Tbl.at 0 s.tim.since i) + 2000000000 ≤ s.clock →
       Does (.ppsLost i) s fun t => t.isSet F.TIM_IN_STATUS.LOST i = true ∧
         ∀ u, u < 8 → s.awaitsPps i u = true → t.isSet F.TIM_TB_CMD.GO u = false ∧ t.get F.TIM_TB_STATUS.RESULT u = 2)) ∧
  (∀ (s : State) (o : Nat) (v : Word), s.live = true → o < 3 →
     (s.isSet F.TIM_OUT_CFG.EN o = false → fld v 0 1 = 1 →
       (s.outPeriod o < 20 * 65536 ∨ s.outPeriod o ≤ fld v 4 28 * 65536) → Does (.timOutCfgWrite o v) s fun t =>
         t.isSet F.TIM_OUT_CFG.CFG_ERR o = true ∧ t.isSet F.TIM_OUT_CFG.EN o = false ∧
         t.get F.TIM_OUT_CFG.TB o = s.get F.TIM_OUT_CFG.TB o ∧
         t.get F.TIM_OUT_CFG.WIDTH_NS o = s.get F.TIM_OUT_CFG.WIDTH_NS o ∧ t = { s with regs := t.regs }) ∧
     (s.isSet F.TIM_OUT_CFG.EN o = false → fld v 0 1 = 1 → 20 * 65536 ≤ s.outPeriod o →
       fld v 4 28 * 65536 < s.outPeriod o → Does (.timOutCfgWrite o v) s fun t =>
         t.isSet F.TIM_OUT_CFG.CFG_ERR o = false ∧ t.isSet F.TIM_OUT_CFG.EN o = true ∧
         t.get F.TIM_OUT_CFG.TB o = fld v 1 3 ∧ t.get F.TIM_OUT_CFG.WIDTH_NS o = fld v 4 28 ∧
         t.outNow o ≤ Tbl.at 0 t.tim.nextRise o) ∧
     (s.isSet F.TIM_OUT_CFG.EN o = true → Tbl.at 0 s.tim.nextRise o ≤ s.outNow o → Does (.outputRise o) s fun t =>
         Tbl.at false t.tim.high o = true ∧
         Tbl.at 0 t.tim.fallAt o = Tbl.at 0 s.tim.nextRise o + s.get F.TIM_OUT_CFG.WIDTH_NS o * 65536 ∧
         Tbl.at 0 t.tim.nextRise o = Tbl.at 0 s.tim.nextRise o + s.outPeriod o ∧ t = { s with tim := t.tim }) ∧
     (Tbl.at false s.tim.high o = true → Tbl.at 0 s.tim.fallAt o ≤ s.outNow o → Does (.outputFall o) s fun t =>
         Tbl.at false t.tim.high o = false ∧ t = { s with tim := t.tim })) ∧
  (∀ (s : State) (tb : Nat) (measured : Int), s.live = true → tb < 8 →
     (∀ edges, s.get F.TIM_TB_CFG.SRC tb = 1 → (edges < 9990 ∨ 10010 < edges) →
       Does (.rateLockUpdate tb edges measured) s fun t => t.isSet F.TIM_TB_STATUS.SRC_LOST tb = true ∧
         t.isSet F.TIM_TB_STATUS.LOCKED tb = false ∧ t.rateAdj tb = s.rateAdj tb) ∧
     (∀ edges, s.get F.TIM_TB_CFG.SRC tb = 1 → 9990 ≤ edges → edges ≤ 10010 →
       s.isSet F.TIM_TB_STATUS.SRC_LOST tb = false → Does (.rateLockUpdate tb edges measured) s fun t =>
         t.get F.TIM_TB_RATE.RATE_ADJ tb =
           wrapInt (s.rateAdj tb + lockStep (measured - s.rateAdj tb) (s.get F.TIM_TB_CFG.K tb)) 40 ∧
         t.ctl = s.ctl ∧ t.tim.tbs = s.tim.tbs ∧ KeepsBut s t [(.TIM_TB_RATE, tb), (.TIM_TB_STATUS, tb)]) ∧
     (∀ g, s.get F.TIM_TB_CFG.SRC tb = 2 → s.get F.TIM_TB_CFG.GRP tb = g → Does (.blockLock g false) s fun t =>
         t.locked g = false ∧ t.isSet F.TIM_TB_STATUS.SRC_LOST tb = true ∧ t.isSet F.TIM_TB_STATUS.LOCKED tb = false) ∧
     (∀ g, Does (.blockLock g true) s fun t => t.locked g = true ∧ t.regs = s.regs ∧ t.ctl = s.ctl) ∧
     (∀ port, Does (.timTxqPop port 1) s fun t => Tbl.at [] t.tim.txq port = (Tbl.at [] s.tim.txq port).tail ∧
         t.regs = s.regs ∧ ∀ p, p ≠ port → Tbl.at [] t.tim.txq p = Tbl.at [] s.tim.txq p))

/-! ## Accesses of harts -/

/-- A write of a register under the access codes (R7, R8, R9): each RW bit takes the value, each W1C bit written 1 clears,
every other bit and every other register stays. A read of a register with an RC field returns its value and clears the
field (R8): 14 R402's answer is the hart's response, no other register changes. -/
def Obligations.RegisterCodes : Prop :=
  (∀ (s : State) (hart a i : Nat) (priv : Priv) (r : Reg) (v : Word), s.live = true → s.free = true → r ∈ plainRegs →
     regAt a = some (r, i) → a % 8 = 0 → 0x20000000 ≤ a → a < 0x30000000 → s.answers a = true → (keptPage a = true → priv = .m) →
     Does (.registerWrite hart priv a 8 v) s fun t =>
       (∀ b, b < 64 → (t.reg r i).getLsbD b =
         if (wd r.row.rw).getLsbD b then v.getLsbD b
         else if (wd r.row.w1c).getLsbD b && v.getLsbD b then false
         else (s.reg r i).getLsbD b) ∧ Only s t [(r, i)]) ∧
  (∀ (s : State) (hart a i : Nat) (priv : Priv) (r : Reg), s.live = true → s.free = true → r ∈ clearingRegs →
     regAt a = some (r, i) → a % 8 = 0 → 0x20000000 ≤ a → a < 0x30000000 → s.answers a = true →
     Does (.rcRegisterRead hart priv a 8) s fun t =>
       Tbl.at 0 t.hart.resp hart = s.reg r i ∧
       (∀ b, b < 64 → (t.reg r i).getLsbD b = ((s.reg r i).getLsbD b && !(wd r.row.rc).getLsbD b)) ∧
       KeepsBut s t [(r, i)] ∧ t = { s with regs := t.regs, hart := { s.hart with resp := t.hart.resp } })

/-- An access that the physical address map does not allow ends with an error response (R5, R23, R25, R402, R403): the hart
takes cause 1, 5 or 7 by the kind of the access, mtval is the address, and nothing else changes; so for a read and a write
of the wrong width in a register window, for a write of the boot ROM or of the packet buffer window, for a hole of the
map, for a misaligned packet buffer read, outside M mode for the pages of the CTL_ window that firmware keeps for M mode,
and for a fetch, load or AMO of a line that holds an uncorrectable error (R362, R404). A misaligned AMO to a cacheable
range takes cause 6 (R401). The packet buffer window (R24): an aligned load returns the current bytes of the cell, lowest
first, and changes nothing else. -/
def Obligations.AccessesAnswered : Prop :=
  (∀ (s : State) (hart a width : Nat), s.live = true → s.free = true →
     let takes (cause : Nat) (t : State) := Tbl.at 0 t.hart.cause hart = cause ∧ Tbl.at 0 t.hart.mtval hart = wd a ∧
       (∀ h, h ≠ hart → Tbl.at 0 t.hart.cause h = Tbl.at 0 s.hart.cause h ∧
         Tbl.at 0 t.hart.mtval h = Tbl.at 0 s.hart.mtval h) ∧
       t = { s with hart := { s.hart with cause := t.hart.cause, mtval := t.hart.mtval } }
     (∀ kind, s.refusesAccess kind a width = true → Does (.errorResponseAccess hart kind a width) s
       (takes (match kind with | .fetch => 1 | .load => 5 | .store => 7 | .amo => 7))) ∧
     (s.refusesAccess .amo a width = false → a % width ≠ 0 → Does (.errorResponseAccess hart .amo a width) s (takes 6)) ∧
     (∀ kind, kind ≠ .store → s.refusesAccess kind a width = false → a % width = 0 → width ∈ [1, 2, 4, 8] →
       s.zoneAt a width = some .hbm → a / 64 ∈ s.ctl.poisoned → Does (.errorResponseAccess hart kind a width) s
       (takes (match kind with | .fetch => 1 | .load => 5 | .store => 7 | .amo => 7))) ∧
     (∀ priv v, (0x20000000 ≤ a ∧ a < 0x31000000 ∧ width ≠ 8) ∨ a < 0x40000 ∨ (0x40000 ≤ a ∧ a < 0x01000000) ∨
         (0x4000000000 ≤ a ∧ a < 0x4006000000) ∨ (keptPage a = true ∧ priv ≠ .m) → 0 < width →
       Does (.registerWrite hart priv a width v) s (takes 7)) ∧
     (∀ priv, (0x20000000 ≤ a ∧ a < 0x31000000 ∧ width ≠ 8) ∨ (0x40000 ≤ a ∧ a < 0x01000000) ∨
         (keptPage a = true ∧ priv ≠ .m) → 0 < width →
       Does (.rcRegisterRead hart priv a width) s (takes 5)) ∧
     (0x4000000000 ≤ a → a < 0x4006000000 → a % width ≠ 0 → 0 < width →
       Does (.packetBufferDebugRead hart a width) s (takes 5))) ∧
  (∀ (s : State) (hart off width : Nat), s.live = true → width ∈ [1, 2, 4, 8] → off % width = 0 → off + width ≤ 0x6000000 →
     Does (.packetBufferDebugRead hart (0x4000000000 + off) width) s fun t =>
       t = { s with hart := { s.hart with resp := t.hart.resp } } ∧
       ∀ i, i < width → fld (Tbl.at 0 t.hart.resp hart) (8 * i) 8 = (Tbl.at 0 s.tm.buf (off + i)).toNat)

/-- A hart's store to the scratch range and its next load of the same bytes (the map of R22; log 54: the table has no row
for a plain access of memory, so the model's register write and read perform it): the load returns what was stored, and
every other byte of the range keeps its value. -/
def Obligations.ScratchStoreLoad : Prop :=
  ∀ (s : State) (hart off width : Nat) (priv : Priv) (v : Word), s.live = true → s.free = true → width ∈ [1, 2, 4, 8] →
    off + width ≤ 0x100000 → (∀ l ∈ s.ctl.poisoned, l * 64 + 64 ≤ 0x08000000 ∨ 0x08100000 ≤ l * 64) →
    Does (.registerWrite hart priv (0x08000000 + off) width v) s fun t =>
      (∀ o, o < off ∨ off + width ≤ o → Tbl.at 0 t.ctl.scratch o = Tbl.at 0 s.ctl.scratch o) ∧
      t = { s with ctl := { s.ctl with scratch := t.ctl.scratch } } ∧
      Does (.rcRegisterRead hart priv (0x08000000 + off) width) t fun u =>
        Tbl.at 0 u.hart.resp hart = wd (v.toNat % 2 ^ (8 * width)) ∧ u.ctl = t.ctl

/-! ## Ports and ingress -/

/-- Lane groups and ports (R33, R34): an accepted write of PRT_GRP_CFG takes rate and width of a listed pair; with a lane
enabled, or for another pair, it sets CFG_ERR and the group is unchanged. PRT_PORT_CFG stores MAX_LEN at the nearer bound
of 1,518 and 9,216. Clearing TX_EN releases every frame that the port's queues hold and leaves other ports' queues as they
were (R150). -/
def Obligations.PortSetup : Prop :=
  (∀ (s : State) (v : Word), s.live = true →
     let listed := (fld v 4 2, fld v 0 3) ∈ [(0, 0), (1, 0), (1, 2), (2, 0), (2, 1), (2, 2), (2, 3)]
     let idle (g : Nat) := ∀ l, l < 8 →
       s.isSet F.PRT_PORT_CFG.RX_EN (8 * g + l) = false ∧ s.isSet F.PRT_PORT_CFG.TX_EN (8 * g + l) = false
     (∀ g, g < 32 →
       (idle g → listed → Does (.prtGrpCfgWrite g v) s fun t => t.get F.PRT_GRP_CFG.LANE_RATE g = fld v 4 2 ∧
         t.get F.PRT_GRP_CFG.WIDTH g = fld v 0 3 ∧ t.isSet F.PRT_GRP_CFG.CFG_ERR g = false ∧
         Only s t [(.PRT_GRP_CFG, g)]) ∧
       (¬(idle g ∧ listed) → Does (.prtGrpCfgWrite g v) s fun t => t.isSet F.PRT_GRP_CFG.CFG_ERR g = true ∧
         t.get F.PRT_GRP_CFG.LANE_RATE g = s.get F.PRT_GRP_CFG.LANE_RATE g ∧
         t.get F.PRT_GRP_CFG.WIDTH g = s.get F.PRT_GRP_CFG.WIDTH g ∧ Only s t [(.PRT_GRP_CFG, g)])) ∧
     (∀ p, s.isPort p = true → s.isSet F.PRT_PORT_CFG.TX_EN p = false ∨ fld v 1 1 = 1 →
       Does (.prtPortCfgWrite p v) s fun t =>
         t.get F.PRT_PORT_CFG.MAX_LEN p =
           (if fld v 6 14 < 1518 then 1518 else if 9216 < fld v 6 14 then 9216 else fld v 6 14) ∧
         t.get F.PRT_PORT_CFG.RX_EN p = fld v 0 1 ∧ t.get F.PRT_PORT_CFG.TX_EN p = fld v 1 1 ∧
         t.get F.PRT_PORT_CFG.TB p = fld v 2 3 ∧ Only s t [(.PRT_PORT_CFG, p)])) ∧
  (∀ (s : State) (p : Nat) (v : Word), s.live = true → s.isPort p = true → s.isSet F.PRT_PORT_CFG.TX_EN p = true →
     fld v 1 1 = 0 → Does (.prtPortCfgWrite p v) s fun t =>
       (∀ q, q < 8 → t.queue p q = []) ∧ (∀ k, k < p * 8 ∨ p * 8 + 8 ≤ k → Tbl.at [] t.tm.queues k = Tbl.at [] s.tm.queues k) ∧
       t.isSet F.PRT_PORT_CFG.TX_EN p = false ∧ t.tm.tx = s.tm.tx ∧ t.ing = s.ing ∧ t.fwd = s.fwd)

/-- The receive MAC (R34, R36, R38): runts, oversize frames, frames with a bad FCS and control frames are counted and
dropped; every other frame is counted with its octets and enters its group's FIFO with its time stamp, or is counted as an
overflow where the FIFO is full; a port with RX_EN 0 discards frames uncounted. -/
def Obligations.FrameArrives : Prop :=
  ∀ (s : State) (p : Nat) (bytes : List Byte), s.live = true → s.err.mediaStopped = false → s.isPort p = true →
    let len := bytes.length
    let counted (c : RFld) (t : State) := t.get c p = (s.get c p + 1) % 2 ^ c.len ∧ Only s t [(c.reg, p)]
    let max := s.get F.PRT_PORT_CFG.MAX_LEN p
    let control := beAt bytes 12 2 = 0x8808
    let used := ((s.fifo (p / 8)).map fun f => f.bytes.length).sum
    (s.isSet F.PRT_PORT_CFG.RX_EN p = false → ∀ fcs, Does (.frameArrival p bytes fcs) s fun t => t = s) ∧
    (s.isSet F.PRT_PORT_CFG.RX_EN p = true →
      (len < 64 → ∀ fcs, Does (.frameArrival p bytes fcs) s (counted F.PRT_RX_RUNT_CNT.CNT)) ∧
      (64 ≤ len → max < len → ∀ fcs, Does (.frameArrival p bytes fcs) s (counted F.PRT_RX_OVERSIZE_CNT.CNT)) ∧
      (64 ≤ len → len ≤ max → Does (.frameArrival p bytes .badEarly) s (counted F.PRT_RX_FCS_CNT.CNT)) ∧
      (64 ≤ len → len ≤ max → control →
        Does (.frameArrival p bytes .good) s (counted F.PRT_RX_PAUSE_CNT.CNT)) ∧
      (64 ≤ len → len ≤ max → ¬control → used + len ≤ 32768 → Does (.frameArrival p bytes .good) s fun t =>
        t.fifo (p / 8) = s.fifo (p / 8) ++ [⟨p, bytes, .good, s.rxStamp p⟩] ∧
        (∀ g, g ≠ p / 8 → t.fifo g = s.fifo g) ∧
        t.get F.PRT_RX_FRM_CNT.CNT p = (s.get F.PRT_RX_FRM_CNT.CNT p + 1) % 2 ^ 64 ∧
        t.get F.PRT_RX_OCT_CNT.CNT p = (s.get F.PRT_RX_OCT_CNT.CNT p + len) % 2 ^ 64 ∧
        KeepsBut s t [(.PRT_RX_FRM_CNT, p), (.PRT_RX_OCT_CNT, p)] ∧
        t = { s with regs := t.regs, ing := { s.ing with fifo := t.ing.fifo } }) ∧
      (64 ≤ len → len ≤ max → ¬control → 32768 < used + len → Does (.frameArrival p bytes .good) s fun t =>
        t.get F.PRT_GRP_RX_OVF_CNT.CNT (p / 8) = (s.get F.PRT_GRP_RX_OVF_CNT.CNT (p / 8) + 1) % 2 ^ 48 ∧
        KeepsBut s t [(.PRT_RX_FRM_CNT, p), (.PRT_RX_OCT_CNT, p), (.PRT_GRP_RX_OVF_CNT, p / 8)] ∧
        t = { s with regs := t.regs }))

/-- A slot of an ingress pipeline (01 R18, 02 R40, R44, R55, R56): it takes the head frame of the next group in turn; a
malformed frame is a parse drop; a frame that matches no context counts a miss and, with MISS_ACT 0, is dropped; a matched
frame that exceeds the policer counts MATCHED, its octets and DROPPED in the context's statistics. An RTP frame that is
accepted becomes a stored packet: its cells are taken (05 R152), its sequence number and timestamp are extended (R53), and
its tag names the context, its generation, conference and drop-class, the port, and the level (R51, R58); under SUITE 0
its bytes are the frame's (03 R67). A frame that leaves the parse graph is delivered to the ring that the map names: the
ring's head goes past the buffers it fills and one item says so, or the ring has no buffer and counts it (R60 to R62). An
injected packet is taken in its turn, unpoliced, with the fields its request gives (R54). An idle slot changes no more
than the count of slots since the last injected packet. The policer's scrub (R57): it visits every context in turn, and
refills one that is installed and policed to no more than its burst. -/
def Obligations.PipelineTakes : Prop :=
  (∀ (s : State) (pipe g i : Nat) (rx : RxFrame) (rest : List RxFrame), s.live = true → s.free = true → pipe < 8 →
     let noInj := Tbl.at [] s.ing.injq pipe = []
     let fb := rx.bytes.take (rx.bytes.length - 4)
     let took (t : State) := t.fifo (4 * pipe + g) = rest ∧ (∀ h, h ≠ 4 * pipe + g → t.fifo h = s.fifo h) ∧
       Tbl.at 3 t.ing.lastGrp pipe = g
     let extended (t : State) (p : Pkt) (seq ts : Nat) : Prop := p.extSeq = s.seqExt i seq ∧ p.extTs = s.tsExt i ts ∧
       t.ctx i Ctx.INIT = 1 ∧ (s.ctx i Ctx.INIT = 0 → t.ctx i Ctx.HI_SEQ = p.extSeq ∧ t.ctx i Ctx.HI_TS = p.extTs)
     let tagged (p : Pkt) (inj : Bool) (port len : Nat) : Prop := p.get Tag.SCID = i ∧ p.get Tag.CFID = s.ctx i Ctx.CFID ∧
       p.get Tag.GEN = s.ctx i Ctx.GEN ∧ p.get Tag.DCLASS = s.ctx i Ctx.DCLASS ∧ p.get Tag.INJ = b2n inj ∧
       p.get Tag.RTCP = 0 ∧ p.get Tag.AUTH_FAIL = 0 ∧ p.get Tag.PORT = port ∧ p.get Tag.LEN = len ∧
       p.holds = 1 ∧ p.decided = false ∧ p.fcsOpen = false ∧ p.authOpen = !inj ∧ p.cells.length = ceilDiv len 256
     (noInj → s.nextGroup pipe = none → Does (.pipelineSlot pipe) s fun t =>
       t = { s with ing := { s.ing with since := t.ing.since } }) ∧
     (∀ j injs, Tbl.at [] s.ing.injq pipe = j :: injs → (s.nextGroup pipe = none ∨ 7 ≤ s.slotsSince pipe) → j.scid = i →
       i < 2 ^ 20 → s.inst i = true → s.poisoned 0 i = false → j.rtp.length ≤ 9000 →
       s.hasRoom (s.ctx i Ctx.DCLASS) (ceilDiv (j.rtp.length + 46) 256) → Does (.pipelineSlot pipe) s fun t =>
         Tbl.at [] t.ing.injq pipe = injs ∧ t.ing.fifo = s.ing.fifo ∧ t.ing.stats = s.ing.stats ∧
         t.slotsSince pipe = 0 ∧ t.occ = s.occ + ceilDiv (j.rtp.length + 46) 256 ∧ KeepsRegs s t [.TM_BUF_PEAK] ∧
         ∃ p, t.pkt s.tm.nextPkt = some p ∧ tagged p true 0 (j.rtp.length + 46) ∧
           extended t p (beAt j.rtp 2 2) (beAt j.rtp 4 4) ∧
           p.get Tag.LAYER_VALID = fld j.word 19 1 ∧ p.get Tag.SL = fld j.word 17 2 ∧ p.get Tag.TL = fld j.word 14 3 ∧
           p.get Tag.SWP = fld j.word 13 1 ∧ p.get Tag.LVL_VALID = fld j.word 12 1 ∧ p.get Tag.VAD = fld j.word 11 1 ∧
           p.get Tag.LEVEL = fld j.word 4 7 ∧ (t.pktBytes p).drop 42 = j.rtp) ∧
     (noInj → s.nextGroup pipe = some g → s.fifo (4 * pipe + g) = rx :: rest → rx.fcs = .good →
       (parseFrame fb = .malformed → Does (.pipelineSlot pipe) s fun t => took t ∧
         t.get F.ING_PORT_PARSE_DROP_CNT.CNT rx.port = (s.get F.ING_PORT_PARSE_DROP_CNT.CNT rx.port + 1) % 2 ^ 48 ∧
         KeepsBut s t [(.ING_PORT_PARSE_DROP_CNT, rx.port)] ∧ t.tm = s.tm) ∧
       (∀ r, parseFrame fb = .reason r → Ready s →
         let n := s.get F.ING_RING_MAP.RING r
         let c := s.rxRing (.media n)
         let head := c.head % c.size
         s.hasRoom (s.get F.ING_PORT_CFG.DCLASS_DEF rx.port) (ceilDiv rx.bytes.length 256) →
         (∀ w ∈ s.ing.ringWait, w.port ≠ rx.port ∨ w.ring ≠ n) →
         (c.en = false ∨ head = c.tail % c.size → Does (.pipelineSlot pipe) s fun t => took t ∧ t.occ = s.occ ∧
           t.get F.ING_RING_NOBUF_CNT.CNT n = (s.get F.ING_RING_NOBUF_CNT.CNT n + 1) % 2 ^ 48 ∧
           KeepsBut s t [(.ING_RING_NOBUF_CNT, n), (.TM_BUF_PEAK, 0)]) ∧
         (c.en = true → head ≠ c.tail % c.size → 0 < c.bufsz → Does (.pipelineSlot pipe) s fun t => took t ∧ t.occ = s.occ ∧
           ∃ k d, k ≤ ceilDiv fb.length c.bufsz ∧ (d = false → k = ceilDiv fb.length c.bufsz) ∧
             t.get F.ING_RING_HEAD.HEAD n = (head + k) % c.size ∧
             Tbl.at [] t.ctl.crossing 1 = Tbl.at [] (s.post1 1 (s.get F.ING_RING_CFG.EVQ n) 0 n (b2n d)
               (head % 65536 * 2 ^ 48 + k % 65536 * 2 ^ 32)).ctl.crossing 1)) ∧
       (∀ u, parseFrame fb = .media false u → s.findKey (keyOf fb false u) = some i → i < 2 ^ 20 →
         s.poisoned 0 i = false → s.poisoned 1 i = false → s.ctx i Ctx.POL_EN = 0 → s.sin i SIn.NEXT_VALID = 0 →
         s.key (s.sin i SIn.KSID) Key.SUITE = 0 → rx.port < 256 → u.off + u.len ≤ fb.length → rx.bytes.length ≤ 9216 →
         s.hasRoom (s.ctx i Ctx.DCLASS) (ceilDiv (u.off + u.len + 4) 256) → Does (.pipelineSlot pipe) s fun t => took t ∧
           recGet t.ing.stats i Ctx.MATCHED = (recGet s.ing.stats i Ctx.MATCHED + 1) % 2 ^ 48 ∧
           recGet t.ing.stats i Ctx.OCTETS = (recGet s.ing.stats i Ctx.OCTETS + rx.bytes.length) % 2 ^ 64 ∧
           t.occ = s.occ + ceilDiv (u.off + u.len + 4) 256 ∧
           KeepsRegs s t [.TM_BUF_PEAK, .SRT_IN_PKT_CNT, .SRT_IN_NOKEY_CNT, .SRT_IN_EXPIRED_CNT] ∧
           ∃ p, t.pkt s.tm.nextPkt = some p ∧ tagged p false rx.port (u.off + u.len + 4) ∧
             extended t p (beAt fb (u.off + 2) 2) (beAt fb (u.off + 4) 4) ∧ t.pktBytes p = fb.take (u.off + u.len) ∧
             p.get Tag.MARKER = byteAt fb (u.off + 1) / 128 ∧ p.get Tag.PT = byteAt fb (u.off + 1) % 128 ∧
             match levelOf (fb.take (u.off + u.len)) u.off (s.ctx i Ctx.LEVEL_ID) with
             | some (level, vad) => p.get Tag.LVL_VALID = 1 ∧ p.get Tag.LEVEL = level ∧ p.get Tag.VAD = vad
             | none => p.get Tag.LVL_VALID = 0 ∧ p.get Tag.LEVEL = 127) ∧
       (∀ rtcp u, parseFrame fb = .media rtcp u →
         (s.findKey (keyOf fb rtcp u) = none → s.isSet F.ING_PORT_CFG.MISS_ACT rx.port = false →
           Does (.pipelineSlot pipe) s fun t => took t ∧
             t.get F.ING_PORT_MISS_CNT.CNT rx.port = (s.get F.ING_PORT_MISS_CNT.CNT rx.port + 1) % 2 ^ 48 ∧
             KeepsBut s t [(.ING_PORT_MISS_CNT, rx.port)] ∧ t.tm = s.tm) ∧
         (s.findKey (keyOf fb rtcp u) = some i → s.poisoned 0 i = false → s.ctx i Ctx.POL_EN = 1 →
           (s.polRefill i).ctx i Ctx.TOKENS < s.polCharge i rx.bytes.length →
           Does (.pipelineSlot pipe) s fun t => took t ∧
             recGet t.ing.stats i Ctx.MATCHED = (recGet s.ing.stats i Ctx.MATCHED + 1) % 2 ^ 48 ∧
             recGet t.ing.stats i Ctx.OCTETS = (recGet s.ing.stats i Ctx.OCTETS + rx.bytes.length) % 2 ^ 64 ∧
             recGet t.ing.stats i Ctx.DROPPED = (recGet s.ing.stats i Ctx.DROPPED + 1) % 2 ^ 48 ∧
             t.ctx i Ctx.T_LAST = s.fwd32 ∧ t.regs = s.regs ∧ t.tm = s.tm)))) ∧
  (∀ (s : State), s.live = true → Does .policerScrub s fun t =>
     t.ing.scrub = (s.ing.scrub + 1) % 2 ^ 20 ∧ t.regs = s.regs ∧ t.ing.keys = s.ing.keys ∧ t.ing.stats = s.ing.stats ∧
     (∀ i, i ≠ s.ing.scrub → recWords t.ing.recs 8 i = recWords s.ing.recs 8 i) ∧
     (s.inst s.ing.scrub = true → s.ctx s.ing.scrub Ctx.POL_EN = 1 →
       t.ctx s.ing.scrub Ctx.T_LAST = s.fwd32 ∧
       t.ctx s.ing.scrub Ctx.TOKENS = min (s.ctx s.ing.scrub Ctx.POL_BURST * 2 ^ 32)
         (s.ctx s.ing.scrub Ctx.TOKENS + s.ctx s.ing.scrub Ctx.POL_RATE *
           ((s.fwd32 + 2 ^ 32 - s.ctx s.ing.scrub Ctx.T_LAST) % 2 ^ 32))))

/-- Context commands (R46, R47, R49): INSTALL of a free SCID under a key that no context holds raises GEN, clears INIT, sets
the key, the statistics to zero and RESULT 0; one that is installed, a key in use and a malformed key are refused with
their codes and change nothing but the result; REMOVE and UPDATE act on an installed context alone; no other context
changes. READ and READ_STATS of an installed context (R47): the key and the record, or the statistics, in the data
registers, RESULT 0, and nothing else changes. -/
def Obligations.ContextCommands : Prop :=
  (∀ (s : State) (i : Nat), s.live = true → i < 2 ^ 20 →
     let d (n : Nat) := s.reg .ING_CTX_DATA n
     let k := (List.range 6).map d
     let others (t : State) := ∀ j, j ≠ i → t.inst j = s.inst j ∧ recWords t.ing.keys 6 j = recWords s.ing.keys 6 j ∧
       recWords t.ing.recs 8 j = recWords s.ing.recs 8 j ∧ recWords t.ing.stats 3 j = recWords s.ing.stats 3 j
     let frame (t : State) := KeepsBut s t [(.ING_CTX_CMD, 0), (.ING_CTX_STATUS, 0)]
     let refused (r : Nat) (t : State) := t.get F.ING_CTX_STATUS.RESULT 0 = r ∧
       Only s t [(.ING_CTX_CMD, 0), (.ING_CTX_STATUS, 0)]
     (badKey k = false → s.inst i = false → s.findKey k = none → s.screenFull i (d 6) = false →
       Does (.install i) s fun t => t.get F.ING_CTX_STATUS.RESULT 0 = 0 ∧ t.inst i = true ∧
         recWords t.ing.keys 6 i = k ∧ t.ctx i Ctx.GEN = (s.ctx i Ctx.GEN + 1) % 256 ∧ t.ctx i Ctx.INIT = 0 ∧
         t.ctx i Ctx.CFID = fld (d 6) 0 14 ∧ t.ctx i Ctx.LAYER_MODE = fld (d 6) 18 3 ∧
         t.ctx i Ctx.TOKENS = fld (d 7) 32 20 * 2 ^ 32 ∧ recWords t.ing.stats 3 i = [0, 0, 0] ∧ others t ∧ frame t) ∧
     (badKey k = true → Does (.install i) s (refused 5)) ∧
     (badKey k = false → s.inst i = true → Does (.install i) s (refused 1)) ∧
     (badKey k = false → s.inst i = false → ∀ j, s.findKey k = some j → j < 2 ^ 20 → Does (.install i) s fun t =>
       refused 3 t ∧ t.get F.ING_CTX_STATUS.DUP_SCID 0 = j) ∧
     (s.inst i = true → Does (.remove i) s fun t => t.get F.ING_CTX_STATUS.RESULT 0 = 0 ∧ t.inst i = false ∧
       others t ∧ frame t ∧ t.ing.recs = s.ing.recs) ∧
     (s.inst i = true → s.screenFull i (d 6) = false → Does (.update i) s fun t =>
       t.get F.ING_CTX_STATUS.RESULT 0 = 0 ∧ t.ctx i Ctx.GEN = s.ctx i Ctx.GEN ∧ t.ctx i Ctx.INIT = s.ctx i Ctx.INIT ∧
       t.ctx i Ctx.CFID = fld (d 6) 0 14 ∧ t.ctx i Ctx.HI_SEQ = s.ctx i Ctx.HI_SEQ ∧
       t.ctx i Ctx.TOKENS = min (s.ctx i Ctx.TOKENS) (fld (d 7) 32 20 * 2 ^ 32) ∧ others t ∧ frame t) ∧
     (s.inst i = false → ∀ c ∈ [Instr.remove i, .update i, .read i, .readStats i], Does c s (refused 2))) ∧
  (∀ (s : State) (i : Nat), s.live = true → i < 2 ^ 20 → s.inst i = true →
     let frame (t : State) := t = { s with regs := t.regs } ∧ KeepsRegs s t [.ING_CTX_CMD, .ING_CTX_STATUS, .ING_CTX_DATA] ∧
       t.get F.ING_CTX_STATUS.RESULT 0 = 0
     (s.poisoned 0 i = false → Does (.read i) s fun t => frame t ∧
       (∀ n, n < 6 → t.reg .ING_CTX_DATA n = recWord s.ing.keys 6 i n) ∧
       ∀ n, n < 8 → t.reg .ING_CTX_DATA (6 + n) = recWord s.ing.recs 8 i n) ∧
     Does (.readStats i) s (fun t => frame t ∧ ∀ n, n < 3 → t.reg .ING_CTX_DATA n = recWord s.ing.stats 3 i n))

/-- A packet that fails its frame check or its authentication, that found no free cell for its last bytes, or whose record
of ingress SRTP is poisoned by its verdict, ends (R37, R84, 05 R154, 16 R453): it is counted, no copy of it waits in a
queue or is in transmission, no cart of it waits. -/
def Obligations.FailedPacketEnds : Prop :=
  ∀ (s : State) (id : Nat) (p : Pkt), s.live = true → s.free = true → s.ing.ringWait = [] → s.pkt id = some p →
    p.dead = false →
    let ended (t : State) := (∀ port q, ∀ f ∈ t.queue port q, f.pkt ≠ some id) ∧
      (∀ port x, t.sending port = some x → x.frame.pkt ≠ some id) ∧
      (∀ pipe, ∀ c ∈ t.workQueue pipe, c.pkt ≠ id)
    let i := p.get Tag.SCID
    (p.fcsOpen = true → Does (.frameFcsFail id) s fun t => ended t ∧
      t.get F.PRT_RX_FCS_CNT.CNT (p.get Tag.PORT) = (s.get F.PRT_RX_FCS_CNT.CNT (p.get Tag.PORT) + 1) % 2 ^ 48) ∧
    (p.authOpen = true → p.short = true → Does (.authVerdict id) s fun t => ended t ∧
      t.get F.TM_BUF_EXH_CNT.CNT 0 = (s.get F.TM_BUF_EXH_CNT.CNT 0 + 1) % 2 ^ 48) ∧
    (p.authOpen = true → p.short = false → s.poisoned 1 i = true → Does (.authVerdict id) s fun t => ended t ∧
      t.get F.FWD_STALE_CNT.CNT (p.get Tag.PIPE) = (s.get F.FWD_STALE_CNT.CNT (p.get Tag.PIPE) + 1) % 2 ^ 48) ∧
    (p.authOpen = true → p.short = false → s.poisoned 1 i = false → p.srtp.verdict = 1 → p.srtp.suite ≠ 0 →
      p.srtp.replay = false → s.isReplay i p.srtp.replayOn p.srtp.index = false → s.staleGen p = false →
      Does (.authVerdict id) s fun t => ended t ∧
        t.get F.SRT_IN_AUTH_FAIL_CNT.CNT p.srtp.engine = (s.get F.SRT_IN_AUTH_FAIL_CNT.CNT p.srtp.engine + 1) % 2 ^ 48 ∧
        t.sin i SIn.FAIL_CNT = (s.sin i SIn.FAIL_CNT + 1) % 2 ^ 48)

/-- A packet that authenticates (R82): AUTH_IDX becomes the larger of itself and the packet's index, and for a packet that
starts under REPLAY_EN 1 the same index is a replay from then on; the packet's own stream record is the only one that changes. -/
def Obligations.AuthenticPacketOnce : Prop :=
  ∀ (s : State) (id : Nat) (p : Pkt), s.live = true → s.free = true → s.ing.ringWait = [] → s.pkt id = some p →
    p.authOpen = true → p.short = false → s.poisoned 1 (p.get Tag.SCID) = false → p.srtp.verdict = 0 →
    p.srtp.suite ≠ 0 → p.srtp.replay = false → s.staleGen p = false → p.srtp.index < 2 ^ 48 →
    let i := p.get Tag.SCID
    s.isReplay i p.srtp.replayOn p.srtp.index = false →
    Does (.authVerdict id) s fun t =>
      t.sin i SIn.AUTH_VALID = 1 ∧
      t.sin i SIn.AUTH_IDX = (if s.sin i SIn.AUTH_VALID = 1 then max (s.sin i SIn.AUTH_IDX) p.srtp.index
        else p.srtp.index) ∧
      t.isReplay i true p.srtp.index = true ∧
      (∀ j, j ≠ i → recWords t.srt.inRec 8 j = recWords s.srt.inRec 8 j) ∧ t.srt.keys = s.srt.keys

/-! ## Media encryption -/

/-- Key sets (R69, R71, R74): KEY_WRITE makes a set VALID with its suite, keys and limit and USED 0; KEY_ERASE zeroes it;
KEY_READ returns word 0, limit and use and zeros for the keys; an index above the last set or a reserved suite is refused,
and no command changes another set or a stream record. Stream records (R72, R73, R74): IN_INIT and OUT_INIT, under valid
key sets, take the software words and zero the rest; IN_UPDATE and OUT_UPDATE keep the rest; a key set that is not valid
is refused; the reads return the record; no command changes another record or a key set. -/
def Obligations.StreamKeys : Prop :=
  (∀ (s : State) (k : Nat), s.live = true → k < 2 ^ 20 →
     let d (n : Nat) := s.reg .SRT_DATA n
     let cmd : List (Reg × Nat) := [(.SRT_CMD, 0), (.SRT_STATUS, 0)]
     let result (r : Nat) (t : State) := t.get F.SRT_STATUS.RESULT 0 = r
     let frame (t : State) := (∀ j, j ≠ k → recWords t.srt.keys 12 j = recWords s.srt.keys 12 j) ∧
       t.srt.inRec = s.srt.inRec ∧ t.srt.outRec = s.srt.outRec ∧ KeepsBut s t cmd
     (k < 262144 →
       (fld (d 0) 0 4 < 7 → Does (.keyWrite k) s fun t => result 0 t ∧ t.key k Key.VALID = 1 ∧
         t.key k Key.SUITE = fld (d 0) 0 4 ∧ (∀ n, 1 ≤ n → n ≤ 9 → recWord t.srt.keys 12 k n = d n) ∧
         t.key k Key.LIFE_LIMIT = fld (d 10) 0 48 ∧ t.key k Key.USED = 0 ∧ frame t) ∧
       (7 ≤ fld (d 0) 0 4 → Does (.keyWrite k) s fun t => result 2 t ∧ Only s t cmd) ∧
       Does (.keyErase k) s (fun t => result 0 t ∧ (∀ n, n < 12 → recWord t.srt.keys 12 k n = 0) ∧ frame t) ∧
       (s.poisoned 3 k = false → Does (.keyRead k) s fun t => result 0 t ∧
         t.reg .SRT_DATA 0 = recWord s.srt.keys 12 k 0 ∧ (∀ n, 1 ≤ n → n ≤ 9 → t.reg .SRT_DATA n = 0) ∧
         t.reg .SRT_DATA 10 = recWord s.srt.keys 12 k 10 ∧ t.reg .SRT_DATA 11 = recWord s.srt.keys 12 k 11 ∧
         t = { s with regs := t.regs } ∧ KeepsRegs s t [.SRT_CMD, .SRT_STATUS, .SRT_DATA])) ∧
     (262144 ≤ k → ∀ c ∈ [Instr.keyWrite k, .keyErase k, .keyRead k], Does c s fun t => result 1 t ∧ Only s t cmd)) ∧
  (∀ (s : State) (i : Nat), s.live = true → i < 2 ^ 20 →
     let d (n : Nat) := s.reg .SRT_DATA n
     let cmd : List (Reg × Nat) := [(.SRT_CMD, 0), (.SRT_STATUS, 0)]
     let result (r : Nat) (t : State) := t.get F.SRT_STATUS.RESULT 0 = r
     let inFrame (t : State) := (∀ j, j ≠ i → recWords t.srt.inRec 8 j = recWords s.srt.inRec 8 j) ∧
       t.srt.outRec = s.srt.outRec ∧ t.srt.keys = s.srt.keys ∧ KeepsBut s t cmd
     let outFrame (t : State) := (∀ j, j ≠ i → recWords t.srt.outRec 4 j = recWords s.srt.outRec 4 j) ∧
       t.srt.inRec = s.srt.inRec ∧ t.srt.keys = s.srt.keys ∧ KeepsBut s t cmd
     let inTaken (t : State) := result 0 t ∧ t.sin i SIn.KSID = fld (d 0) 20 18 ∧ t.sin i SIn.KSID_NEXT = fld (d 0) 2 18 ∧
       t.sin i SIn.NEXT_VALID = fld (d 0) 1 1 ∧ t.sin i SIn.REPLAY_EN = fld (d 0) 0 1 ∧
       t.sin i SIn.SWITCH_IDX = fld (d 1) 0 48 ∧ t.sin i SIn.ROC_INIT = fld (d 2) 0 32 ∧ inFrame t
     let outTaken (t : State) := result 0 t ∧ t.sout i SOut.OHB_ID = fld (d 0) 36 4 ∧
       t.sout i SOut.KSID_RTCP = fld (d 0) 18 18 ∧ t.sout i SOut.KSID = fld (d 0) 0 18 ∧ outFrame t
     let inValid := s.keyValid (fld (d 0) 20 18) = true ∧ (fld (d 0) 1 1 = 1 → s.keyValid (fld (d 0) 2 18) = true)
     let outValid := s.keyValid (fld (d 0) 0 18) = true ∧ s.keyValid (fld (d 0) 18 18) = true
     (inValid → Does (.inInit i) s (fun t => inTaken t ∧ ∀ n, 3 ≤ n → n < 8 → recWord t.srt.inRec 8 i n = 0) ∧
       Does (.inUpdate i) s (fun t => inTaken t ∧ ∀ n, 3 ≤ n → n < 8 →
         recWord t.srt.inRec 8 i n = recWord s.srt.inRec 8 i n)) ∧
     (¬inValid → ∀ c ∈ [Instr.inInit i, .inUpdate i], Does c s fun t => result 3 t ∧ Only s t cmd) ∧
     (s.poisoned 1 i = false → Does (.inRead i) s fun t => result 0 t ∧
       (∀ n, n < 8 → t.reg .SRT_DATA n = recWord s.srt.inRec 8 i n) ∧ t = { s with regs := t.regs } ∧
       KeepsRegs s t [.SRT_CMD, .SRT_STATUS, .SRT_DATA]) ∧
     (i < 131072 → outValid → Does (.outInit i) s (fun t => outTaken t ∧ ∀ n, 1 ≤ n → n < 4 →
         recWord t.srt.outRec 4 i n = 0) ∧
       Does (.outUpdate i) s (fun t => outTaken t ∧ ∀ n, 1 ≤ n → n < 4 →
         recWord t.srt.outRec 4 i n = recWord s.srt.outRec 4 i n)) ∧
     (i < 131072 → ¬outValid → ∀ c ∈ [Instr.outInit i, .outUpdate i], Does c s fun t => result 3 t ∧ Only s t cmd) ∧
     (i < 131072 → s.poisoned 2 i = false → Does (.outRead i) s fun t => result 0 t ∧
       (∀ n, n < 4 → t.reg .SRT_DATA n = recWord s.srt.outRec 4 i n) ∧ t = { s with regs := t.regs } ∧
       KeepsRegs s t [.SRT_CMD, .SRT_STATUS, .SRT_DATA]) ∧
     (131072 ≤ i → ∀ c ∈ [Instr.outInit i, .outUpdate i, .outRead i], Does c s fun t => result 1 t ∧ Only s t cmd))

/-! ## Forwarding -/

/-- Source records and rule blocks (R102, R118, R131): SRC_WRITE of an installed context whose leader is itself or may lead
takes the software fields and keeps the others; RB_LOAD of a well-formed block stores it whole; both are refused with
their codes otherwise; the reads return the record; no other record changes. Conferences and talkers (R104, R106, R131):
CONF_WRITE takes the record and frees the slots at and above its N; TALKER_CLEAR frees all eight; CONF_READ returns record
and slots; an index beyond the last conference is refused. The sweep frees each slot of an enabled conference whose
talker's last packet is more than IDLE_4MS ago, with its notice (R107), and keeps a talker whose last packet is within it. -/
def Obligations.ForwardingTables : Prop :=
  (∀ (s : State) (i : Nat), s.live = true → s.free = true → i < 2 ^ 20 → s.fwd.removing = none →
     let d (n : Nat) := s.reg .FWD_DATA n
     let cmd : List (Reg × Nat) := [(.FWD_CMD, 0), (.FWD_STATUS, 0)]
     let result (r : Nat) (t : State) := t.get F.FWD_STATUS.RESULT 0 = r
     let refused (r : Nat) (t : State) := result r t ∧ Only s t cmd
     let read (t : State) := result 0 t ∧ t = { s with regs := t.regs } ∧ KeepsRegs s t [.FWD_CMD, .FWD_STATUS, .FWD_DATA]
     let lead := fld (d 0) 43 20
     (s.inst i = true → (lead = i ∨ s.leaderOk lead = true) → Does (.srcWrite i) s fun t => result 0 t ∧
       t.src i FSrc.FWD_EN = fld (d 0) 63 1 ∧ t.src i FSrc.LEAD_SCID = lead ∧ t.src i FSrc.FB_CGID = fld (d 1) 45 17 ∧
       t.src i FSrc.FB_MIN = fld (d 2) 56 8 ∧ t.src i FSrc.KF_NEED = s.src i FSrc.KF_NEED ∧
       t.src i FSrc.RTP_SCID = fld (d 3) 44 20 ∧ t.src i FSrc.SUBS = s.src i FSrc.SUBS ∧
       (∀ j, j ≠ i → recWords t.fwd.src 4 j = recWords s.fwd.src 4 j) ∧ t.fwd.sub = s.fwd.sub ∧ KeepsBut s t cmd) ∧
     (s.inst i = false → ∀ c ∈ [Instr.srcWrite i, .srcRead i], Does c s (refused 2)) ∧
     (s.inst i = true → lead ≠ i → s.leaderOk lead = false → Does (.srcWrite i) s (refused 3)) ∧
     (s.inst i = true → s.poisoned 4 i = false → Does (.srcRead i) s fun t => read t ∧
       ∀ n, n < 4 → t.reg .FWD_DATA n = recWord s.fwd.src 4 i n) ∧
     (1 ≤ i → i ≤ 255 →
       (badRuleBlock ((List.range 16).map d) = false → Does (.rbLoad i) s fun t => result 0 t ∧
         (∀ n, n < 16 → recWord t.fwd.rules 16 i n = d n) ∧ Tbl.at false t.fwd.loaded i = true ∧
         (∀ j, j ≠ i → recWords t.fwd.rules 16 j = recWords s.fwd.rules 16 j) ∧ t.fwd.sub = s.fwd.sub ∧ KeepsBut s t cmd) ∧
       (badRuleBlock ((List.range 16).map d) = true → Does (.rbLoad i) s (refused 5)) ∧
       (s.poisoned 7 i = false → Does (.rbRead i) s fun t => read t ∧
         ∀ n, n < 16 → t.reg .FWD_DATA n = recWord s.fwd.rules 16 i n)) ∧
     (i = 0 ∨ 255 < i → ∀ c ∈ [Instr.rbLoad i, .rbRead i], Does c s (refused 7))) ∧
  (∀ (s : State) (i : Nat), s.live = true → s.free = true → i < 2 ^ 20 → s.fwd.removing = none →
     let cmd : List (Reg × Nat) := [(.FWD_CMD, 0), (.FWD_STATUS, 0)]
     let result (r : Nat) (t : State) := t.get F.FWD_STATUS.RESULT 0 = r
     let others (t : State) := (∀ j m, j ≠ i → m < 8 → t.slotAt j m = s.slotAt j m) ∧ t.fwd.src = s.fwd.src ∧
       t.fwd.sub = s.fwd.sub ∧ KeepsBut s t cmd
     (i < 16384 →
       Does (.confWrite i) s (fun t => result 0 t ∧ t.conf i Conf.EN = fld (s.reg .FWD_DATA 0) 63 1 ∧
         t.conf i Conf.NM1 = fld (s.reg .FWD_DATA 0) 60 3 ∧ t.conf i Conf.EVQ = fld (s.reg .FWD_DATA 0) 6 6 ∧
         (∀ m, m < 8 → t.slotAt i m = if m ≤ fld (s.reg .FWD_DATA 0) 60 3 then s.slotAt i m else none) ∧ others t) ∧
       Does (.talkerClear i) s (fun t => result 0 t ∧ (∀ m, m < 8 → t.slotAt i m = none) ∧ t.fwd.conf = s.fwd.conf ∧
         others t) ∧
       (s.poisoned 5 i = false → Does (.confRead i) s fun t => result 0 t ∧ t.reg .FWD_DATA 0 = Tbl.at 0 s.fwd.conf i ∧
         (∀ m, m < 8 → t.reg .FWD_DATA (1 + m) = s.slotWord i m) ∧ t = { s with regs := t.regs } ∧
         KeepsRegs s t [.FWD_CMD, .FWD_STATUS, .FWD_DATA])) ∧
     (16384 ≤ i → ∀ c ∈ [Instr.confWrite i, .confRead i, .talkerClear i], Does c s fun t => result 7 t ∧ Only s t cmd) ∧
     Does .talkerSweep s (fun t => t.regs = s.regs ∧ t.fwd.conf = s.fwd.conf ∧ t.fwd.sub = s.fwd.sub ∧
       (∀ cf m x, m < 8 → s.slotAt cf m = some x → s.since16 x.last ≤ s.conf cf Conf.IDLE_4MS * 4 →
         t.slotAt cf m = some x) ∧
       ∀ cf m x, m ≤ s.conf cf Conf.NM1 → s.confEn cf = true → s.slotAt cf m = some x →
         s.conf cf Conf.IDLE_4MS * 4 < s.since16 x.last → t.slotAt cf m = none ∧
           (s.conf cf Conf.NOTICE_EN = 1 → (s.conf cf Conf.EVQ, [itemHeader 4 0 0 cf (m + 8), wd (x.scid * 2 ^ 44)]) ∈
             Tbl.at [] t.ctl.crossing 4)))

/-- Subscriptions (R111, R115, R131, R133): SUB_ADD under a leader links the subscription at the end of its sublist in
KF_WAIT with the layers clipped to MAX and counts it; SUB_REMOVE unlinks it, clears VALID and holds GO until no begun
packet names it; SUB_UPDATE changes neither KIND, CGID nor TS_RATE; the refusals carry their codes. -/
def Obligations.Subscriptions : Prop :=
  ∀ (s : State) (i : Nat), s.live = true → s.free = true → i < 2 ^ 20 → s.fwd.removing = none →
    let d (n : Nat) := s.reg .FWD_DATA n
    let ws := (List.range 5).map d
    let result (r : Nat) (t : State) := t.get F.FWD_STATUS.RESULT 0 = r
    let refused (r : Nat) (t : State) := result r t ∧ Only s t [(.FWD_CMD, 0), (.FWD_STATUS, 0)]
    let lead := fld (d 4) 0 20
    let key := lead * 9 + s.sublistOf ws
    (s.sub i FSub.VALID = 0 → s.leaderOk lead = true → s.src lead FSrc.SUBS < 65535 → s.badRule ws = false →
      badSubField ws = false → fld (d 0) 61 2 = 0 → Does (.subAdd i) s fun t => result 0 t ∧ t.sub i FSub.VALID = 1 ∧
        t.sub i FSub.CGID = fld (d 0) 44 17 ∧ t.sub i FSub.OUT_SSRC = fld (d 1) 32 32 ∧
        t.sub i FSub.KF_WAIT = 1 ∧ t.sub i FSub.OUT_VALID = 0 ∧
        t.sub i FSub.CUR_SL = min (fld (d 0) 20 2) (fld (d 0) 25 2) ∧
        t.sub i FSub.CUR_TL = min (fld (d 0) 17 3) (fld (d 0) 22 3) ∧
        Tbl.at [] t.fwd.lists key = Tbl.at [] s.fwd.lists key ++ [i] ∧
        (∀ k, k ≠ key → Tbl.at [] t.fwd.lists k = Tbl.at [] s.fwd.lists k) ∧
        t.src lead FSrc.SUBS = s.src lead FSrc.SUBS + 1 ∧ Tbl.at 0 t.fwd.leadOf i = lead ∧
        (∀ j, j ≠ i → recWords t.fwd.sub 8 j = recWords s.fwd.sub 8 j)) ∧
    (s.sub i FSub.VALID = 1 → Does (.subAdd i) s (refused 1)) ∧
    (s.sub i FSub.VALID = 0 → s.leaderOk lead = false → Does (.subAdd i) s (refused 3)) ∧
    (s.sub i FSub.VALID = 0 → ∀ c ∈ [Instr.subUpdate i, .subRemove i, .subRead i], Does c s (refused 2)) ∧
    (s.sub i FSub.VALID = 1 → fld (d 0) 61 2 = s.sub i FSub.KIND → fld (d 0) 44 17 = s.sub i FSub.CGID →
      fld (d 0) 12 3 = s.sub i FSub.TS_RATE → s.badRule [d 0] = false → badSubField [d 0] = false →
      Does (.subUpdate i) s fun t => result 0 t ∧ t.sub i FSub.VALID = 1 ∧ t.sub i FSub.MAX_SL = fld (d 0) 25 2 ∧
        t.sub i FSub.RBID = fld (d 0) 36 8 ∧ t.sub i FSub.KIND = s.sub i FSub.KIND ∧
        (∀ n, 1 ≤ n → n < 8 → recWord t.fwd.sub 8 i n = recWord s.fwd.sub 8 i n) ∧ t.fwd.lists = s.fwd.lists) ∧
    (s.sub i FSub.VALID = 1 → fld (d 0) 44 17 ≠ s.sub i FSub.CGID → Does (.subUpdate i) s (refused 6)) ∧
    (s.sub i FSub.VALID = 1 → Does (.subRemove i) s fun t => t.isSet F.FWD_CMD.GO 0 = true ∧ t.sub i FSub.VALID = 0 ∧
      t.fwd.removing = some ⟨i, s.begunJobs i⟩ ∧
      ∀ k, k < 9 → Tbl.at [] t.fwd.lists (Tbl.at 0 s.fwd.leadOf i * 9 + k) =
        (Tbl.at [] s.fwd.lists (Tbl.at 0 s.fwd.leadOf i * 9 + k)).filter (· ≠ i)) ∧
    (s.sub i FSub.VALID = 1 → s.poisoned 6 i = false → Does (.subRead i) s fun t => result 0 t ∧
      (∀ n, n < 8 → t.reg .FWD_DATA n = recWord s.fwd.sub 8 i n) ∧ t.reg .FWD_DATA 8 = wd (Tbl.at 0 s.fwd.leadOf i) ∧
      t = { s with regs := t.regs }) ∧
    (∀ r, (s.inJobs r = false → Does .subRemoveDone { s with fwd := { s.fwd with removing := some r } } fun t =>
        t.isSet F.FWD_CMD.GO 0 = false ∧ result 0 t ∧ t.fwd = s.fwd) ∧
      (s.inJobs r = true → Does .subRemoveDone { s with fwd := { s.fwd with removing := some r } } fun t =>
        t = { s with fwd := { s.fwd with removing := some r } }))

/-- Decisions (R98, R99, R101, R102): a packet whose context has moved on is counted stale; one whose source has FWD_EN 0 is
counted with no destination; each makes no job and no cart, and the decision is made once. A packet to be forwarded
becomes the newest job, with its leader's sublist as it stands, of every walker that has subscriptions of it and room for
a job; a full walker loses it and counts it (R99, R100). An RTP packet of a screened context moves the context's score; a
talker with a slot has its time renewed; the lowest free slot is taken at MIN_SCORE; the quietest talker of a full table
is challenged, and replaced once both times have passed (R105). A packet of a slot's holder becomes a talker cart behind
the carts of its pipeline (R108, R109). A walker with no job does nothing. Rate hints (R130): a ladder's leader whose
counts have changed sends them 100 ms after its last hint, replacing the counts of the entry that waits and keeping its
keyframe mask; without a change, before that time or without a ladder nothing is sent. -/
def Obligations.ForwardingDecides : Prop :=
  (∀ (s : State) (id walker : Nat) (p : Pkt), s.live = true → s.free = true → s.pkt id = some p →
     let pipe := p.get Tag.PIPE
     let i := p.get Tag.SCID
     let counted (c : RFld) (t : State) := t.get F.FWD_IN_PKT_CNT.CNT pipe = (s.get F.FWD_IN_PKT_CNT.CNT pipe + 1) % 2 ^ 64 ∧
       t.get c pipe = (s.get c pipe + 1) % 2 ^ c.len ∧ KeepsBut s t [(.FWD_IN_PKT_CNT, pipe), (c.reg, pipe)] ∧
       t.fwd = s.fwd
     (p.decided = false → p.dead = false → p.toRing = false →
       (s.staleGen p = true → Does (.forwardingDecision id) s (counted F.FWD_STALE_CNT.CNT)) ∧
       (s.staleGen p = false → s.poisoned 4 i = false → s.src i FSrc.FWD_EN = 0 → s.ctx i Ctx.SCREEN = 0 →
         Does (.forwardingDecision id) s (counted F.FWD_NODEST_CNT.CNT))) ∧
     (p.decided = false → p.dead = false → p.toRing = false → s.staleGen p = false → s.poisoned 4 i = false →
       let src := recWords s.fwd.src 4 i
       let leader := s.src i FSrc.LEAD_SCID
       let joined (t : State) (w k : Nat) : Prop := Tbl.at [] t.fwd.jobs w = Tbl.at [] s.fwd.jobs w ++
         if s.sublist leader k = [] ∨ 4096 ≤ (Tbl.at [] s.fwd.jobs w).length then []
         else [⟨id, leader, src, recWords s.fwd.src 4 leader, (s.sublist leader k).map s.jobSub⟩]
       let cf := p.get Tag.CFID
       (s.src i FSrc.FWD_EN = 1 → s.ctx i Ctx.SCREEN = 0 → s.src i FSrc.TALKER_CART = 0 → s.src leader FSrc.KF_NEED = 0 →
         Does (.forwardingDecision id) s fun t => (∀ w, w < 8 → joined t w w) ∧ joined t (8 + pipe) 8 ∧
           (∀ w, w < 8 → w ≠ pipe → s.sublist leader w ≠ [] → 4096 ≤ (Tbl.at [] s.fwd.jobs w).length →
             t.get F.FWD_REPL_OVF_CNT.CNT w = (s.get F.FWD_REPL_OVF_CNT.CNT w + 1) % 2 ^ 48) ∧
           t.fwd = { s.fwd with jobs := t.fwd.jobs } ∧
           KeepsRegs s t [.FWD_IN_PKT_CNT, .FWD_REPL_OVF_CNT, .FWD_NODEST_CNT, .FWD_SCREEN_DROP_CNT]) ∧
       (p.is Tag.RTCP = false → s.ctx i Ctx.SCREEN = 1 → s.confEn cf = true → (∀ m x, m ≤ s.conf cf Conf.NM1 →
         s.slotAt cf m = some x → s.since16 x.last ≤ s.conf cf Conf.IDLE_4MS * 4) →
         let x := if p.is Tag.LVL_VALID && !(s.conf cf Conf.VAD_REQ = 1 && !p.is Tag.VAD) then 127 - p.get Tag.LEVEL else 0
         let score := wrapInt (s.score i + (((x * 256 : Nat) : Int) - s.score i) / ((2 ^ s.conf cf Conf.SMOOTH : Nat) : Int)) 15
         (s.slotOf cf i = none → Does (.forwardingDecision id) s fun t => t.score i = score ∧
           (∀ m, m ≤ s.conf cf Conf.NM1 → s.slotAt cf m = none →
             (∀ n, n < m → (s.slotAt cf n).isSome = true) →
             (s.conf cf Conf.MIN_SCORE * 256 ≤ score → t.slotAt cf m = some ⟨i, s.nowMs, s.nowMs⟩) ∧
             (score < s.conf cf Conf.MIN_SCORE * 256 → t.fwd.slots = s.fwd.slots)) ∧
           ∀ m q, (∀ n, n ≤ s.conf cf Conf.NM1 → (s.slotAt cf n).isSome = true) → s.quietest cf = some (m, q) →
             (score ≤ s.score q.scid + s.conf cf Conf.HYST * 256 → Tbl.at none t.ing.ch i = none ∧
               t.fwd.slots = s.fwd.slots) ∧
             (s.score q.scid + s.conf cf Conf.HYST * 256 < score →
               (Tbl.at none s.ing.ch i = none → Tbl.at none t.ing.ch i = some s.nowMs ∧ t.fwd.slots = s.fwd.slots) ∧
               ∀ t0, Tbl.at none s.ing.ch i = some t0 → s.conf cf Conf.ENTER_MS ≤ s.since16 t0 →
                 s.conf cf Conf.STAY_4MS * 4 ≤ s.since16 q.entered →
                 t.slotAt cf m = some ⟨i, s.nowMs, s.nowMs⟩ ∧ Tbl.at none t.ing.ch i = none)) ∧
         ∀ m y, s.slotOf cf i = some m → s.slotAt cf m = some y → Does (.forwardingDecision id) s fun t =>
           t.score i = score ∧ t.slotAt cf m = some { y with last := s.nowMs }) ∧
       ∀ m, p.is Tag.RTCP = false → s.ctx i Ctx.SCREEN = 0 → s.src i FSrc.FWD_EN = 1 → s.confEn cf = true →
         s.src i FSrc.TALKER_CART = 1 → p.is Tag.INJ = false → p.srtp.suite ≠ 5 → p.srtp.suite ≠ 6 →
         s.slotOf cf i = some m → (s.workQueue pipe).length < 512 → Does (.forwardingDecision id) s fun t =>
           t.workQueue pipe = s.workQueue pipe ++
             [⟨s.talkerWords src p m, id, !p.authOpen && !p.fcsOpen, s.fwd.cartOrder⟩] ∧
           t.get F.FWD_CART_CNT.CNT pipe = (s.get F.FWD_CART_CNT.CNT pipe + 1) % 2 ^ F.FWD_CART_CNT.CNT.len ∧
           ∀ q, q ≠ pipe → t.workQueue q = s.workQueue q) ∧
     (p.decided = true ∨ p.dead = true ∨ p.toRing = true → Does (.forwardingDecision id) s fun t => t = s) ∧
     (Tbl.at [] s.fwd.jobs walker = [] → Does (.subscriptionDecision walker) s fun t => t = s)) ∧
  (∀ (s : State) (i : Nat), s.live = true →
     let k := hintKey (s.src i FSrc.ENC) (s.src i FSrc.LADDER_ID)
     let due := Tbl.at 0 s.fwd.hintTime i = 0 ∨ Tbl.at 0 s.fwd.hintTime i + 100000000 ≤ s.clock + 1
     (s.src i FSrc.LADDER = 1 → s.rungs i ≠ s.lastHint i → due → Does (.rateHint i) s fun t =>
       (t.hint k).counts = s.rungs i ∧ (t.hint k).mask = (s.hint k).mask ∧ t.lastHint i = s.rungs i ∧
       (∀ j, j ≠ k → t.hint j = s.hint j) ∧ t.regs = s.regs ∧ t.fwd.sub = s.fwd.sub) ∧
     (s.src i FSrc.LADDER = 0 ∨ s.rungs i = s.lastHint i ∨ ¬due → Does (.rateHint i) s fun t => t = s))

/-- One subscription of one packet at a walker. To a FORWARD subscription at rest inside its ceiling (R93, R100, R120,
R121): a layer outside the operating point, or any packet that is no switch point while the subscription waits for a
keyframe, is dropped and counted; the first packet it may have opens the output; the next in order advances OUT_EXT past at
most 64 missing ones; a late one is copied once where its place is still known and no drop came after it, and counted late
otherwise. A spatial switch point ends the wait at S0 with the old target pending, in a simulcast group at its own rung; it
raises CUR toward what is pending. A rule's action lowers, raises, suspends, wakes or drops (R118, R119). RTCP goes to a
subscription whose output it belongs to (R125), MIX_FOLLOW takes what it may follow (R113), and DECODE makes a decode cart
(R112). The job passes to its next subscription, and no other subscription changes. -/
def Obligations.ReplicationStep : Prop :=
  ∀ (s : State) (walker : Nat) (j : Job) (rest : List Job) (x : JobSub) (xs : List JobSub) (p : Pkt), s.live = true →
    Tbl.at [] s.fwd.jobs walker = j :: rest → j.subs = x :: xs → s.pkt j.pkt = some p → p.dead = false →
    p.extSeq < 2 ^ 48 → s.poisoned 6 x.sbid = false →
    let i := x.sbid
    let w := walker % 8
    let e := s.seen p j.leader
    let kind := wordsGet [x.word0] FSub.KIND
    let cs := s.sub i FSub.CUR_SL
    let ct := s.sub i FSub.CUR_TL
    let last := s.sub i FSub.LAST_IN
    let out := s.sub i FSub.OUT_EXT
    let atRest := s.sub i FSub.SUSP = 0 ∧ s.sub i FSub.PEND_VALID = 0 ∧ cs ≤ wordsGet [x.word0] FSub.MAX_SL ∧
      ct ≤ wordsGet [x.word0] FSub.MAX_TL
    let counted (c : RFld) (t : State) : Prop := t.get c w = (s.get c w + 1) % 2 ^ c.len
    let passed (t : State) := Tbl.at [] t.fwd.jobs walker = (if xs = [] then rest else { j with subs := xs } :: rest) ∧
      ∀ k, k ≠ i → recWords t.fwd.sub 8 k = recWords s.fwd.sub 8 k
    let same (t : State) := passed t ∧ recWords t.fwd.sub 8 i = recWords s.fwd.sub 8 i
    let dropped (t : State) := passed t ∧ t.sub i FSub.OUT_EXT = out ∧ counted F.FWD_SEL_DROP_CNT.CNT t
    let copied (t : State) := passed t ∧ t.sub i FSub.OUT_VALID = 1 ∧ counted F.FWD_COPY_CNT.CNT t
    (p.is Tag.RTCP = false → kind = 0 → x.rules = [] → atRest →
      (s.sub i FSub.KF_WAIT = 0 → e.inside cs ct = false → Does (.subscriptionDecision walker) s dropped) ∧
      (s.sub i FSub.KF_WAIT = 1 → e.spatial = false → Does (.subscriptionDecision walker) s fun t => dropped t ∧
        t.sub i FSub.KF_WAIT = 1) ∧
      (s.sub i FSub.KF_WAIT = 1 → e.spatial = true → e.simul = false → e.sl = 0 →
        Does (.subscriptionDecision walker) s fun t => passed t ∧ t.sub i FSub.KF_WAIT = 0 ∧ t.sub i FSub.CUR_SL = 0 ∧
          (0 < cs → t.sub i FSub.PEND_VALID = 1 ∧ t.sub i FSub.PEND_SL = cs ∧ t.sub i FSub.PEND_TL = ct)) ∧
      (s.sub i FSub.KF_WAIT = 1 → e.spatial = true → e.simul = true → e.bare = false →
        (e.sl = cs → Does (.subscriptionDecision walker) s fun t => passed t ∧ t.sub i FSub.KF_WAIT = 0 ∧
          t.sub i FSub.CUR_SL = cs) ∧
        (e.sl ≠ cs → Does (.subscriptionDecision walker) s fun t => dropped t ∧ t.sub i FSub.KF_WAIT = 1)) ∧
      (s.sub i FSub.KF_WAIT = 0 → e.inside cs ct = true →
        (s.sub i FSub.OUT_VALID = 0 → Does (.subscriptionDecision walker) s fun t => copied t ∧
          t.sub i FSub.CUR_SCID = p.get Tag.SCID ∧ t.sub i FSub.LAST_IN = p.extSeq ∧ t.sub i FSub.SEEN = 1 ∧
          t.sub i FSub.OUT_EXT = (out + 1) % 2 ^ 48) ∧
        (s.sub i FSub.OUT_VALID = 1 → s.sub i FSub.CUR_SCID = p.get Tag.SCID →
          (last < p.extSeq → Does (.subscriptionDecision walker) s fun t => copied t ∧ t.sub i FSub.LAST_IN = p.extSeq ∧
            t.sub i FSub.OUT_EXT = (out + min (p.extSeq - last - 1) 64 + 1) % 2 ^ 48 ∧
            t.sub i FSub.SEEN = shiftSeen (s.sub i FSub.SEEN) (p.extSeq - last)) ∧
          (p.extSeq ≤ last → last - p.extSeq < 32 → bitAt (s.sub i FSub.SEEN) (last - p.extSeq) = false →
            s.sub i FSub.LAST_DROP_IN < p.extSeq → Does (.subscriptionDecision walker) s fun t => copied t ∧
              t.sub i FSub.LAST_IN = last ∧ t.sub i FSub.OUT_EXT = out ∧
              bitAt (t.sub i FSub.SEEN) (last - p.extSeq) = true) ∧
          (p.extSeq ≤ last → (32 ≤ last - p.extSeq ∨ bitAt (s.sub i FSub.SEEN) (last - p.extSeq) = true ∨
            p.extSeq ≤ s.sub i FSub.LAST_DROP_IN) → Does (.subscriptionDecision walker) s fun t => same t ∧
              counted F.FWD_LATE_DROP_CNT.CNT t)))) ∧
    (p.is Tag.RTCP = false → kind = 0 → x.rules = [] → s.sub i FSub.SUSP = 0 → s.sub i FSub.KF_WAIT = 0 →
      s.sub i FSub.PEND_VALID = 1 → s.sub i FSub.PEND_SL ≤ wordsGet [x.word0] FSub.MAX_SL →
      s.sub i FSub.PEND_TL ≤ wordsGet [x.word0] FSub.MAX_TL → ct ≤ wordsGet [x.word0] FSub.MAX_TL →
      e.simul = false → e.spatial = true → e.sl = cs + 1 → e.sl ≤ s.sub i FSub.PEND_SL →
      Does (.subscriptionDecision walker) s fun t => passed t ∧ t.sub i FSub.CUR_SL = cs + 1 ∧
        counted F.FWD_UP_CNT.CNT t ∧
        (t.sub i FSub.PEND_VALID = 0 ↔ s.sub i FSub.PEND_SL = cs + 1 ∧ s.sub i FSub.PEND_TL = ct)) ∧
    (p.is Tag.RTCP = false → kind = 0 → s.sub i FSub.PEND_VALID = 0 → cs ≤ wordsGet [x.word0] FSub.MAX_SL →
      ct ≤ wordsGet [x.word0] FSub.MAX_TL → e.swp = false → (matchRule x.rules (s.vector x e)).2 = false →
      let act := (matchRule x.rules (s.vector x e)).1
      let down : Nat × Nat := if act = 3 then (0, 0) else if act = 1 ∧ 0 < ct then (cs, ct - 1) else (cs - 1, ct)
      (s.sub i FSub.SUSP = 0 → act ∈ [1, 2, 3] → Does (.subscriptionDecision walker) s fun t => passed t ∧
        t.sub i FSub.CUR_SL = down.1 ∧ t.sub i FSub.CUR_TL = down.2 ∧
        (down ≠ (cs, ct) → t.sub i FSub.T_DOWN = s.nowMs ∧ counted F.FWD_DOWN_CNT.CNT t) ∧
        (e.simul = true → down.1 < cs → t.sub i FSub.KF_WAIT = 1)) ∧
      (s.sub i FSub.SUSP = 0 → act = 4 → ct < wordsGet [x.word0] FSub.MAX_TL → Does (.subscriptionDecision walker) s
        fun t => passed t ∧ t.sub i FSub.PEND_VALID = 1 ∧ t.sub i FSub.PEND_SL = cs ∧ t.sub i FSub.PEND_TL = ct + 1) ∧
      (s.sub i FSub.SUSP = 0 → (act = 5 ∨ act = 4 ∧ ct = wordsGet [x.word0] FSub.MAX_TL) →
        cs < wordsGet [x.word0] FSub.MAX_SL → Does (.subscriptionDecision walker) s
        fun t => passed t ∧ t.sub i FSub.PEND_VALID = 1 ∧ t.sub i FSub.PEND_SL = cs + 1 ∧ t.sub i FSub.PEND_TL = ct) ∧
      (s.sub i FSub.SUSP = 1 → act ∈ [4, 5] → Does (.subscriptionDecision walker) s fun t => dropped t ∧
        t.sub i FSub.SUSP = 0 ∧ t.sub i FSub.CUR_SL = 0 ∧ t.sub i FSub.CUR_TL = 0 ∧ t.sub i FSub.KF_WAIT = 1) ∧
      (act = 6 → Does (.subscriptionDecision walker) s fun t => dropped t ∧ t.sub i FSub.SUSP = 1) ∧
      (act = 7 → Does (.subscriptionDecision walker) s fun t => dropped t ∧ t.sub i FSub.CUR_SL = cs ∧
        t.sub i FSub.CUR_TL = ct)) ∧
    (p.is Tag.RTCP = true → kind = 0 → x.rules = [] → atRest →
      let belongs := wordsGet [x.word0] FSub.RTCP_FWD = 1 ∧ s.sub i FSub.KF_WAIT = 0 ∧ s.sub i FSub.OUT_VALID = 1 ∧
        s.sub i FSub.CUR_SCID = wordsGet j.src FSrc.RTP_SCID
      (belongs → Does (.subscriptionDecision walker) s fun t => same t ∧ counted F.FWD_COPY_CNT.CNT t) ∧
      (¬belongs → Does (.subscriptionDecision walker) s fun t => same t ∧
        t.get F.FWD_COPY_CNT.CNT w = s.get F.FWD_COPY_CNT.CNT w)) ∧
    (kind = 2 → s.eligible j x p = false → Does (.subscriptionDecision walker) s fun t => same t ∧
      t.get F.FWD_COPY_CNT.CNT w = s.get F.FWD_COPY_CNT.CNT w) ∧
    (kind = 2 → s.eligible j x p = true → p.is Tag.RTCP = false → x.rules = [] → atRest → s.sub i FSub.KF_WAIT = 0 →
      e.inside cs ct = true → s.sub i FSub.OUT_VALID = 0 → Does (.subscriptionDecision walker) s fun t => copied t ∧
        t.sub i FSub.CUR_SCID = p.get Tag.SCID ∧ t.sub i FSub.OUT_EXT = (out + 1) % 2 ^ 48) ∧
    (kind = 1 → p.is Tag.RTCP = false → atRest → cs = wordsGet [x.word0] FSub.MAX_SL → ct = wordsGet [x.word0] FSub.MAX_TL →
      s.sub i FSub.KF_WAIT = 0 →
      (e.inside cs ct = true → p.srtp.suite ≠ 5 → p.srtp.suite ≠ 6 →
        (s.workQueue (p.get Tag.PIPE)).length < 512 → Does (.subscriptionDecision walker) s fun t => same t ∧
          t.workQueue (p.get Tag.PIPE) = s.workQueue (p.get Tag.PIPE) ++
            [⟨wd (0x11 * 2 ^ 56 + s.sub i FSub.COID * 2 ^ 40 + s.sub i FSub.PRIO * 2 ^ 36) ::
              wd (s.sub i FSub.POOL * 2 ^ 16 + 1) :: cartOperands p 0 (s.sub i FSub.AUX), j.pkt,
              !p.authOpen && !p.fcsOpen, s.fwd.cartOrder⟩]) ∧
      (e.inside cs ct = false → Does (.subscriptionDecision walker) s fun t => same t ∧
        counted F.FWD_SEL_DROP_CNT.CNT t)) ∧
    (kind = 1 → p.is Tag.RTCP = true → Does (.subscriptionDecision walker) s same)

/-! ## Carriages and transmission -/

/-- Carriage commands and the shaper's scrub (R135, R137, R138, R143, R145): CAR_INIT takes the record, zeroes the
statistics and fills TOKENS; CAR_UPDATE takes the record and clips TOKENS to the new burst; TOKEN_RESET fills TOKENS; the reads return record and statistics;
a non-zero reserved bit is refused; the scrub visits every carriage in turn; no other carriage changes. -/
def Obligations.CarriageCommands : Prop :=
  ∀ (s : State) (c : Nat), s.live = true → c < 131072 →
    let d (n : Nat) := s.reg .TM_DATA n
    let ws := (List.range 10).map d
    let result (r : Nat) (t : State) := t.get F.TM_STATUS.RESULT 0 = r
    let cmd : List (Reg × Nat) := [(.TM_CMD, 0), (.TM_STATUS, 0)]
    let others (t : State) := (∀ j, j ≠ c → recWords t.tm.car 12 j = recWords s.tm.car 12 j ∧
      recWords t.tm.carStat 4 j = recWords s.tm.carStat 4 j) ∧ KeepsBut s t cmd ∧ t.tm.queues = s.tm.queues
    let full (t : State) := t.tokens c = ((t.car c Car.BURST * 2 ^ 32 : Nat) : Int) ∧ t.car c Car.T_LAST = s.fwd32
    let read (t : State) := result 0 t ∧ t = { s with regs := t.regs } ∧ KeepsRegs s t [.TM_CMD, .TM_STATUS, .TM_DATA]
    (badCarriage ws = false →
      Does (.carInit c) s (fun t => result 0 t ∧ (∀ n, n < 10 → recWord t.tm.car 12 c n = d n) ∧ full t ∧
        recWords t.tm.carStat 4 c = [0, 0, 0, 0] ∧ others t) ∧
      Does (.carUpdate c) s (fun t => result 0 t ∧ (∀ n, n < 10 → recWord t.tm.car 12 c n = d n) ∧
        (s.car c Car.SHP_EN = 0 → fld (d 0) 50 1 = 1 → full t) ∧
        (s.car c Car.SHP_EN = 1 → t.tokens c ≤ ((t.car c Car.BURST * 2 ^ 32 : Nat) : Int)) ∧ t.tm.carStat = s.tm.carStat ∧ others t)) ∧
    (badCarriage ws = true → ∀ i ∈ [Instr.carInit c, .carUpdate c], Does i s fun t => result 1 t ∧ Only s t cmd) ∧
    Does (.tokenReset c) s (fun t => result 0 t ∧ full t ∧ (∀ n, n < 10 → recWord t.tm.car 12 c n = recWord s.tm.car 12 c n) ∧
      others t) ∧
    (s.poisoned 8 c = false → Does (.carRead c) s fun t => read t ∧
      ∀ n, n < 12 → t.reg .TM_DATA n = recWord s.tm.car 12 c n) ∧
    Does (.carStats c) s (fun t => read t ∧ ∀ n, n < 4 → t.reg .TM_DATA n = recWord s.tm.carStat 4 c n) ∧
    Does .shaperScrub s (fun t => t.tm.scrub = (s.tm.scrub + 1) % 131072 ∧ t.regs = s.regs ∧
      (∀ j, j ≠ s.tm.scrub → recWords t.tm.car 12 j = recWords s.tm.car 12 j) ∧
      (s.car s.tm.scrub Car.SHP_EN = 1 → t.car s.tm.scrub Car.T_LAST = s.fwd32 ∧
        t.tokens s.tm.scrub ≤ ((s.car s.tm.scrub Car.BURST * 2 ^ 32 : Nat) : Int)))

/-- Transmit selection and the end of a frame (R147 to R149, R155, R160, R493): an idle port starts the head of its lowest
numbered queue of 0 to 3 that holds a frame and whose gate stays open for it, padded, for its line time, and every other
queue stays; with those queues empty the round robin serves the queue it points at from its deficit, or goes on to the
next with the deficit kept; behind closed gates nothing starts, and a head too long for every opening is dropped and
counted. A copy of a packet goes out as egress SRTP makes it, under SUITE 0 with its carriage's headers around the
rewritten payload, and one that fails the egress checks is dropped (03 R87, R494); PTP 2 writes its stamp at the start (13
R394, R395). At its end the frame is on the wire with its FCS and counted on port and queue with its length, padding and
FCS included, as an overrun where its gate has closed, a PTP 1 frame leaves its stamp (13 R391), and its cells are free;
with its verdicts open a copy waits. A stopped port or one that is sending starts nothing. Rings and held carts (R153,
R161 to R164): the part takes a transmit ring's next frame, here of one descriptor whose words and buffer can be read,
moves HEAD past it and posts one item for it, and where its port transmits and has room the frame enters the queue that
its descriptor names, unless a fault on the way disables the ring; a disabled or empty ring does nothing. A cart held
behind a full work queue is dropped, the oldest first, while its packet's class is at its threshold. -/
def Obligations.Transmission : Prop :=
  (∀ (s : State) (p q : Nat) (f : QFrame) (rest : List QFrame) (x : TxFrame), s.live = true → s.free = true →
     let idle := s.isPort p = true ∧ s.err.mediaStopped = false ∧ s.sending p = none
     let plain (h : QFrame) : Prop := h.pkt = none ∧ h.srtp = 0 ∧ h.ptp = 0
     let allPlain := ∀ k, k < 8 → ∀ h ∈ s.queue p k, plain h
     let ungated := Tbl.at none s.tm.gclPend p = none ∧ Tbl.at none s.tm.gclAct p = none
     let opens (k : Nat) (h : QFrame) : Prop := ungated ∨ (s.gateFits p k (s.txLen h) = true ∧
       ∀ m, m < 8 → ∀ g ∈ s.queue p m, s.gateDrops p m (s.txLen g) = false)
     let alone := ∀ k, k < 8 → k ≠ q → s.queue p k = []
     let starts (t : State) (k : Nat) (h : QFrame) (rest : List QFrame) (bytes : List Byte) : Prop :=
       t.sending p = some { queue := k, frame := h, bytes := bytes, t0 := s.portTime p
                            t1 := s.portTime p + s.lineTime p (s.txLen h), stamp := s.txStamp p } ∧
       t.queue p k = rest ∧ (∀ m, m ≠ qkey p k → Tbl.at [] t.tm.queues m = Tbl.at [] s.tm.queues m) ∧
       ∀ o, o ≠ p → t.sending o = s.sending o
     (idle → allPlain → q < 4 → (∀ k, k < q → s.queue p k = []) → s.queue p q = f :: rest → opens q f →
       Does (.transmitSelection p) s fun t => starts t q f rest (padFrame f.body) ∧ t.regs = s.regs) ∧
     (idle → allPlain → (∀ k, k < 4 → s.queue p k = []) → 4 ≤ q → q < 8 → Tbl.at 4 s.tm.ptr p = q →
       s.queue p q = f :: rest → ungated →
       let credit (k : Nat) : Int := Tbl.at 0 s.tm.deficit (qkey p k) +
         if Tbl.at false s.tm.credited (qkey p k) then 0 else (s.quantum p k : Int)
       (s.drrLen p q ≤ credit q → Does (.transmitSelection p) s fun t => starts t q f rest (padFrame f.body) ∧
         t.regs = s.regs ∧ (rest ≠ [] → Tbl.at 0 t.tm.deficit (qkey p q) = credit q - s.drrLen p q ∧
           Tbl.at 4 t.tm.ptr p = q) ∧
         (rest = [] → Tbl.at 0 t.tm.deficit (qkey p q) = 0 ∧ Tbl.at 4 t.tm.ptr p = nextQueue q)) ∧
       (∀ h more, credit q < s.drrLen p q → s.queue p (nextQueue q) = h :: more →
         s.drrLen p (nextQueue q) ≤ credit (nextQueue q) → Does (.transmitSelection p) s fun t =>
           starts t (nextQueue q) h more (padFrame h.body) ∧ t.regs = s.regs ∧
           Tbl.at 0 t.tm.deficit (qkey p q) = credit q)) ∧
     (∀ g, idle → allPlain → Tbl.at none s.tm.gclPend p = none → Tbl.at none s.tm.gclAct p = some g →
       ((∀ k, k < 8 → ∀ h ∈ s.queue p k, bitAt (g.at (s.portTime p)).2.1 k = false ∧
         s.neverFits p k (s.txLen h) g = false) → Does (.transmitSelection p) s fun t => t = s) ∧
       (q < 8 → alone → s.queue p q = [f] → s.neverFits p q (s.txLen f) g = true → Does (.transmitSelection p) s fun t =>
         t.sending p = none ∧ t.queue p q = [] ∧
         t.get F.TM_PORT_GATE_DROP_CNT.CNT p = (s.get F.TM_PORT_GATE_DROP_CNT.CNT p + 1) % 2 ^ 48 ∧
         KeepsBut s t [(.TM_PORT_GATE_DROP_CNT, p)])) ∧
     (∀ id pk, idle → alone → q < 4 → s.queue p q = [f] → ungated → f.pkt = some id → f.ring = false → f.ptp = 0 →
       f.srtp = 1 → s.pkt id = some pk → pk.dead = false → pk.authOpen = false → pk.fcsOpen = false →
       s.poisoned 2 f.cgid = false →
       (s.frameCheck f = 0 → Does (.transmitSelection p) s fun t => starts t q f [] (padFrame (s.frameBytes p f).1) ∧
         (s.key (s.egressKey f) Key.SUITE = 0 → (s.frameBytes p f).1 = s.buildFrame f.cgid (s.clearPayload f)) ∧
         t.get F.SRT_OUT_PKT_CNT.CNT (p / 8) = (s.get F.SRT_OUT_PKT_CNT.CNT (p / 8) + 1) % 2 ^ F.SRT_OUT_PKT_CNT.CNT.len ∧
         KeepsBut s t [(.SRT_OUT_PKT_CNT, p / 8), (.SRT_OUT_OCT_CNT, p / 8)]) ∧
       (s.frameCheck f ≠ 0 → Does (.transmitSelection p) s fun t => t.sending p = none ∧ t.queue p q = [])) ∧
     (idle → alone → q < 4 → s.queue p q = [f] → ungated → f.pkt = none → f.srtp = 0 → f.ptp = 2 →
       (∀ new, oneStep (padFrame f.body) f.ptpOff (s.txStamp p) = some new → Does (.transmitSelection p) s fun t =>
         starts t q f [] new ∧ t.regs = s.regs) ∧
       (oneStep (padFrame f.body) f.ptpOff (s.txStamp p) = none → Does (.transmitSelection p) s fun t =>
         starts t q f [] (padFrame f.body) ∧
         t.get F.TIM_ONESTEP_SKIP_CNT.CNT p = (s.get F.TIM_ONESTEP_SKIP_CNT.CNT p + 1) % 2 ^ 48)) ∧
     (s.isPort p = false ∨ s.err.mediaStopped = true ∨ (s.sending p).isSome = true →
       Does (.transmitSelection p) s fun t => t = s) ∧
     (s.sending p = some x → x.frame.pkt = none → x.queue < 8 → Does (.frameTransmitEnd p) s fun t =>
       let len := max 64 (x.bytes.length + 4)
       t.sending p = none ∧ Tbl.at none t.tm.sent p = some (wireBytes x.bytes true, true) ∧ (∀ c ∈ x.frame.cells, c ∉ t.tm.used) ∧
       t.get F.PRT_TX_FRM_CNT.CNT p = (s.get F.PRT_TX_FRM_CNT.CNT p + 1) % 2 ^ 64 ∧
       t.get F.PRT_TX_OCT_CNT.CNT p = (s.get F.PRT_TX_OCT_CNT.CNT p + len) % 2 ^ 64 ∧
       t.get F.TM_Q_TX_FRM_CNT.CNT (qkey p x.queue) = (s.get F.TM_Q_TX_FRM_CNT.CNT (qkey p x.queue) + 1) % 2 ^ 64 ∧
       t.get F.TM_Q_TX_OCT_CNT.CNT (qkey p x.queue) = (s.get F.TM_Q_TX_OCT_CNT.CNT (qkey p x.queue) + len) % 2 ^ 64 ∧
       t.get F.TM_PORT_GATE_OVR_CNT.CNT p =
         (s.get F.TM_PORT_GATE_OVR_CNT.CNT p + b2n (s.closesAt p x).isSome) % 2 ^ 48 ∧
       (x.frame.ptp = 1 → (Tbl.at [] s.tim.txq p).length < 16 → Tbl.at [] t.tim.txq p = Tbl.at [] s.tim.txq p ++
         [(wd (x.frame.ptpId * 2 ^ 56 + x.stamp / 65536000000000), wd (x.stamp % 65536000000000))]) ∧
       t.tm.queues = s.tm.queues) ∧
     (∀ id pk, s.sending p = some x → x.frame.pkt = some id → s.pkt id = some pk → pk.authOpen = true ∨ pk.fcsOpen = true →
       Does (.frameTransmitEnd p) s fun t => t = s)) ∧
  (∀ (s : State) (n : Nat), Ready s → n < 16 →
     let c := s.txRing (.media n)
     let head := c.head % c.size
     let d := s.ringRead c (c.base + head * 32) 24
     let w (k : Nat) := ofLe (slice d.bytes (8 * k) 8)
     (c.en = false ∨ head = c.tail % c.size → Does (.txRingFrame n) s fun t => t = s) ∧
     (c.en = true → head ≠ c.tail % c.size → d.stop = .ok → bitAt (w 1) 15 = true → w 1 % 16384 + 4 ≤ 9216 →
       let bs := (d.st.ringRead c (w 0 % 2 ^ 48) (w 1 % 16384)).bytes
       let port := bitsOf (w 1) 37 8
       let q := bitsOf (w 1) 34 3
       let cells := ceilDiv bs.length 256
       (d.st.ringRead c (w 0 % 2 ^ 48) (w 1 % 16384)).stop = .ok → Does (.txRingFrame n) s fun t =>
         t.get F.TM_TXR_HEAD.HEAD n = (head + 1) % c.size ∧
         (bitsOf (w 1) 46 1 = 0 → s.hasRoom (s.get F.TM_TXR_CFG.DCLASS n) cells → s.isSet F.PRT_PORT_CFG.TX_EN port = true →
           s.queueFull port q cells = false → t.isSet F.TM_TXR_CFG.EN n = true →
           t.occ = s.occ + cells ∧ ∃ cs, cs.length = cells ∧ t.queue port q = s.queue port q ++
             [{ body := bs, ring := true, cells := cs, depth := cells, cgid := bitsOf (w 1) 47 17
                srtp := 2 * bitsOf (w 1) 45 1, ptp := bitsOf (w 1) 32 2, ptpId := bitsOf (w 1) 24 8
                ptpOff := bitsOf (w 2) 0 9 }]) ∧
         ∃ v0, Tbl.at [] t.ctl.crossing 2 = Tbl.at [] s.ctl.crossing 2 ++
           [(s.get F.TM_TXR_CFG.EVQ n, [itemHeader 2 0 0 n v0, wd (head * 2 ^ 48 + 1 * 2 ^ 32)])]) ∧
     (oldestCart s.heldCarts = none → Does .heldPacketDrop s fun t => t = s) ∧
     (∀ pipe k p, oldestCart s.heldCarts = some (pipe, k) → s.pkt k.pkt = some p → Does .heldPacketDrop s fun t =>
       t.workQueue pipe = (s.workQueue pipe).filter (fun y => y.order ≠ k.order) ∧
       t.get F.TM_BUF_DROP_CNT.CNT (p.get Tag.DCLASS) = (s.get F.TM_BUF_DROP_CNT.CNT (p.get Tag.DCLASS) + 1) % 2 ^ 48 ∧
       t.get F.FWD_WQ_DROP_CNT.CNT pipe = (s.get F.FWD_WQ_DROP_CNT.CNT pipe + 1) % 2 ^ 48 ∧
       KeepsBut s t [(.TM_BUF_DROP_CNT, p.get Tag.DCLASS), (.FWD_WQ_DROP_CNT, pipe)]))

/-- Gate control lists (R156, R157, R158, R159): LOAD of a valid list waits for its base time, or, where that has passed, for
the first multiple of the cycle at least two cycles ahead, and says LATE; a list that is not valid is REFUSED and nothing
else changes; DISABLE drops both lists; at its start a list comes into force, and CUR follows the list's entries. -/
def Obligations.GateLists : Prop :=
  ∀ (s : State) (p : Nat), s.live = true →
    let n := s.get F.TM_GCL_CFG.LEN p
    let cycle := s.get F.TM_GCL_CFG.CYCLE p
    let ns := s.get F.TM_GCL_BASE_NS.NS p
    let base := s.get F.TM_GCL_BASE_SEC.SEC p * 1000000000 + ns
    let es := s.gclEntries p n
    let valid := n ≠ 0 ∧ n ≤ 128 ∧ cycle ≠ 0 ∧ ns < 1000000000 ∧ ∀ e ∈ es, e.2 ≠ 0
    let now := s.portTime p
    let others (t : State) := ∀ o, o ≠ p → Tbl.at none t.tm.gclPend o = Tbl.at none s.tm.gclPend o ∧
      Tbl.at none t.tm.gclAct o = Tbl.at none s.tm.gclAct o
    (valid → Does (.load p) s fun t => t.isSet F.TM_GCL_STATUS.PENDING p = true ∧
      t.isSet F.TM_GCL_STATUS.REFUSED p = false ∧ Tbl.at none t.tm.gclAct p = Tbl.at none s.tm.gclAct p ∧ others t ∧
      ∃ start, Tbl.at none t.tm.gclPend p = some ⟨start, cycle, es⟩ ∧
        (now ≤ base * 65536 → start = base ∧ t.isSet F.TM_GCL_STATUS.LATE p = false) ∧
        (base * 65536 < now → t.isSet F.TM_GCL_STATUS.LATE p = true ∧ (∃ k, start = base + k * cycle) ∧
          now + 2 * cycle * 65536 ≤ start * 65536 ∧ start * 65536 < now + 3 * cycle * 65536)) ∧
    (¬valid → Does (.load p) s fun t => t.isSet F.TM_GCL_STATUS.REFUSED p = true ∧
      t.get F.TM_GCL_STATUS.PENDING p = s.get F.TM_GCL_STATUS.PENDING p ∧
      t.get F.TM_GCL_STATUS.ACTIVE p = s.get F.TM_GCL_STATUS.ACTIVE p ∧
      t.get F.TM_GCL_STATUS.LATE p = s.get F.TM_GCL_STATUS.LATE p ∧
      t.get F.TM_GCL_STATUS.CUR p = s.get F.TM_GCL_STATUS.CUR p ∧ t = { s with regs := t.regs } ∧
      KeepsBut s t [(.TM_GCL_CMD, p), (.TM_GCL_STATUS, p)]) ∧
    Does (.disable p) s (fun t => Tbl.at none t.tm.gclPend p = none ∧ Tbl.at none t.tm.gclAct p = none ∧
      t.isSet F.TM_GCL_STATUS.PENDING p = false ∧ t.isSet F.TM_GCL_STATUS.ACTIVE p = false ∧ others t) ∧
    (∀ g, Tbl.at none s.tm.gclPend p = some g →
      (g.start * 65536 ≤ now → Does (.gclStart p) s fun t => Tbl.at none t.tm.gclAct p = some g ∧
        Tbl.at none t.tm.gclPend p = none ∧ t.isSet F.TM_GCL_STATUS.PENDING p = false ∧
        t.isSet F.TM_GCL_STATUS.ACTIVE p = true ∧ t.get F.TM_GCL_STATUS.CUR p = (g.at now).1 % 128 ∧ others t ∧
        KeepsBut s t [(.TM_GCL_STATUS, p)]) ∧
      (now < g.start * 65536 → Does (.gclStart p) s fun t => t = s)) ∧
    (∀ g, Tbl.at none s.tm.gclAct p = some g → Does (.gclEntryChange p) s fun t =>
      t.get F.TM_GCL_STATUS.CUR p = (g.at now).1 % 128 ∧ Only s t [(.TM_GCL_STATUS, p)])

/-! ## The dispatcher -/

/-- Acceptance (R170, R171, R173, R174): the hardware producer whose turn it is has its cart accepted under the next
sequence number; a software submission is answered DISABLED, BAD_CART, BUSY or ACCEPTED with its number, and only an
accepted one enters the store. -/
def Obligations.CartAcceptance : Prop :=
  ∀ (s : State), s.live = true → s.free = true → s.err.clkStopped = false →
    let entered (ws : List Word) (t : State) := t.work.seq = (s.work.seq + 1) % 2 ^ 32 ∧
      t.work.store.length = s.work.store.length + 1 ∧ (∃ c ∈ t.work.store, c.seq = s.work.seq ∧ c.words = ws) ∧
      t.get F.WD_ACCEPT_CNT.CNT 0 = (s.get F.WD_ACCEPT_CNT.CNT 0 + 1) % 2 ^ 64
    (∀ prod ws pkt, s.canAccept = true → s.nextProducer = some prod → s.headOf prod = some (ws, pkt) →
      s.malformed (producerKind prod) ws = false → Does .cartAccept s fun t => entered ws t ∧ t.work.turn = prod) ∧
    (s.canAccept = false ∨ s.nextProducer = none → Does .cartAccept s fun t => t = s) ∧
    (∀ h, let ws := (List.range 8).map fun i => s.reg .WD_SUB_DATA (h * 8 + i)
      let answer (r : Nat) (t : State) := t.get F.WD_SUB_RESULT.RESULT h = r ∧ t.work = s.work ∧
        KeepsBut s t [(.WD_SUB_RESULT, h), (.WD_SW_BUSY_CNT, 0)]
      (s.isSet F.WD_CFG.EN 0 = false → Does (.wdSubGo h) s (answer 4)) ∧
      (s.isSet F.WD_CFG.EN 0 = true → s.malformed .software ws = true → Does (.wdSubGo h) s (answer 3)) ∧
      (s.isSet F.WD_CFG.EN 0 = true → s.malformed .software ws = false → s.hardwareHeld = true ∨ s.work.gap ≠ 0 ∨
        s.aged = true ∨ 16384 - s.work.store.length ≤ s.get F.WD_CFG.SW_RSV 0 → Does (.wdSubGo h) s fun t => answer 2 t ∧
          t.get F.WD_SW_BUSY_CNT.CNT 0 = (s.get F.WD_SW_BUSY_CNT.CNT 0 + 1) % 2 ^ 48) ∧
      (s.isSet F.WD_CFG.EN 0 = true → s.malformed .software ws = false → s.hardwareHeld = false → s.aged = false →
        s.work.gap = 0 → s.get F.WD_CFG.SW_RSV 0 < 16384 - s.work.store.length → Does (.wdSubGo h) s fun t =>
          entered ws t ∧ t.get F.WD_SUB_RESULT.RESULT h = 1 ∧ t.get F.WD_SUB_RESULT.SEQ h = s.work.seq % 2 ^ 32))

/-- Dispatch and pre-emption (R182, R184, R187, R224, R236): the candidate that goes first starts on its core at its FUNC
with clean registers, or on its engine, or ends as a fence, and the dispatch is counted; a saved cart resumes as it was
saved; nothing is dispatched or starts in a gap. The victim of a pre-emption is saved with all its state and the waiting cart
enters the core. -/
def Obligations.Dispatches : Prop :=
  ∀ (s : State) (c : Cart) (k : Nat), s.live = true → s.err.clkStopped = false →
    let counted (t : State) := t.get F.WD_DISPATCH_CNT.CNT 0 = (s.get F.WD_DISPATCH_CNT.CNT 0 + 1) % 2 ^ 64
    let started (t : State) := t.cart c.seq = some { c with st := .running, unit := k, ran := true, started := s.clock }
    (s.work.gap ≠ 0 → Does .dispatch s fun t => t = s) ∧
    (s.work.gap = 0 → s.unplaced = none → s.cart c.seq = some c →
      (firstAction s.candidates = some (.start c k) → Does .dispatch s fun t => counted t ∧ started t ∧
        ∃ r, (t.core k).run = some r ∧ r.seq = c.seq ∧ r.words = c.words ∧ r.pc = cartFunc c.words ∧ r.flags = 0 ∧
          r.loops = [] ∧ r.chans = [] ∧ Tbl.at 0 r.g 12 = BitVec.ofNat 32 c.seq) ∧
      (firstAction s.candidates = some (.engine c k) → Does .dispatch s fun t => counted t ∧ started t ∧ t.pea = s.pea) ∧
      (firstAction s.candidates = some (.fence c) → Does .dispatch s fun t => counted t ∧
        t.cart c.seq = some { c with st := .ended, status := 0, result := 0 }) ∧
      (∀ r, firstAction s.candidates = some (.resume c k) → (s.core k).at (slotSeat c.slot) = some r → r.bad = false →
        r.parkedOn = none → c.st = .suspended → Does .dispatch s fun t => (t.core k).run = some { r with fresh := true } ∧
          (t.core k).at (slotSeat c.slot) = none ∧ t.cart c.seq = some { c with st := .running } ∧
          t.get F.WD_RESUME_CNT.CNT 0 = (s.get F.WD_RESUME_CNT.CNT 0 + 1) % 2 ^ 48)) ∧
    (∀ r n, (s.core k).run = some r → (s.core k).saving = some c.seq → (s.core k).freeSlot = some n → r.ending = none →
      s.cart c.seq = some c → r.seq ≠ c.seq → s.work.gap = 0 → Does (.preemptSave k) s fun t =>
        (t.core k).at (slotSeat n) = some r ∧ (t.core k).saving = none ∧
        (∃ r', (t.core k).run = some r' ∧ r'.seq = c.seq ∧ r'.pc = cartFunc c.words) ∧
        (∀ d ∈ t.work.store, d.seq = r.seq → d.st = .suspended ∧ d.slot = n) ∧ ∀ j, j ≠ k → t.core j = s.core j) ∧
    (s.work.gap ≠ 0 → Does (.preemptSave k) s fun t => t = s)

/-- Ends (R176, R192, R193, R195): an ended cart that its coach's mode lets go leaves the store with one completion item if
it asks for one, and any other stays; a cart of age 2^30 raises its notice once, which a gap holds (R201); a waiting or
ready cart at the expiry age ends EXPIRED and a younger one stays. -/
def Obligations.CartEnds : Prop :=
  ∀ (s : State) (c : Cart), s.live = true → s.free = true → s.err.clkStopped = false → s.cart c.seq = some c →
    (s.work.gap = 0 → s.mayRetire c = true → Does (.cartRetire c.seq) s fun t => (∀ d ∈ t.work.store, d.seq ≠ c.seq) ∧
      t.regs = s.regs ∧ Tbl.at [] t.ctl.crossing 5 = Tbl.at [] s.ctl.crossing 5 ++
        (if cartNotify c.words then [(cartEvq c.words,
          [itemHeader 5 0 1 (cartCoid c.words) (cartType c.words * 65536 + c.status), wd c.seq, c.result, 0])] else [])) ∧
    (s.work.gap ≠ 0 ∨ s.mayRetire c = false → Does (.cartRetire c.seq) s fun t => t = s) ∧
    (2 ^ 30 ≤ s.age c → c.aged = false → Does (.ageNotice c.seq) s fun t =>
      (∀ d ∈ t.work.store, d.seq = c.seq → d.aged = true) ∧ t.regs = s.regs ∧
      (s.work.gap = 0 → (Tbl.at [] t.ctl.crossing 5).length = (Tbl.at [] s.ctl.crossing 5).length + 1) ∧
      (s.work.gap ≠ 0 → t.ctl = s.ctl ∧ t.work.heldOut.length = s.work.heldOut.length + 1)) ∧
    (s.age c < 2 ^ 30 ∨ c.aged = true → Does (.ageNotice c.seq) s fun t => t = s) ∧
    (expiryAge ≤ s.age c → c.st = .waiting ∨ c.st = .ready → Does (.cartExpire c.seq) s fun t =>
      (∀ d ∈ t.work.store, d.seq = c.seq → d.st = .ended ∧ d.status = 4) ∧
      t.get F.WD_EXPIRE_CNT.CNT 0 = (s.get F.WD_EXPIRE_CNT.CNT 0 + 1) % 2 ^ 48) ∧
    (s.age c < expiryAge → Does (.cartExpire c.seq) s fun t => t = s)

/-- Coach commands (R176, R198, R199): COACH_WRITE replaces the record of a coach without carts, refuses MODE 3 and reserved
bits, refuses a change of MODE or MAXPAR while the coach holds carts, takes a change of HOLD alone, and leaves coach 0
FREE; COACH_READ returns record and counts; COACH_CANCEL ends every waiting and ready cart of the coach CANCELLED. That
BAD_FIELD comes before COACH_BUSY, and is answered for coach 0 too, is the model's choice (log 107). The fault list (R188
to R190, R198): FLT_REARM arms a parked cart; FLT_CANCEL ends a parked or armed one CANCELLED and frees its slot; FLT_READ
returns the entry; an entry that is free is refused by the first two and reads with its first bit 0. -/
def Obligations.DispatcherCommands : Prop :=
  (∀ (s : State) (i : Nat), s.live = true → s.err.clkStopped = false →
     let v := s.reg .WD_DATA 0
     let cs := s.coachCarts i
     let result (r : Nat) (t : State) := t.get F.WD_STATUS.RESULT 0 = r
     let cmd : List (Reg × Nat) := [(.WD_CMD, 0), (.WD_STATUS, 0)]
     (fld v 62 2 ≠ 3 → fld v 0 55 = 0 →
       (i ≠ 0 → cs = [] → Does (.coachWrite i) s fun t => result 0 t ∧ t.coachRec i = v ∧
         (∀ j, j ≠ i → t.coachRec j = s.coachRec j) ∧ t.work.store = s.work.store ∧ KeepsBut s t cmd) ∧
       (i ≠ 0 → cs ≠ [] → (fld v 62 2 ≠ coachMode (s.coachRec i) ∨ coachMaxpar v ≠ coachMaxpar (s.coachRec i)) →
         Does (.coachWrite i) s fun t => result 1 t ∧ Only s t cmd) ∧
       (i ≠ 0 → fld v 62 2 = coachMode (s.coachRec i) → coachMaxpar v = coachMaxpar (s.coachRec i) →
         Does (.coachWrite i) s fun t => result 0 t ∧ t.coachRec i = v ∧ (∀ j, j ≠ i → t.coachRec j = s.coachRec j) ∧
           (fld v 61 1 = 1 → t.work.store = s.work.store) ∧
           (fld v 61 1 = 0 → fld v 62 2 = 0 → ∀ c ∈ s.work.store, cartCoid c.words = i → c.st = .waiting →
             ∃ d ∈ t.work.store, d.seq = c.seq ∧ d.st = .ready) ∧ KeepsBut s t cmd)) ∧
     (fld v 62 2 = 3 ∨ fld v 0 55 ≠ 0 → Does (.coachWrite i) s fun t => result 4 t ∧ Only s t cmd) ∧
     (fld v 62 2 ≠ 3 → fld v 0 55 = 0 → Does (.coachWrite 0) s fun t => result 0 t ∧ Only s t cmd) ∧
     (∀ c rest, cs = c :: rest → Does (.coachRead i) s fun t => result 0 t ∧ t.reg .WD_DATA 0 = s.coachRec i ∧
       t.reg .WD_DATA 1 = wd (c.seq * 2 ^ 32 + (cs.filter Cart.idle).length) ∧
       t.reg .WD_DATA 2 = wd ((cs.filter Cart.active).length * 2 ^ 32 + (cs.filter fun d => d.st = .ended).length) ∧
       t = { s with regs := t.regs }) ∧
     (cs = [] → Does (.coachRead i) s fun t => result 0 t ∧ t.reg .WD_DATA 0 = s.coachRec i ∧
       fld (t.reg .WD_DATA 1) 0 32 = 0 ∧ t.reg .WD_DATA 2 = 0 ∧ t = { s with regs := t.regs, freeCtr := t.freeCtr }) ∧
     (s.work.store.Pairwise (fun a b => a.seq ≠ b.seq) → Does (.coachCancel i) s fun t => result 0 t ∧
       (∀ d ∈ t.work.store, cartCoid d.words = i → d.idle = false) ∧
       ((∀ c ∈ s.work.store, c.ran = false ∨ c.idle = false) → t.work.vt = s.work.vt) ∧
       ∀ c ∈ s.work.store, (cartCoid c.words ≠ i ∨ c.idle = false → ∃ d ∈ t.work.store, d.seq = c.seq ∧
           (d = c ∨ (c.st = .waiting ∧ d = { c with st := .ready }))) ∧
         (cartCoid c.words = i → c.idle = true → ∃ d ∈ t.work.store, d.seq = c.seq ∧ d.st = .ended ∧ d.status = 3))) ∧
  (∀ (s : State) (n : Nat), s.live = true → s.err.clkStopped = false → n < 1024 →
     let result (r : Nat) (t : State) := t.get F.WD_STATUS.RESULT 0 = r
     let cmd : List (Reg × Nat) := [(.WD_CMD, 0), (.WD_STATUS, 0)]
     (s.faultEntry n = none → (∀ c ∈ [Instr.fltRearm n, .fltCancel n], Does c s fun t => result 2 t ∧ Only s t cmd) ∧
       Does (.fltRead n) s fun t => result 0 t ∧ fld (t.reg .WD_DATA 0) 63 1 = 0 ∧ t.work = s.work) ∧
     (∀ c r, s.faultEntry n = some (c, r) →
       (c.st = .parked → Does (.fltRearm n) s fun t => result 0 t ∧ KeepsBut s t cmd ∧ t.pea = s.pea ∧
         ∀ d ∈ t.work.store, d.seq = c.seq → d.st = .armed) ∧
       (c.st = .armed → Does (.fltRearm n) s fun t => result 2 t ∧ Only s t cmd) ∧
       Does (.fltCancel n) s (fun t => result 0 t ∧ (∀ d ∈ t.work.store, d.seq = c.seq → d.st = .ended ∧ d.status = 3) ∧
         t.get F.WD_CANCEL_CNT.CNT 0 = (s.get F.WD_CANCEL_CNT.CNT 0 + 1) % 2 ^ 48 ∧
         (c.unit = n / 2 → c.slot = n % 2 → (t.core (n / 2)).at (slotSeat (n % 2)) = none)) ∧
       (c.seq < 2 ^ 32 → Does (.fltRead n) s fun t => result 0 t ∧ fld (t.reg .WD_DATA 0) 63 1 = 1 ∧
         fld (t.reg .WD_DATA 0) 62 1 = b2n (decide (c.st = .armed)) ∧ fld (t.reg .WD_DATA 0) 40 16 = cartCoid c.words ∧
         t.reg .WD_DATA 2 = wd (r.pc % 4096) ∧ t = { s with regs := t.regs })))

/-- Pools and sides (R185, R200 to R203): a pool without ready or running carts takes a write of its configuration or mask,
a busy one sets CFG_ERR; a mismatch with one side flagged, before it or in the cycles after it, retires that side and opens
the switchover gap, with none or both it raises a Fatal error; the release ends the gap and sends what it held; SWAP opens
its own gap, at whose end the other side is active, and which a mismatch gives up. -/
def Obligations.PoolsAndSides : Prop :=
  ∀ (s : State) (p : Nat) (v : Word), s.live = true → s.free = true → s.err.clkStopped = false →
    let busy := ∃ c ∈ s.work.store, engineKind (cartType c.words) ≠ 0 ∧ cartPool c.words = p ∧
      (c.st = .ready ∨ c.st = .running)
    let both := s.isSet F.WD_LOCK_STATUS.A_OFF 0 = false ∧ s.isSet F.WD_LOCK_STATUS.B_OFF 0 = false
    (¬busy → Does (.wdPoolCfgWrite p false v) s (fun t => t.get F.WD_POOL_CFG.KIND p = fld v 0 2 ∧
        t.isSet F.WD_POOL_CFG.CFG_ERR p = false ∧ Only s t [(.WD_POOL_CFG, p)]) ∧
      Does (.wdPoolCfgWrite p true v) s (fun t => t.reg .WD_POOL_MASK p = v ∧
        t.isSet F.WD_POOL_CFG.CFG_ERR p = false ∧ Only s t [(.WD_POOL_CFG, p), (.WD_POOL_MASK, p)])) ∧
    (busy → ∀ mask, Does (.wdPoolCfgWrite p mask v) s fun t => t.isSet F.WD_POOL_CFG.CFG_ERR p = true ∧
      t.get F.WD_POOL_CFG.KIND p = s.get F.WD_POOL_CFG.KIND p ∧ Only s t [(.WD_POOL_CFG, p)]) ∧
    (both → s.work.gap = 0 ∨ s.work.gap = 2 → ∀ fa fb : Bool,
      let a := fa || s.sideFlagged 0
      let b := fb || s.sideFlagged 1
      (a ≠ b → Does (.sideMismatch fa fb) s fun t => t.work.gap = 1 ∧ t.isSet F.WD_LOCK_STATUS.GAP 0 = true ∧
        t.isSet F.WD_LOCK_STATUS.B_OFF 0 = b ∧ t.isSet F.WD_LOCK_STATUS.A_OFF 0 = a ∧
        t.isSet F.WD_LOCK_STATUS.ACTIVE 0 = a ∧ t.isSet F.WD_LOCK_CMD.SWAP 0 = false ∧
        t.get F.WD_MISMATCH_CNT.CNT 0 = (s.get F.WD_MISMATCH_CNT.CNT 0 + 1) % 2 ^ 48) ∧
      (a = b → Does (.sideMismatch fa fb) s fun t => t.work.gap = 3 ∧ t.isSet F.WD_LOCK_STATUS.GAP 0 = true ∧
        t.isSet F.WD_LOCK_CMD.SWAP 0 = false ∧ bitAt (t.reg .ERR_STATUS 0).toNat 3 = true)) ∧
    (∀ side, side < 2 → (s.flagSide side).sideFlagged side = true) ∧
    (both → s.work.gap = 0 →
      Does .swap s (fun t => t.work.gap = 2 ∧ t.isSet F.WD_LOCK_STATUS.GAP 0 = true ∧
        t.isSet F.WD_LOCK_CMD.SWAP 0 = true ∧ t.isSet F.WD_LOCK_STATUS.ACTIVE 0 = s.isSet F.WD_LOCK_STATUS.ACTIVE 0 ∧
        t.ctl = s.ctl) ∧
      (bitAt s.ctl.ryuAccepted 4 = true → Does .autoSwap s fun t => t.work.gap = 2 ∧
        t.isSet F.WD_LOCK_CMD.SWAP 0 = true)) ∧
    (¬both ∨ s.work.gap ≠ 0 → Does .swap s fun t => t = s) ∧
    (bitAt s.ctl.ryuAccepted 4 = false → Does .autoSwap s fun t => t = s) ∧
    (s.work.gap = 1 → Does .switchoverRelease s fun t => t.work.gap = 0 ∧ t.isSet F.WD_LOCK_STATUS.GAP 0 = false ∧
      t.work.heldOut = [] ∧ ∃ o, Tbl.at [] t.ctl.crossing 5 = Tbl.at [] s.ctl.crossing 5 ++ s.work.heldOut ++ [o]) ∧
    (s.work.gap = 2 → Does .swapDone s fun t => t.work.gap = 0 ∧ t.isSet F.WD_LOCK_STATUS.GAP 0 = false ∧
      t.isSet F.WD_LOCK_CMD.SWAP 0 = false ∧ t.isSet F.WD_LOCK_STATUS.ACTIVE 0 = !s.isSet F.WD_LOCK_STATUS.ACTIVE 0 ∧
      t.get F.WD_SWAP_CNT.CNT 0 = (s.get F.WD_SWAP_CNT.CNT 0 + 1) % 2 ^ 48 ∧
      t.work.heldOut = [] ∧ ∃ o, Tbl.at [] t.ctl.crossing 5 = Tbl.at [] s.ctl.crossing 5 ++ s.work.heldOut ++ [o])

/-! ## Pea cores -/

/-- Bundles of three slots (R241, R242, R243, R249, R250, R251): with no slot refused, the compute operation and both moves
read the registers and memories as they stood at issue, X before Y, and the cart goes on; in a staged bundle a slot whose
guard bit of STG is 0 has no effect and no exception, the others theirs; the exceptions come in the order compute, X, Y; a
bundle with a reserved encoding raises ILLEGAL, a fetch past the last bundle raises its own. Long bundles (R247, R251,
R261): LDI and LDIP write their immediate, ADDIL the wrapped sum and its flags, CMPIL the flags of the difference alone;
the Y move beside them reads what stood at issue; the cart goes on. A refused Y move raises its exception. -/
def Obligations.Bundles : Prop :=
  (∀ (s : State) (k : Nat) (r : PeaRun) (w : Word),
     (Issues s k r w → bf w 62 2 = 0 →
       (lcRefused r w = false → moveFault k r w 16 false = none → moveFault k r w 0 true = none →
         let x := moveOp k r s.pea w 16 false (computeOp r r w, s.pea)
         let y := moveOp k r s.pea w 0 true x
         Does (.standardBundle k) s (PeaGoes s k y.1.advance y.2)) ∧
       (lcRefused r w = true → Excepts (.standardBundle k) s k r ⟨5, 0⟩) ∧
       (∀ e, lcRefused r w = false → moveFault k r w 16 false = some e → Excepts (.standardBundle k) s k r e) ∧
       (∀ e, lcRefused r w = false → moveFault k r w 16 false = none → moveFault k r w 0 true = some e →
         Excepts (.standardBundle k) s k r e)) ∧
     (Issues s k r w → bf w 62 2 = 3 →
       let on (i : Nat) := bitAt (stgOf r.flags) (bf w i 3)
       (on 59 = false → on 16 = false → on 0 = false → Does (.stagedBundle k) s (PeaGoes s k r.advance s.pea)) ∧
       ((on 59 = true → lcRefused r w = false) → (on 16 = true → moveFault k r w 16 false = none) →
         (on 0 = true → moveFault k r w 0 true = none) →
         let c := if on 59 then computeOp r r w else r
         let x := if on 16 then moveOp k r s.pea w 16 false (c, s.pea) else (c, s.pea)
         let y := if on 0 then moveOp k r s.pea w 0 true x else x
         Does (.stagedBundle k) s (PeaGoes s k y.1.advance y.2)) ∧
       (on 59 = true → lcRefused r w = true → Excepts (.stagedBundle k) s k r ⟨5, 0⟩) ∧
       (∀ e, (on 59 = true → lcRefused r w = false) → on 16 = true → moveFault k r w 16 false = some e →
         Excepts (.stagedBundle k) s k r e) ∧
       (∀ e, (on 59 = true → lcRefused r w = false) → (on 16 = true → moveFault k r w 16 false = none) → on 0 = true →
         moveFault k r w 0 true = some e → Excepts (.stagedBundle k) s k r e)) ∧
     (s.live = true → s.err.clkStopped = false → s.issuable k = some r →
       (4096 ≤ r.pc → Excepts (.standardBundle k) s k r ⟨4, 0⟩) ∧
       (r.pc < 4096 → s.bundle k r = w → bundleLegal w = false →
         (bf w 62 2 = 0 → Excepts (.standardBundle k) s k r ⟨1, 0⟩) ∧
         (bf w 62 2 = 3 → Excepts (.stagedBundle k) s k r ⟨1, 0⟩)))) ∧
  (∀ (s : State) (k : Nat) (r : PeaRun) (w : Word), Issues s k r w → bf w 62 2 = 1 →
     let d := bf w 50 5
     let v := BitVec.ofNat 32 (bf w 16 32)
     let a := r.gr d
     let goes (r' : PeaRun) (t : State) :=
       let y := moveOp k r s.pea w 0 true (r', s.pea)
       PeaGoes s k y.1.advance y.2 t
     (moveFault k r w 0 true = none →
       (bf w 55 7 = 1 → Does (.ldi k) s (goes { r with g := Tbl.put 0 r.g (gphys r.rot d) v })) ∧
       (bf w 55 7 = 2 → Does (.ldip k) s (goes { r with pu := Tbl.put 0 r.pu d (v.setWidth 24) })) ∧
       (bf w 55 7 = 3 → Does (.addil k) s (goes { r with
         g := Tbl.put 0 r.g (gphys r.rot d) (a + v), flags := (addFlags a v).flags r.flags })) ∧
       (bf w 55 7 = 4 → Does (.cmpil k) s (goes { r with
         flags := ({ subFlags a v with write := false } : AluOut).flags r.flags }))) ∧
     (∀ e, moveFault k r w 0 true = some e → (bf w 55 7 = 1 → Excepts (.ldi k) s k r e) ∧
       (bf w 55 7 = 2 → Excepts (.ldip k) s k r e) ∧ (bf w 55 7 = 3 → Excepts (.addil k) s k r e) ∧
       (bf w 55 7 = 4 → Excepts (.cmpil k) s k r e)))

/-- Arithmetic of the compute slot (R252, R253): sums wrap with C the carry and V the signed overflow, the saturating sum
clips and says SAT, shifts take the low six bits of B, and CMP writes no register. Accumulators (R211, R212, R213): a Q15
product is exact in its place; a result past 72 bits saturates; a store rounds half to even where it rounds, and saturates
to its format of n bits and says so. -/
def Obligations.PeaArithmetic : Prop :=
  (∀ (a b : BitVec 32) (imm : Int),
     (alu 0x01 a b imm).val = a + b ∧
     (alu 0x01 a b imm).c = some (decide (2 ^ 32 ≤ a.toNat + b.toNat)) ∧
     (alu 0x01 a b imm).v = some (decide (a.toInt + b.toInt ≠ (a + b).toInt)) ∧
     ((alu 0x03 a b imm).val.toInt = if a.toInt + b.toInt < -2147483648 then -2147483648
       else if 2147483647 < a.toInt + b.toInt then 2147483647 else a.toInt + b.toInt) ∧
     ((alu 0x03 a b imm).sat = decide (a.toInt + b.toInt ≠ (a + b).toInt)) ∧
     ((alu 0x10 a b imm).val.toNat = a.toNat * 2 ^ (b.toNat % 64) % 2 ^ 32) ∧
     ((alu 0x12 a b imm).val.toInt = a.toInt / 2 ^ (b.toNat % 64)) ∧
     (alu 0x18 a b imm).write = false ∧
     ((alu 0x0D a b imm).val.toInt = if a.toInt = -2147483648 then 2147483647 else (a.toInt.natAbs : Int))) ∧
  ((∀ (a b : BitVec 32) (ha hb : Bool), product 0 a b ha hb = halfOf a ha * halfOf b hb * 2 ^ 33) ∧
   (∀ z : Int, (satAcc z).1.toInt = if z < -(2 ^ 71 : Int) then -(2 ^ 71 : Int)
       else if (2 ^ 71 : Int) - 1 < z then (2 ^ 71 : Int) - 1 else z) ∧
   (∀ z : Int, (satAcc z).2 = decide (z < -(2 ^ 71 : Int) ∨ (2 ^ 71 : Int) ≤ z)) ∧
   (∀ (z : Int) (n : Nat), 0 < n →
     2 * (shiftRound z n true * 2 ^ n - z).natAbs ≤ 2 ^ n ∧
     (2 * (shiftRound z n true * 2 ^ n - z).natAbs = 2 ^ n → shiftRound z n true % 2 = 0)) ∧
   (∀ (z : Int) (n : Nat), shiftRound z n false = z / 2 ^ n) ∧
   (∀ (a : BitVec 72) (sh n : Nat) (rnd : Bool), 0 < n →
     let z := shiftRound a.toInt sh rnd
     let lo : Int := -(2 ^ (n - 1) : Int)
     let hi : Int := 2 ^ (n - 1) - 1
     (lo ≤ z → z ≤ hi → accStore a sh n rnd = (z, false)) ∧
     (z < lo → accStore a sh n rnd = (lo, true)) ∧ (hi < z → accStore a sh n rnd = (hi, true))))

/-- Control bundles that stay in the core (R262, R263, R266, R267): NOP goes on; BR, CALL and JR transfer control, BRC when
its condition holds; LOOP opens a level for its body, a count of 0 skips it; a transfer in the end bundle of a loop, and a
LOOP that R267 refuses, raise LOOP. -/
def Obligations.ControlBundles : Prop :=
  ∀ (s : State) (k : Nat) (r : PeaRun) (w : Word), Issues s k r w → bf w 62 2 = 2 →
    let op := bf w 56 6
    let tgt := bf w 0 12
    let goes (r' : PeaRun) := PeaGoes s k r' s.pea
    (op = 0 → Does (.controlNop k) s (goes r.advance)) ∧
    (r.atEnd = false →
      (op = 1 → Does (.br k) s (goes (r.branch tgt))) ∧
      (op = 2 → condHolds (bf w 52 4) r.flags = true → Does (.brc k) s (goes (r.branch tgt))) ∧
      (op = 2 → condHolds (bf w 52 4) r.flags = false → Does (.brc k) s (goes r.advance)) ∧
      (op = 3 → Does (.call k) s
        (goes ({ r with g := Tbl.put 0 r.g (gphys r.rot (bf w 46 5)) (BitVec.ofNat 32 (r.pc + 1)) }.branch tgt))) ∧
      (op = 4 → Does (.jr k) s (goes (r.branch ((r.gr (bf w 46 5)).toNat % 4096)))) ∧
      (op = 5 → loopRefused r w = false → loopCount r w ≠ 0 → Does (.loop k) s fun t => ∃ r', goes r' t ∧
        r'.pc = r.pc + 1 ∧ r'.loops.length = r.loops.length + 1 ∧ r'.g = r.g ∧
        Tbl.at 0 r'.lc r.loops.length = loopCount r w + bf w 52 3 ∧
        r'.loops.getLast? = some ⟨r.pc + 1, tgt, bf w 52 3 + 1, decide (bf w 55 1 = 1), loopCount r w, 0⟩) ∧
      (op = 5 → loopRefused r w = false → loopCount r w = 0 → Does (.loop k) s (goes (r.branch (tgt + 1))))) ∧
    (r.atEnd = true →
      (op = 1 → Excepts (.br k) s k r ⟨5, 0⟩) ∧ (op = 2 → Excepts (.brc k) s k r ⟨5, 0⟩) ∧
      (op = 3 → Excepts (.call k) s k r ⟨5, 0⟩) ∧ (op = 4 → Excepts (.jr k) s k r ⟨5, 0⟩)) ∧
    (op = 5 → loopRefused r w = true → Excepts (.loop k) s k r ⟨5, 0⟩)

/-- Hardware loops (R217, R218, R219, R266): outside a loop's end bundle a cart goes on at the next index with its registers
kept; at the end bundle of the innermost loop lc falls by one and the body runs again from its first bundle, rotated where
the loop rotates; at lc 1 the loop ends and the next index follows. A taken branch ends the loops whose body does not hold
its target. -/
def Obligations.HardwareLoops : Prop :=
  ∀ (r : PeaRun) (l : PeaLoop) (outer : List PeaLoop),
    ((∀ m ∈ r.loops, m.last ≠ r.pc) → r.advance = { r with pc := r.pc + 1, fresh := false }) ∧
    (r.loops = outer ++ [l] → r.pc = l.last → Tbl.at 0 r.lc outer.length ≠ 1 → Tbl.at 0 r.lc outer.length ≠ 0 →
      r.advance.pc = l.first ∧ Tbl.at 0 r.advance.lc outer.length = Tbl.at 0 r.lc outer.length - 1 ∧
      r.advance.loops = outer ++ [{ l with iter := l.iter + 1 }] ∧
      r.advance.rot = (if l.rotate then (r.rot + 15) % 16 else r.rot) ∧ r.advance.g = r.g) ∧
    (r.loops = [l] → r.pc = l.last → Tbl.at 0 r.lc 0 = 1 →
      r.advance.pc = r.pc + 1 ∧ r.advance.loops = [] ∧ stgOf r.advance.flags = 0 ∧ r.advance.g = r.g) ∧
    (∀ tgt, (r.branch tgt).pc = tgt ∧ (r.branch tgt).g = r.g ∧ ∀ m ∈ (r.branch tgt).loops, m.first ≤ tgt ∧ tgt ≤ m.last)

/-- What a cart does outside its core (R225, R226, R230): EXIT with no channel busy or faulted ends the cart with g1 and g0 as
RESULT and frees the core; DMA issues a descriptor that is not refused on a channel that is idle; DWAIT of an idle channel
writes its status; SUBMIT puts eight words at the pod's port and waits. EXIT, DMA and DWAIT stall on a busy channel. -/
def Obligations.CartServices : Prop :=
  ∀ (s : State) (k : Nat) (r : PeaRun) (w : Word), Issues s k r w → s.free = true → bf w 62 2 = 2 →
    let op := bf w 56 6
    let ch := bf w 52 2
    let a := ((r.gr (bf w 46 5)).toNat + bf w 16 16) % 2 ^ 24
    let local_ (n : Nat) := Tbl.getList 0 s.pea.x (k * 65536 + r.half * 32768 + a) n
    let stalls (t : State) := t = s.stall k
    let c : Chan := Tbl.at {} r.chans ch
    let issued : Chan :=
      { desc := bytesWords 3 (local_ 24), active := true, domain := s.get F.PEA_POD_CFG.DOMAIN (k / 16) }
    (op = 6 → r.faulted = none → r.moving = false → Does (.exit k) s fun t =>
      (t.core k).run = none ∧ (∀ d ∈ t.work.store, d.seq = r.seq → d.st = .ended ∧ d.status = bf w 52 1 ∧
        d.result = wd ((r.gr 1).toNat * 2 ^ 32 + (r.gr 0).toNat)) ∧ (∀ j, j ≠ k → t.core j = s.core j) ∧ t.regs = s.regs) ∧
    (op = 6 → r.faulted = none → r.moving = true → Does (.exit k) s stalls) ∧
    (op = 7 → a + 32 ≤ 0x8000 → a % 8 = 0 → c.fault = none →
      (s.chanBusy k ch = true → Does (.dma k) s stalls) ∧
      (s.chanBusy k ch = false → dmaRefused k r (bytesWords 3 (local_ 24)) = false →
        Does (.dma k) s (PeaGoes s k { r with chans := Tbl.put {} r.chans ch issued }.advance s.pea)) ∧
      (s.chanBusy k ch = false → dmaRefused k r (bytesWords 3 (local_ 24)) = true → Excepts (.dma k) s k r ⟨6, 0⟩)) ∧
    (op = 7 → 0x8000 < a + 32 → Excepts (.dma k) s k r ⟨2, a⟩) ∧
    (op = 7 → a + 32 ≤ 0x8000 → a % 8 ≠ 0 → Excepts (.dma k) s k r ⟨3, a⟩) ∧
    (op = 8 → c.fault = none →
      (c.active = true → Does (.dwait k) s stalls) ∧
      (c.active = false → Does (.dwait k) s
        (PeaGoes s k { r with g := Tbl.put 0 r.g (gphys r.rot (bf w 46 5)) c.status }.advance s.pea))) ∧
    (op = 9 → a + 64 ≤ 0x8000 → a % 64 = 0 → Does (.submit k) s fun t =>
      Tbl.at [] t.work.port (k / 16) = Tbl.at [] s.work.port (k / 16) ++
        [⟨k, bytesWords 8 (local_ 64), gphys r.rot (bf w 41 5)⟩] ∧
      (t.core k).submitting = true ∧ (t.core k).run = some r ∧ t.work.store = s.work.store)

/-- Pod DMA between local memory, sample memory, packets and the injection queues (R227, R232, R233): a transfer of a running
cart moves its bytes, ends its channel with the bytes done and counts them on its pod; an injection queue that is full
holds it; PKT_FREE and a releasing PKT_RD give up the packet's cells, once: the last holder frees them, a cart that has
released its packet releases nothing more. HBM transfers of a pod (R232, R234, 12 R362): what the translated access gives
is what the transfer gives: with no fault all of it is done and its bytes are moved; a translation fault stays on the
channel with the address and the direction, an uncorrectable error shows in its status; a held access waits at its port,
and nothing of the transfer happens. The pod memory window (R239): a write within SPACE reaches pod-shared memory, or X, Y
or program memory of the named cores that have EN 0 and are idle, with MEM_ERR where another is named; a read returns
eight bytes; each advances ADDR by 8 modulo the size of SPACE; past the end of SPACE a write is discarded with MEM_ERR,
and a read gives zero with it. -/
def Obligations.PodTransfers : Prop :=
  (∀ (s : State) (k ch : Nat) (r : PeaRun), s.live = true → s.err.clkStopped = false →
     (s.core k).run = some r → r.ending = none → (s.core k).slot0 = none → (s.core k).slot1 = none →
     let c : Chan := Tbl.at {} r.chans ch
     let d := c.desc
     let n := dmaLen d
     c.active = true → c.done = 0 →
     let ended (bytes : Nat) (r' : PeaRun) (t : State) := (t.core k).run = some r' ∧
       (Tbl.at {} r'.chans ch).active = false ∧ (Tbl.at {} r'.chans ch).done = bytes ∧ r'.g = r.g ∧ r'.pc = r.pc ∧
       t.get F.PEA_POD_DMA_OCT_CNT.CNT (k / 16) = (s.get F.PEA_POD_DMA_OCT_CNT.CNT (k / 16) + bytes) % 2 ^ 64
     let done (bytes : Nat) (t : State) := ∃ r', ended bytes r' t ∧ r'.released = r.released
     let freed (bytes : Nat) (p : Pkt) (t : State) := (∃ r', ended bytes r' t ∧ r'.released = true) ∧
       (p.holds ≤ 1 → t.tm.used = s.tm.used.filter fun x => x ∉ p.cells) ∧ (1 < p.holds → t.tm.used = s.tm.used)
     (dmaKind d = 4 →
       (r.released = true → Does (.pktFree k ch) s fun t => done 0 t ∧ t.tm = s.tm) ∧
       (∀ id p, r.released = false → cartType r.words = 0x02 → r.pkt = some id → s.pkt id = some p →
         Does (.pktFree k ch) s (freed 0 p))) ∧
     ∀ sp i, placeOf k r.half (dmaY d) (dmaLocal d) n = some (sp, i) →
       (∀ id p, dmaKind d = 3 → r.released = false → r.pkt = some id → s.pkt id = some p →
         let data := ((s.pktBytes p).drop (dmaRemote d 32 14)).take n
         (dmaRelease d = false → Does (.pktRd k ch) s fun t => done data.length t ∧ t.pea.load sp i data.length = data ∧
           t.tm = s.tm) ∧
         (dmaRelease d = true → cartType r.words = 0x02 → Does (.pktRd k ch) s fun t => freed data.length p t ∧
           t.pea.load sp i data.length = data)) ∧
       (dmaKind d = 3 → r.released = true → Does (.pktRd k ch) s fun t => t.tm = s.tm) ∧
       (dmaKind d = 5 →
         (256 ≤ (Tbl.at [] s.ing.injq (dmaRemote d 20 3)).length → Does (.inject k ch) s fun t => t = s) ∧
         ((Tbl.at [] s.ing.injq (dmaRemote d 20 3)).length < 256 → Does (.inject k ch) s fun t => done n t ∧
           Tbl.at [] t.ing.injq (dmaRemote d 20 3) = Tbl.at [] s.ing.injq (dmaRemote d 20 3) ++
             [⟨dmaRemote d 0 20, s.pea.load sp i n, d.getD 2 0⟩])) ∧
       (dmaKind d = 6 → Does (.smpWr k ch) s fun t => done n t ∧
         ∀ j, j < n / 4 → dmaRemote d 0 22 / 4 + j ∉ t.mix.bad ∧ Tbl.at 0 t.mix.smem (dmaRemote d 0 22 / 4 + j) =
           BitVec.ofNat 32 (ofLe (slice ((s.pea.load sp i n).drop (4 * j)) 0 4))) ∧
       (dmaKind d = 7 → Does (.smpRd k ch) s fun t => done n t ∧ t.mix = s.mix ∧
         ((∀ j, j < n / 4 → dmaRemote d 0 22 / 4 + j ∉ s.mix.bad) → ∀ j, j < n / 4 →
           t.pea.load sp (i + 4 * j) 4 = leBytes 4 (Tbl.at 0 s.mix.smem (dmaRemote d 0 22 / 4 + j)).toNat))) ∧
  (∀ (s : State) (k ch : Nat) (r : PeaRun) (sp : PeaSpace) (i : Nat), s.live = true → s.free = true →
     s.err.clkStopped = false → (s.core k).run = some r → r.ending = none → (s.core k).slot0 = none →
     (s.core k).slot1 = none →
     let c : Chan := Tbl.at {} r.chans ch
     let d := c.desc
     let n := dmaLen d
     let iova := dmaRemote d 0 48
     let src : Src := ⟨3 + k / 128, k, c.domain, 4 * k + ch⟩
     let chan (t : State) (P : Chan → Prop) := ∃ r', (t.core k).run = some r' ∧ P (Tbl.at {} r'.chans ch)
     let waits (t : State) := t = { s with hbm := { s.hbm with held := t.hbm.held } } ∧ t.hbm.held ≠ [] ∧
       ∀ x ∈ s.hbm.held, x ∈ t.hbm.held
     let ends (o : MemOut) (write : Bool) (t : State) :=
       (o.stop = .xlate → chan t fun x =>
         x.active = false ∧ x.done = o.done ∧ x.fault = some ((iova + o.done) % 2 ^ 48, write)) ∧
       (o.stop = .memErr → chan t fun x => x.active = false ∧ x.done = o.done ∧ x.memErr = true)
     c.active = true → c.done = 0 → placeOf k r.half (dmaY d) (dmaLocal d) n = some (sp, i) →
     (dmaKind d = 1 → let o := s.vread src iova n
       (o.st.hbm.blocked = none → o.stop = .ok → o.done = n → o.bytes.length = n → Does (.hbmRd k ch) s fun t => t.pea.load sp i n = o.bytes ∧
         t.hbm = o.st.hbm ∧ chan t fun x => x.active = false ∧ x.done = n ∧ x.fault = c.fault) ∧
       (o.st.hbm.blocked = none → Does (.hbmRd k ch) s (ends o false)) ∧
       (o.st.hbm.blocked ≠ none → Does (.hbmRd k ch) s waits)) ∧
     (dmaKind d = 2 → let o := s.vwrite src iova (s.pea.load sp i n)
       (o.st.hbm.blocked = none → o.stop = .ok → o.done = n → Does (.hbmWr k ch) s fun t => t.hbm = o.st.hbm ∧ t.pea.x = s.pea.x ∧
         chan t fun x => x.active = false ∧ x.done = n ∧ x.fault = c.fault) ∧
       (o.st.hbm.blocked = none → Does (.hbmWr k ch) s (ends o true)) ∧
       (o.st.hbm.blocked ≠ none → Does (.hbmWr k ch) s waits))) ∧
  (∀ (s : State) (pod hart : Nat) (v : Word), s.live = true → s.err.clkStopped = false →
     let sp := s.get F.PEA_POD_MEM_ADDR.SPACE pod
     let a := s.get F.PEA_POD_MEM_ADDR.ADDR pod / 8 * 8
     let next (t : State) := t.get F.PEA_POD_MEM_ADDR.ADDR pod = (a + 8) % spaceBytes sp
     let named (j : Nat) := bitAt (s.get F.PEA_POD_MEM_ADDR.CORE_MASK pod) j
     let takes (j : Nat) : Prop := named j = true ∧ s.isSet F.PEA_CORE_CFG.EN (pod * 16 + j) = false ∧
       (s.core (pod * 16 + j)).runState = 0
     let hurt (t : State) := t.isSet F.PEA_POD_MEM_STATUS.MEM_ERR pod = true ↔ ∃ j, j < 16 ∧ named j = true ∧ ¬takes j
     let at8 (m : Tbl Byte) (j : Nat) := Tbl.getList 0 m ((pod * 16 + j) * 65536 + a) 8
     let lands (m m' : Tbl Byte) := ∀ j, j < 16 → (takes j → at8 m' j = leBytes 8 v.toNat) ∧ (¬takes j → at8 m' j = at8 m j)
     (a < spaceBytes sp → sp = 3 → Does (.podMemDataAccess hart pod true v) s fun t => next t ∧
       Tbl.getList 0 t.pea.shared (pod * 16 / 16 * 2 ^ 20 + a) 8 = leBytes 8 v.toNat ∧
       t.isSet F.PEA_POD_MEM_STATUS.MEM_ERR pod = false ∧ t.pea = { s.pea with shared := t.pea.shared }) ∧
     (a < spaceBytes sp → sp = 0 → Does (.podMemDataAccess hart pod true v) s fun t => next t ∧ hurt t ∧
       lands s.pea.x t.pea.x ∧ t.pea = { s.pea with x := t.pea.x }) ∧
     (a < spaceBytes sp → sp = 1 → Does (.podMemDataAccess hart pod true v) s fun t => next t ∧ hurt t ∧
       lands s.pea.y t.pea.y ∧ t.pea = { s.pea with y := t.pea.y }) ∧
     (a < spaceBytes sp → sp = 2 → Does (.podMemDataAccess hart pod true v) s fun t => next t ∧ hurt t ∧
       t.pea = { s.pea with prog := t.pea.prog } ∧ ∀ j, j < 16 →
         let i := (pod * 16 + j) * 4096 + a / 8
         (takes j → Tbl.at 0 t.pea.prog i = v) ∧ (¬takes j → Tbl.at 0 t.pea.prog i = Tbl.at 0 s.pea.prog i)) ∧
     (a < spaceBytes sp → Does (.podMemDataAccess hart pod false v) s fun t => next t ∧ t.pea = s.pea ∧
       Tbl.at 0 t.hart.resp hart = s.podRead (pod * 16 + s.get F.PEA_POD_MEM_ADDR.CORE pod) sp a) ∧
     (spaceBytes sp ≤ a →
       Does (.podMemDataAccess hart pod true v) s (fun t => next t ∧ t.pea = s.pea ∧
         t.isSet F.PEA_POD_MEM_STATUS.MEM_ERR pod = true) ∧
       Does (.podMemDataAccess hart pod false v) s (fun t => next t ∧ t.pea = s.pea ∧ Tbl.at 0 t.hart.resp hart = 0 ∧
         t.isSet F.PEA_POD_MEM_STATUS.MEM_ERR pod = true)))

/-! ## Voxotte -/

/-- Accumulator instructions (R277, R278, R279, R280): ACLR clears, AMOV copies, AADD and ASUB add and subtract, MAC and MSU
add and subtract sample times gain exactly, MACR and MSUR with the ramped gain of each lane; every lane saturates to 48
bits, lanes beyond the domain's and every other register stay, and the block goes on. Work-register instructions (R278,
R281, R284): ATW narrows an accumulator with rounding half to even and saturation to 24 bits, WMOV copies, WCLR clears;
BDN and BUP put the narrowed outputs of their bridge's filter and keep the newest samples as its state; other registers
stay and the block goes on. NOP only goes on; END ends the block's program. -/
def Obligations.MixArithmetic : Prop :=
  (∀ (s : State) (e : Nat) (r : MixRun) (w : Word),
     let n := lanesOf (fld w 56 2)
     let ad := fld w 45 3
     let as := fld w 42 3
     let ws := fld w 48 4
     let gain (lo : Nat) : Int := if fld w 41 1 = 1 then (Tbl.at 0 (s.mixEng e).used (fld w lo 12)).toInt
       else sext (fld w lo 16) 16
     let ramp (i : Nat) : Int := gain 25 + Int.tdiv ((gain 9 - gain 25) * (i + 1)) n
     let sets (f : Nat → Int) (t : State) :=
       (∀ i, i < n → t.mixAcc e ad i = clampInt (f i) (-140737488355328) 140737488355327) ∧
       (∀ j, j < ad * 48 ∨ ad * 48 + n ≤ j → Tbl.at 0 (t.mixEng e).a j = Tbl.at 0 (s.mixEng e).a j) ∧
       (t.mixEng e).w = (s.mixEng e).w ∧ MixGoes s t e r w ∧ t.mix.smem = s.mix.smem ∧ KeepsBut s t [(.MIX_ENG_SAT_CNT, e)]
     (MixIssues s e 0x08 r w → Does (.mixAclr e) s (sets fun _ => 0)) ∧
     (MixIssues s e 0x09 r w → Does (.mixAmov e) s (sets fun i => s.mixAcc e as i)) ∧
     (MixIssues s e 0x0A r w → Does (.mixAadd e) s (sets fun i => s.mixAcc e ad i + s.mixAcc e as i)) ∧
     (MixIssues s e 0x0B r w → Does (.mixAsub e) s (sets fun i => s.mixAcc e ad i - s.mixAcc e as i)) ∧
     (MixIssues s e 0x0C r w → Does (.mixMac e) s (sets fun i => s.mixAcc e ad i + s.mixLane e ws i * gain 25)) ∧
     (MixIssues s e 0x0D r w → Does (.mixMsu e) s (sets fun i => s.mixAcc e ad i - s.mixLane e ws i * gain 25)) ∧
     (MixIssues s e 0x0E r w → Does (.macr e) s (sets fun i => s.mixAcc e ad i + s.mixLane e ws i * ramp i)) ∧
     (MixIssues s e 0x0F r w → Does (.msur e) s (sets fun i => s.mixAcc e ad i - s.mixLane e ws i * ramp i))) ∧
  (∀ (s : State) (e : Nat) (r : MixRun) (w : Word),
     let n := lanesOf (fld w 56 2)
     let wr := fld w 52 4
     let keeps (t : State) := (t.mixEng e).a = (s.mixEng e).a ∧ MixGoes s t e r w ∧ KeepsBut s t [(.MIX_ENG_SAT_CNT, e)]
     let img := s.activeImage e
     let b := img.brg (fld w 32 13)
     let xs := (s.mixEng e).work (fld w 48 4) n
     let old (size : Nat) := if b.zero && (s.mixEng e).first then List.replicate size 0
       else (Tbl.getList 0 s.mix.smem b.state size).map fun v => sext v.toNat 24
     let sets (m : Nat) (f : Nat → Int) (t : State) :=
       (∀ i, i < m → t.mixLane e wr i = f i) ∧ keeps t ∧
       (∀ j, j < wr * 48 ∨ wr * 48 + m ≤ j → Tbl.at 0 (t.mixEng e).w j = Tbl.at 0 (s.mixEng e).w j)
     let newest (size : Nat) := let all := old size ++ xs; all.drop (all.length - size)
     let narrow (z : Int) (sh : Nat) := clampInt (shiftRound z sh true) (-8388608) 8388607
     let down := decimate (img.coef b) b.taps b.ratio (old (b.taps - 1)) xs
     let up := interpolate (img.coef b) b.taps b.ratio (old (b.taps / b.ratio - 1)) xs
     let sound (size : Nat) := (b.zero && (s.mixEng e).first) = true ∨ ∀ i, i < size → b.state + i ∉ s.mix.bad
     let filtered (xs : List Int) (size : Nat) (t : State) := sets xs.length (fun i => narrow (xs.getD i 0) 14) t ∧
       ∀ i, i < size → Tbl.at 0 t.mix.smem (b.state + i) = BitVec.ofInt 32 ((newest size).getD i 0)
     (MixIssues s e 0x10 r w → Does (.atw e) s (sets n fun i => narrow (s.mixAcc e (fld w 42 3) i) (fld w 3 6))) ∧
     (MixIssues s e 0x11 r w → Does (.wmov e) s (sets n fun i => s.mixLane e (fld w 48 4) i)) ∧
     (MixIssues s e 0x12 r w → Does (.wclr e) s (sets n fun _ => 0)) ∧
     (MixIssues s e 0x14 r w → sound (b.taps - 1) → Does (.bdn e) s (filtered down (b.taps - 1))) ∧
     (MixIssues s e 0x15 r w → sound (b.taps / b.ratio - 1) → Does (.bup e) s (filtered up (b.taps / b.ratio - 1))) ∧
     (MixIssues s e 0 r w → Does (.mixNop e) s fun t => MixGoes s t e r w ∧ t.mix.smem = s.mix.smem ∧ t.regs = s.regs) ∧
     (MixIssues s e 1 r w → Does (.mixEnd e) s fun t => (∃ r', (t.mixEng e).run = some r' ∧ r'.ended = true ∧
       r'.block = r.block) ∧ t.mix.smem = s.mix.smem ∧ t.regs = s.regs))

/-- MSU removes exactly what MAC added (R280): where a lane holds x, MAC or MACR makes it x plus the product; where a lane of
any accumulator holds x plus that product, an MSU or MSUR with the same work-register content and the same gain operands
leaves x exactly, so that a total minus a talker's own product is the sum of the others; unless a lane saturates. -/
def Obligations.ProductRemoved : Prop :=
  ∀ (s t : State) (e : Nat) (r r' : MixRun) (w w' : Word) (x : Nat → Int),
    let n := lanesOf (fld w 56 2)
    let gain (lo : Nat) : Int := if fld w 41 1 = 1 then (Tbl.at 0 (s.mixEng e).used (fld w lo 12)).toInt
      else sext (fld w lo 16) 16
    let ramp (i : Nat) : Int := gain 25 + Int.tdiv ((gain 9 - gain 25) * (i + 1)) n
    let fits (z : Int) := -140737488355328 ≤ z ∧ z ≤ 140737488355327
    let same := fld w' 56 2 = fld w 56 2 ∧ fld w' 0 42 = fld w 0 42 ∧
      (∀ i, Tbl.at 0 (t.mixEng e).used i = Tbl.at 0 (s.mixEng e).used i) ∧
      ∀ i, i < n → t.mixLane e (fld w' 48 4) i = s.mixLane e (fld w 48 4) i
    let exact (add sub : Instr) (op : Nat) (g : Nat → Int) :=
      let p (i : Nat) := s.mixLane e (fld w 48 4) i * g i
      same → MixIssues s e op r w → MixIssues t e (op + 1) r' w' → (∀ i, i < n → fits (x i) ∧ fits (x i + p i)) →
        ((∀ i, i < n → s.mixAcc e (fld w 45 3) i = x i) → Does add s fun u =>
          ∀ i, i < n → u.mixAcc e (fld w 45 3) i = x i + p i) ∧
        ((∀ i, i < n → t.mixAcc e (fld w' 45 3) i = x i + p i) → Does sub t fun u =>
          ∀ i, i < n → u.mixAcc e (fld w' 45 3) i = x i)
    exact (.mixMac e) (.mixMsu e) 0x0C (fun _ => gain 25) ∧ exact (.macr e) (.msur e) 0x0E ramp

/-- Ring instructions (R271 to R275): RD of a block whose slot holds both its stamps, and no uncorrectable error, gives the
slot's samples, of any other zeros and one count of a stale block; WR and WRA write the slot of the running block, its
stamp first and last, its samples whole in S24, rounded and saturated in pairs in S16. Spools and carts (R287, R288,
R289): SPL and SPLW put one slot behind the queue, or drop it whole where the queue is full; the oldest slot is written at
its IOVA, waits where its port has to, and a write that stops marks the spool and drops its other slots, which takes no
further one; CART fires in its phase with the block number in word 7, or is dropped by a full queue, and out of phase does
nothing. -/
def Obligations.RingsSpoolsCarts : Prop :=
  (∀ (s : State) (e : Nat) (r : MixRun) (w : Word),
     let d := (s.activeImage e).buf (fld w 32 13)
     let n := slotWords d.dom d.fmt
     let b : Int := (r.block : Int) - fld w 28 4
     let slot := Tbl.getList 0 s.mix.smem (d.place b) n
     let stamp (z : Int) := BitVec.ofNat 32 (wrapInt z 32)
     let fresh := slot.getD 0 0 = stamp b ∧ slot.getD (n - 1) 0 = stamp b ∧ ∀ i, i < n → d.place b + i ∉ s.mix.bad
     let wrote (t : State) := MixGoes s t e r w ∧ (t.mixEng e).w = (s.mixEng e).w ∧ (t.mixEng e).a = (s.mixEng e).a ∧
       Tbl.at 0 t.mix.smem (d.place r.block) = BitVec.ofNat 32 r.block ∧
       Tbl.at 0 t.mix.smem (d.place r.block + n - 1) = BitVec.ofNat 32 r.block ∧
       (∀ i, i < n → d.place r.block + i ∉ t.mix.bad) ∧
       ∀ a, a < d.place r.block ∨ d.place r.block + n ≤ a → Tbl.at 0 t.mix.smem a = Tbl.at 0 s.mix.smem a
     let s16 (x : Int) := wrapInt (clampInt (shiftRound x 8 true) (-32768) 32767) 16
     let holds (t : State) (x : Nat → Int) :=
       (d.fmt = 0 → ∀ i, i < lanesOf d.dom → (Tbl.at 0 t.mix.smem (d.place r.block + 1 + i)).toInt = x i) ∧
       (d.fmt ≠ 0 → ∀ i, i < lanesOf d.dom / 2 → Tbl.at 0 t.mix.smem (d.place r.block + 1 + i) =
         BitVec.ofNat 32 (s16 (x (2 * i + 1)) * 65536 + s16 (x (2 * i))))
     (MixIssues s e 2 r w → fresh → Does (.rd e) s fun t => MixGoes s t e r w ∧ t.regs = s.regs ∧
       t.mix.smem = s.mix.smem ∧ (t.mixEng e).w =
         ((s.mixEng e).setWork (fld w 52 4) (samplesOf d.fmt ((slot.drop 1).take (n - 2)))).w) ∧
     (MixIssues s e 2 r w → ¬fresh → Does (.rd e) s fun t => MixGoes s t e r w ∧ t.mix.smem = s.mix.smem ∧
       (∀ i, i < lanesOf d.dom → t.mixLane e (fld w 52 4) i = 0) ∧
       t.get F.MIX_ENG_STALE_CNT.CNT e = (s.get F.MIX_ENG_STALE_CNT.CNT e + 1) % 2 ^ 48) ∧
     (MixIssues s e 3 r w → d.dom = fld w 56 2 → Does (.wr e) s fun t => wrote t ∧
       holds t fun i => s.mixLane e (fld w 52 4) i) ∧
     (MixIssues s e 4 r w → d.dom = fld w 56 2 → Does (.wra e) s fun t => wrote t ∧
       holds t fun i => clampInt (shiftRound (s.mixAcc e (fld w 45 3) i) (fld w 22 6) true) (-8388608) 8388607)) ∧
  (∀ (s : State) (e : Nat) (r : MixRun) (w : Word),
     let m := s.mixEng e
     let img := s.activeImage e
     let i := fld w 32 13
     let d := img.spl i
     let queued (t : State) := ∃ ws, (t.mixEng e).spools = m.spools ++
       [⟨m.swaps, i, d.base + r.block % d.nblk * (4 * slotWords d.dom d.fmt), ws⟩] ∧ ws.head? = some (BitVec.ofNat 32 r.block)
     let full (t : State) := (t.mixEng e).spools = m.spools ∧
       t.get F.MIX_ENG_SPL_DROP_CNT.CNT e = (s.get F.MIX_ENG_SPL_DROP_CNT.CNT e + 1) % 2 ^ 48
     let fires := r.block % (fld w 12 10 + 1) = fld w 2 10
     (i ∉ m.faulted → m.spools.length < 1024 →
       (MixIssues s e 5 r w → Does (.spl e) s fun t => queued t ∧ MixGoes s t e r w) ∧
       (MixIssues s e 6 r w → Does (.splw e) s fun t => queued t ∧ MixGoes s t e r w)) ∧
     (i ∉ m.faulted → 1024 ≤ m.spools.length →
       (MixIssues s e 5 r w → Does (.spl e) s fun t => full t ∧ MixGoes s t e r w) ∧
       (MixIssues s e 6 r w → Does (.splw e) s fun t => full t ∧ MixGoes s t e r w)) ∧
     (i ∈ m.faulted →
       (MixIssues s e 5 r w → Does (.spl e) s fun t => (t.mixEng e).spools = m.spools ∧ MixGoes s t e r w) ∧
       (MixIssues s e 6 r w → Does (.splw e) s fun t => (t.mixEng e).spools = m.spools ∧ MixGoes s t e r w)) ∧
     (∀ x xs, s.live = true → s.free = true → m.spools = x :: xs →
       let o := (s.setMix e { m with spools := xs }).vwrite ⟨7, e, s.get F.MIX_CFG.DOMAIN 0, e⟩ x.iova
         (x.words.flatMap fun v => leBytes 4 v.toNat)
       (o.st.hbm.blocked = none → o.stop = .ok → Does (.spoolSlotWrite e) s fun t => t = o.st) ∧
       (o.st.hbm.blocked ≠ none → Does (.spoolSlotWrite e) s fun t => t = { s with hbm := { s.hbm with held := t.hbm.held } } ∧
         t.hbm.held ≠ []) ∧
       (o.st.hbm.blocked = none → o.stop ≠ .ok → Does (.spoolSlotWrite e) s fun t => t.hbm = o.st.hbm ∧
         (∀ y ∈ (t.mixEng e).spools, y.prog ≠ x.prog ∨ y.spool ≠ x.spool) ∧
         (x.prog = m.swaps → x.spool ∈ (t.mixEng e).faulted))) ∧
     (MixIssues s e 0x18 r w → s.free = true →
       (fires → m.carts.length < 64 → Does (.cart e) s fun t => MixGoes s t e r w ∧
         (t.mixEng e).carts = m.carts ++ [(img.cartTpl i).set 7 (wd r.block)] ∧
         t.get F.MIX_ENG_CART_CNT.CNT e = (s.get F.MIX_ENG_CART_CNT.CNT e + 1) % 2 ^ 48) ∧
       (fires → 64 ≤ m.carts.length → Does (.cart e) s fun t => MixGoes s t e r w ∧ (t.mixEng e).carts = m.carts ∧
         t.get F.MIX_ENG_CART_DROP_CNT.CNT e = (s.get F.MIX_ENG_CART_DROP_CNT.CNT e + 1) % 2 ^ 48) ∧
       (¬fires → Does (.cart e) s fun t => MixGoes s t e r w ∧ (t.mixEng e).carts = m.carts ∧ t.regs = s.regs)))

/-- Blocks (R270, R295, R297, R298, R300): a tick starts the block of an enabled, idle engine with a valid image at its first
instruction under the parameters as they stand, and is counted as an overrun where the engine still runs; a pending image
due at the block is swapped in first; the end of a block with no later tick leaves the engine idle and counts it; a later
tick starts its block at once, and those between, after the last that it dealt with, are skipped. -/
def Obligations.MixBlocks : Prop :=
  ∀ (s : State) (e : Nat), s.live = true → s.free = true →
    let m := s.mixEng e
    let b := s.mixBlock
    let st := F.MIX_ENG_STATUS.ACT_SLOT
    (s.isSet F.MIX_CFG.EN 0 = true → s.isSet F.MIX_ENG_CTL.EN e = true → m.tick ≠ some b →
      (m.run = none → s.isSet F.MIX_ENG_STATUS.ACT_VALID e = true → s.isSet F.MIX_ENG_STATUS.PEND e = false →
        Does (.mixTick e) s fun t => (t.mixEng e).run = some { block := b } ∧ (t.mixEng e).used = m.param ∧
          t.isSet F.MIX_ENG_STATUS.RUNNING e = true ∧ t.get st e = s.get st e ∧ ∀ j, j ≠ e → t.mixEng j = s.mixEng j) ∧
      (m.run = none → s.isSet F.MIX_ENG_STATUS.PEND e = true → s.get F.MIX_ENG_START_BLK.BLK e ≤ b →
        Does (.mixTick e) s fun t => (t.mixEng e).run = some { block := b } ∧ t.get st e = s.idleSlot e ∧
          t.isSet F.MIX_ENG_STATUS.PEND e = false ∧ (t.mixEng e).swaps = m.swaps + 1 ∧ (t.mixEng e).first = true) ∧
      (∀ r, m.run = some r → r.block + 1 = b → Does (.mixTick e) s fun t => (t.mixEng e).run = some r ∧
        t.get F.MIX_ENG_OVR_CNT.CNT e = (s.get F.MIX_ENG_OVR_CNT.CNT e + 1) % 2 ^ 48)) ∧
    (s.isSet F.MIX_CFG.EN 0 = false ∨ s.isSet F.MIX_ENG_CTL.EN e = false → Does (.mixTick e) s fun t => t = s) ∧
    (∀ r, m.run = some r →
      (r.ended = true → m.tick.getD 0 ≤ m.passed ∨ s.isSet F.MIX_ENG_CTL.EN e = false → Does (.blockEnd e) s fun t => (t.mixEng e).run = none ∧
        (t.mixEng e).first = false ∧ t.isSet F.MIX_ENG_STATUS.RUNNING e = false ∧
        t.get F.MIX_ENG_BLK_CNT.CNT e = (s.get F.MIX_ENG_BLK_CNT.CNT e + 1) % 2 ^ 64 ∧
        s.get F.MIX_ENG_CYC_MAX.MAX e ≤ t.get F.MIX_ENG_CYC_MAX.MAX e ∧
        KeepsBut s t [(.MIX_ENG_STATUS, e), (.MIX_ENG_BLK_CNT, e), (.MIX_ENG_CYC_MAX, e)]) ∧
      (r.ended = true → s.isSet F.MIX_ENG_STATUS.ACT_VALID e = true → s.isSet F.MIX_ENG_STATUS.PEND e = false →
        s.isSet F.MIX_ENG_CTL.EN e = true → m.passed < m.tick.getD 0 → Does (.blockEnd e) s fun t =>
          (t.mixEng e).run = some { block := m.tick.getD 0 } ∧ t.get F.MIX_ENG_SKIP_CNT.CNT e =
            (s.get F.MIX_ENG_SKIP_CNT.CNT e + (m.tick.getD 0 - (m.passed + 1))) % 2 ^ 48) ∧
      (r.ended = false → Does (.blockEnd e) s fun t => t = s))

/-- Program slots and direct writes (R274, R291 to R294, R297, R300): a load stores one word of the idle slot and advances,
and with an image pending it is discarded with LOAD_ERR; ARM refuses BUSY, a bad image with its word, an image over
budget and a block that is too near, and otherwise leaves the image pending; DISARM drops it; a parameter write waits for
the next block; CTL sets EN, and an engine enabled anew has dealt with every tick so far; the sample memory window reads and writes one word and advances. -/
def Obligations.MixControl : Prop :=
  ∀ (s : State) (e i hart : Nat) (v : Word), s.live = true →
    let m := s.mixEng e
    let la := s.get F.MIX_ENG_LOAD_ADDR.ADDR e
    let at_ := s.idleSlot e * 32768 + la
    let img : Image := ⟨m.prog, s.idleSlot e * 32768⟩
    let pend := s.isSet F.MIX_ENG_STATUS.PEND e
    let result (r : Nat) (t : State) := t.get F.MIX_ENG_CMD_STATUS.RESULT e = r
    let cmd : List (Reg × Nat) := [(.MIX_ENG_CMD, e), (.MIX_ENG_CMD_STATUS, e)]
    let a := s.get F.MIX_SMEM_ADDR.ADDR 0
    (pend = false → Does (.mixEngLoadDataWrite e v) s fun t => Tbl.at 0 (t.mixEng e).prog at_ = v ∧
      (∀ j, j ≠ at_ → Tbl.at 0 (t.mixEng e).prog j = Tbl.at 0 m.prog j) ∧ (t.mixEng e).run = m.run ∧
      t.get F.MIX_ENG_LOAD_ADDR.ADDR e = (la + 1) % 32768 ∧ KeepsBut s t [(.MIX_ENG_LOAD_ADDR, e)]) ∧
    (pend = true → Does (.mixEngLoadDataWrite e v) s fun t => t.isSet F.MIX_ENG_STATUS.LOAD_ERR e = true ∧
      Only s t [(.MIX_ENG_STATUS, e)]) ∧
    Does (.mixEngLoadDataRead hart e) s (fun t => Tbl.at 0 t.hart.resp hart = Tbl.at 0 m.prog at_ ∧
      t.get F.MIX_ENG_LOAD_ADDR.ADDR e = (la + 1) % 32768 ∧ t.mix = s.mix) ∧
    (pend = true → Does (.arm e) s fun t => result 4 t ∧ Only s t cmd) ∧
    (pend = false →
      (∀ k, img.badWord = some k → k < 32768 → Does (.arm e) s fun t => result 1 t ∧
        t.get F.MIX_ENG_CMD_STATUS.ERR_WORD e = k ∧ Only s t cmd) ∧
      (img.badWord = none → 1080000 < img.budget → Does (.arm e) s fun t => result 2 t ∧ Only s t cmd) ∧
      (img.badWord = none → img.budget ≤ 1080000 → s.swapBlock e < s.mixNext e + 2 →
        Does (.arm e) s fun t => result 3 t ∧ Only s t cmd) ∧
      (img.badWord = none → img.budget ≤ 1080000 → s.mixNext e + 2 ≤ s.swapBlock e → Does (.arm e) s fun t =>
        result 0 t ∧ t.isSet F.MIX_ENG_STATUS.PEND e = true ∧ t.get F.MIX_ENG_START_BLK.BLK e = s.swapBlock e % 2 ^ 64 ∧
        t.mix = s.mix ∧ KeepsBut s t ((.MIX_ENG_STATUS, e) :: (.MIX_ENG_START_BLK, e) :: cmd)) ∧
      Does (.disarm e) s fun t => result 5 t ∧ Only s t cmd) ∧
    (pend = true → Does (.disarm e) s fun t => result 0 t ∧ t.isSet F.MIX_ENG_STATUS.PEND e = false ∧ t.mix = s.mix) ∧
    Does (.parameterWrite e i v) s (fun t => Tbl.at 0 (t.mixEng e).param i = BitVec.ofNat 16 v.toNat ∧
      (t.mixEng e).used = m.used ∧ (∀ j, j ≠ i → Tbl.at 0 (t.mixEng e).param j = Tbl.at 0 m.param j) ∧ t.regs = s.regs) ∧
    Does (.mixEngCtlWrite e v) s (fun t => t.get F.MIX_ENG_CTL.EN e = fld v 0 1 ∧ (t.mixEng e).run = m.run ∧
      (fld v 0 1 = 1 → s.isSet F.MIX_ENG_CTL.EN e = false → (t.mixEng e).tick = some s.mixBlock ∧
        (t.mixEng e).passed = s.mixBlock) ∧ KeepsBut s t [(.MIX_ENG_CTL, e)]) ∧
    Does (.mixSmemDataAccess hart true v) s (fun t => Tbl.at 0 t.mix.smem a = BitVec.ofNat 32 v.toNat ∧
      (∀ j, j ≠ a → Tbl.at 0 t.mix.smem j = Tbl.at 0 s.mix.smem j) ∧ t.mix.engs = s.mix.engs ∧ a ∉ t.mix.bad ∧
      t.get F.MIX_SMEM_ADDR.ADDR 0 = (a + 1) % 2 ^ 20 ∧ KeepsBut s t [(.MIX_SMEM_ADDR, 0)]) ∧
    Does (.mixSmemDataAccess hart false v) s (fun t => t.mix = s.mix ∧ t.get F.MIX_SMEM_ADDR.ADDR 0 = (a + 1) % 2 ^ 20 ∧
      (a ∉ s.mix.bad → Tbl.at 0 t.hart.resp hart = wd (Tbl.at 0 s.mix.smem a).toNat ∧
        KeepsBut s t [(.MIX_SMEM_ADDR, 0)]))

/-! ## Video -/

/-- Carts of a decode stream (R309, R318): a stream outside VDEC_STBL ends ERROR. OPEN of a record that passes its check
writes words 8 to 12 anew with every reference invalid; FLUSH loses each frame in assembly and counts it; CLOSE drops them
and clears OPEN; DECODE_AU decodes the frames of its access unit; a packet of an open stream joins its frame, one that is
authentication-failed is discarded with OK, and NOT_OPEN and STALE carts leave the record alone. -/
def Obligations.DecodeCarts : Prop :=
  ∀ (s : State) (e : Nat) (c : Cart), Ready s → s.err.clkStopped = false →
    let n := decStream c
    let rd (u : State) := ({ st := u, q := u.decSrc e } : Vio).words (u.decRecord n) 16
    let dec (u : State) : Dec :=
      { io := (rd u).2, stream := n, recw := (rd u).1, ds := Tbl.at {} (rd u).2.st.vid.streams n, eng := e }
    let d := dec s
    let one := dec (s.inc F.VDEC_ENG_PKT_CNT.CNT e)
    let runs (op ty : Nat) := s.engineOp 1 e op = some c ∧ cartType c.words = ty
    let known := n < 2 ^ s.get F.VDEC_STBL.LOG2_N 0
    let done (x : Dec) (t : State) := Ended t c.seq 0 ∧ t.hbm = x.writeBack.io.st.hbm ∧ Tbl.at {} t.vid.streams n = x.ds
    let failed (x : Dec) (t : State) := Ended t c.seq 1 ∧ t.hbm = x.io.st.hbm ∧
      t.get F.VDEC_ENG_ERR_CNT.CNT e = (s.get F.VDEC_ENG_ERR_CNT.CNT e + 1) % 2 ^ 48
    let shut (x : Dec) := { x with ds := { x.ds with frames := [] } }.set DRec.OPEN 0
    let opened (x : Dec) : Dec := { x with
      io := x.io.map fun u => { u with freeCtr := u.freeCtr + 1 }
      recw := x.recw.take 8 ++ [wd (2 ^ 63), 0, 0, 0, 0] ++ x.recw.drop 13
      ds := { hist := Config.free 45 x.io.st.freeCtr } }
    let flushed (x : Dec) := x.ds.frames.foldl (fun y f => (y.close f).lose 0) x
    let au := d.io.read (cartIova c 3) (fld (c.words.getD 4 0) 0 32)
    let unit := (Config.auFrames (d.get DRec.CODEC) (rawFrame (d.get DRec.CODEC) au.1)).foldl
      (fun y f => y.decode (c.words.getD 5 0).toNat (f.1 % 4) 0 {} f.2) { d with io := au.2 }
    let p := c.pkt.bind one.io.st.pkt
    let rtp := (p.map fun k => one.io.st.pktPayload k).getD []
    let sl := if bySlot (one.get DRec.CODEC) then fld (c.words.getD 3 0) 41 2 else 0
    let joined := one.assemble (c.words.getD 5 0).toNat sl (fld (c.words.getD 4 0) 16 48) (c.words.getD 6 0) rtp
    let fresh := one.get DRec.SCID = fld (c.words.getD 2 0) 11 20 ∧ one.get DRec.GEN = fld (c.words.getD 2 0) 3 8
    let forged := (p.map fun k => k.is Tag.AUTH_FAIL).getD false = true
    (∀ x ∈ [(Instr.decOpen e, 2), (.decFlush e, 3), (.decClose e, 4), (.decodeAu e, 5)], runs x.2 0x10 → ¬known →
      Does x.1 s fun t => Ended t c.seq 1 ∧ t.hbm = s.hbm ∧ t.vid = s.vid) ∧
    (runs 1 0x11 → ¬known → Does (.packet e) s fun t => Ended t c.seq 1 ∧ t.hbm = s.hbm ∧ t.vid = s.vid) ∧
    (runs 2 0x10 → known → d.io.ok = true → badStream (d.recw.take 7) = true → Does (.decOpen e) s (failed d)) ∧
    (runs 2 0x10 → known → d.io.ok = true → badStream (d.recw.take 7) = false → (opened d).writeBack.io.ok = true →
      Does (.decOpen e) s fun t => done (opened d) t ∧ (Tbl.at {} t.vid.streams n).valid = 0) ∧
    (runs 3 0x10 → known → d.io.ok = true → d.get DRec.OPEN = 0 → Does (.decFlush e) s (failed d)) ∧
    (runs 3 0x10 → known → d.io.ok = true → d.get DRec.OPEN ≠ 0 → (flushed d).writeBack.io.ok = true →
      Does (.decFlush e) s fun t => done (flushed d) t ∧ (Tbl.at {} t.vid.streams n).frames = [] ∧
        t.get F.VDEC_ENG_LOST_CNT.CNT e = (s.get F.VDEC_ENG_LOST_CNT.CNT e + d.ds.frames.length) % 2 ^ 48) ∧
    (runs 4 0x10 → known → d.io.ok = true → (shut d).writeBack.io.ok = true → Does (.decClose e) s fun t =>
      done (shut d) t ∧ (Tbl.at {} t.vid.streams n).frames = []) ∧
    (runs 5 0x10 → known → d.io.ok = true → d.get DRec.OPEN = 0 → Does (.decodeAu e) s (failed d)) ∧
    (runs 5 0x10 → known → d.io.ok = true → d.get DRec.OPEN ≠ 0 → au.2.ok = true → unit.writeBack.io.ok = true →
      Does (.decodeAu e) s (done unit)) ∧
    (runs 1 0x11 → known → one.io.ok = true → one.get DRec.OPEN = 0 ∨ ¬fresh → Does (.packet e) s (failed one)) ∧
    (runs 1 0x11 → known → one.io.ok = true → one.get DRec.OPEN ≠ 0 → fresh → forged → one.writeBack.io.ok = true →
      Does (.packet e) s (done one)) ∧
    (runs 1 0x11 → known → one.io.ok = true → one.get DRec.OPEN ≠ 0 → fresh → ¬forged → joined.writeBack.io.ok = true →
      Does (.packet e) s fun t => done joined t ∧
        t.get F.VDEC_ENG_PKT_CNT.CNT e = (s.get F.VDEC_ENG_PKT_CNT.CNT e + 1) % 2 ^ 64)

/-- The engine assembles at most two frames at once: whatever packet comes, of whatever bytes, a stream that held at most
two holds at most two after it; and a packet of a frame that is over changes no frame and only counts (R312). -/
def Obligations.AssemblyHoldsTwo : Prop :=
  ∀ (d : Dec) (ts sl seq : Nat) (stamp : Word) (rtp : List Byte), d.ds.frames.length ≤ 2 →
    (d.assemble ts sl seq stamp rtp).ds.frames.length ≤ 2 ∧
    ((ts, sl) ∈ d.ds.past → (d.assemble ts sl seq stamp rtp).ds = d.ds ∧
      (d.assemble ts sl seq stamp rtp).recw = wordsSet d.recw DRec.LATE_CNT (wordsGet d.recw DRec.LATE_CNT + 1))

/-- Ladders and their hints (R320, R323): LADDER_OPEN refuses a record out of range and else sets words 8 and 9, clears
KF_PEND and makes the next frame a key frame; LADDER_CLOSE clears OPEN; an entry of the hints crossing gives the ladder
its counts and adds its keyframe bits, as a write of VENC_KF_CMD adds its own. ENCODE (R321 to R328): a source that is
whole is read and the job waits for acceptance, with the record, domain and hints of its start; NOT_OPEN and a source that
does not carry the expected FRAME_ID end ERROR, as does a followed one after FOLLOW_MS; a frame whose source has changed
is discarded and changes nothing of the ladder; else its active rungs are encoded into packets, which enter the injection
queue in order as far as it has room, the others wait; with the last one in, the frame is accepted: counted, its ladder
state kept, the keyframe bits it served cleared and no other. -/
def Obligations.EncodeCarts : Prop :=
  (∀ (s : State) (e : Nat) (c : Cart), Ready s → s.err.clkStopped = false →
     let l := cartLadder c
     let r := s.ladderRecord l
     let rd := (s.encIo e).words r 7
     let new := [wd (2 ^ 63), 0] ++ (List.range 6).map fun i =>
       if i = 1 then Config.engineWord (rd.2.st.freeCtr + i) &&& wd (2 ^ 48 - 1) else Config.engineWord (rd.2.st.freeCtr + i)
     let wr := (rd.2.map fun u => { u with freeCtr := u.freeCtr + 7 }).put (r + 64) new
     let w8 := (s.encIo e).word (r + 64)
     let cleared := w8.2.put (r + 64) [setFld w8.1 63 1 0]
     let adds (t : State) (k mask : Nat) := ∀ i, i < 3 →
       bitAt (t.hintEnt k).pend i = (bitAt (s.hintEnt k).pend i || bitAt mask i)
     (s.engineOp 3 e 0x20 = some c → rd.2.ok = true → badLadder rd.1 = true → Does (.ladderOpen e) s fun t =>
       Ended t c.seq 1 ∧ t.hbm = rd.2.st.hbm ∧ t.vid.ladders = s.vid.ladders ∧ t.vid.hints = s.vid.hints) ∧
     (s.engineOp 3 e 0x20 = some c → rd.2.ok = true → badLadder rd.1 = false → wr.ok = true → Does (.ladderOpen e) s fun t =>
       Ended t c.seq 0 ∧ t.hbm = wr.st.hbm ∧ (t.hintEnt l).pend = 0 ∧ (t.hintEnt l).counts = (s.hintEnt l).counts ∧
       (Tbl.at {} t.vid.ladders l).force = true) ∧
     (s.engineOp 3 e 0x22 = some c → cleared.ok = true → Does (.ladderClose e) s fun t =>
       Ended t c.seq 0 ∧ t.hbm = cleared.st.hbm ∧ t.vid.ladders = s.vid.ladders ∧ t.vid.hints = s.vid.hints) ∧
     (∀ k x, Tbl.at none s.fwd.hints (e * 256 + k) = some x → Does (.hintEntryMove e k) s fun t =>
       adds t (e * 256 + k) x.mask ∧ Tbl.at none t.fwd.hints (e * 256 + k) = none ∧ t.regs = s.regs ∧
       (t.hintEnt (e * 256 + k)).counts = (if x.counts = [] then (s.hintEnt (e * 256 + k)).counts else x.counts) ∧
       ∀ j, j ≠ e * 256 + k → t.hintEnt j = s.hintEnt j) ∧
     (∀ v : Word, Does (.vencKfCmdWrite v) s fun t => adds t (fld v 16 5 * 256 + fld v 8 8) (fld v 0 3) ∧
       (∀ k, (t.hintEnt k).counts = (s.hintEnt k).counts) ∧ t = { s with vid := { s.vid with hints := t.vid.hints } })) ∧
  (∀ (s : State) (e : Nat) (c : Cart), Ready s → s.err.clkStopped = false →
     s.engineOp 3 e 0x21 = some c →
     let l := cartLadder c
     let p := cartIova c 3
     let follow := bitAt (c.words.getD 2 0).toNat 39
     let rd := (s.encIo e).words (s.ladderRecord l) 16
     let j : EncJob := { seq := c.seq, ladder := l, domain := s.get F.VENC_CFG.DOMAIN 0, record := s.ladderRecord l
                         words := rd.1, hint := rd.2.st.hintEnt l, start := s.clock }
     let u := rd.2.st.setJob e (some j)
     let w0 := (u.jobIo e j).word p
     let w7 := w0.2.word (p + 56)
     let w1 := w7.2.word (p + 8)
     let pic := w1.2.readPicture p (wordsGet rd.1 LRec.SRC_W) (wordsGet rd.1 LRec.SRC_H) (fld w1.1 32 6)
     let src := pic.2.touch (wordsGet rd.1 LRec.CTX_BASE) (ladderArea rd.1)
     let gone (t : State) := Tbl.at none t.vid.jobs e = none ∧ t.vid.ladders = s.vid.ladders ∧ t.vid.hints = s.vid.hints
     let again (k : EncJob) := let a := (s.jobIo e k).word p; let b := a.2.word (p + 56); (a.1, b.1, b.2)
     let queue (u : State) (k : EncJob) := Tbl.at [] u.ing.injq k.pipe
     let room (k : EncJob) := injDepth - (queue s k).length
     let accepts (k : EncJob) (x : EncDone) (s1 t : State) :=
       let own := (List.range 4).map fun i => Config.engineWord (s1.freeCtr + i)
       let wr := ((({ s1 with freeCtr := s1.freeCtr + 4 } : State).jobIo e k).put (k.record + 64) x.words).put (k.record + 96) own
       wr.ok = true → Ended t c.seq 0 ∧ t.hbm = wr.st.hbm ∧ Tbl.at none t.vid.jobs e = none ∧
         Tbl.at {} t.vid.ladders k.ladder = x.ladder ∧ queue t k = queue s k ++ k.out ∧
         t.get F.VENC_ENG_FRM_CNT.CNT e = (s.get F.VENC_ENG_FRM_CNT.CNT e + 1) % 2 ^ 64 ∧
         t.get F.VENC_ENG_PKT_CNT.CNT e = (s.get F.VENC_ENG_PKT_CNT.CNT e + k.out.length) % 2 ^ 64 ∧
         (∀ i, i < 3 → bitAt (t.hintEnt k.ladder).pend i = (bitAt (s.hintEnt k.ladder).pend i && !bitAt x.served i)) ∧
         (t.hintEnt k.ladder).counts = (s.hintEnt k.ladder).counts
     let waits (k : EncJob) (x : EncDone) (t : State) :=
       Tbl.at none t.vid.jobs e = some { k with done := some x, out := k.out.drop (room k) } ∧
       queue t k = queue s k ++ k.out.take (room k) ∧ t.work = s.work ∧
       t.get F.VENC_ENG_PKT_CNT.CNT e = (s.get F.VENC_ENG_PKT_CNT.CNT e + room k) % 2 ^ 64
     (s.encJob e = none → rd.2.ok = true → wordsGet rd.1 LRec.OPEN = 0 → Does (.encode e) s fun t =>
       Ended t c.seq 1 ∧ gone t) ∧
     (s.encJob e = none → rd.2.ok = true → wordsGet rd.1 LRec.OPEN ≠ 0 → follow = false → w1.2.ok = true →
       (w0.1 ≠ encFrameId c ∨ w7.1 ≠ encFrameId c ∨ srcMismatch j w1.1 = true → Does (.encode e) s fun t =>
         Ended t c.seq 1 ∧ gone t) ∧
       (w0.1 = encFrameId c → w7.1 = encFrameId c → srcMismatch j w1.1 = false → src.ok = true → Does (.encode e) s fun t =>
         Tbl.at none t.vid.jobs e = some { j with got := true, rows := pic.1 } ∧ t.hbm = src.st.hbm)) ∧
     (∀ k, s.encJob e = some k → follow = true → k.got = false →
       (k.start + followTime c ≤ s.clock → Does (.encodeSrcTimeout e) s fun t => Ended t c.seq 1 ∧ gone t) ∧
       (s.clock < k.start + followTime c → Does (.encodeSrcTimeout e) s fun t => t = s)) ∧
     (∀ k, s.encJob e = some k → k.got = true → k.done = none → (again k).2.2.ok = true →
       ((again k).1 ≠ encFrameId c ∨ (again k).2.1 ≠ encFrameId c →
         let w := (again k).2.2.word (k.record + 88)
         let wr := w.2.put (k.record + 88) [setFld w.1 0 48 (fld w.1 0 48 + 1)]
         wr.ok = true → Does (.encodeFrameAccept e) s fun t => Ended t c.seq 1 ∧ gone t ∧ t.hbm = wr.st.hbm ∧
           t.get F.VENC_ENG_DISC_CNT.CNT e = (s.get F.VENC_ENG_DISC_CNT.CNT e + 1) % 2 ^ 48) ∧
       ((again k).1 = encFrameId c → (again k).2.1 = encFrameId c →
         let v := (again k).2.2.st
         let lad := Tbl.at {} v.vid.ladders k.ladder
         let ks := activeRungs (wordsGet k.words LRec.MODE) k.hint lad
         let fs := rungFrames k lad ks []
         let out := rungPackets c k lad ks fs k.words
         let k' := { k with out := out.1, pipe := wordsGet out.2 LRec.PIPE }
         let x := encDone v c k lad out.2 fs
         (room k' < out.1.length → Does (.encodeFrameAccept e) s (waits k' x)) ∧
         (k.words.length = 16 → ∀ i, i < out.1.length →
           slice (out.1.getD i ⟨0, [], 0⟩).rtp 4 4 = beBytes 4 (encTs c k.words) ∧
           (wordsGet k.words LRec.MODE = 0 →
             slice (out.1.getD i ⟨0, [], 0⟩).rtp 2 2 = beBytes 2 (wordsGet k.words (LRec.SEQ 0) + i))))) ∧
     (∀ k x, s.encJob e = some k → k.got = true → k.done = some x →
       (room k < k.out.length → Does (.encodeFrameAccept e) s fun t => waits k x t ∧ KeepsBut s t [(.VENC_ENG_PKT_CNT, e)]) ∧
       (k.out.length ≤ room k → Does (.encodeFrameAccept e) s (accepts k x (s.injectSome e k.pipe k.out).2))))

/-- Carts of a layout (R330, R332, R334): a malformed cart, a layout outside CMP_LTBL and a record that fails its check end
ERROR with their codes, and the record is as it was; OPEN sets the hardware fields, CLOSE clears OPEN, COMPOSE of a layout
that is not open ends NOT_OPEN, and a frame whose accesses all succeed ends OK with its RESULT and is counted. The
coefficient memory takes a word at ADDR and advances, but not while a composition cart runs (R350). -/
def Obligations.LayoutCarts : Prop :=
  ∀ (s : State) (e hart : Nat) (c : Cart) (v : Word), Ready s → s.err.clkStopped = false →
    let n := cartLayout c
    let r := s.layoutRecord n
    let rd := ({ st := s, q := ⟨2, e, s.get F.CMP_CFG.DOMAIN 0, e⟩ } : Vio).words r 128
    let ops := [(Instr.cmpOpen e, 0x40), (.compose e, 0x41), (.cmpClose e, 0x42)]
    let failed (t : State) (code : Nat) := EndedAs t c.seq 1 (wd code) ∧
      t.get F.CMP_ENG_ERR_CNT.CNT e = (s.get F.CMP_ENG_ERR_CNT.CNT e + 1) % 2 ^ 48
    let known := badCmpCart c = false ∧ n < 2 ^ s.get F.CMP_LTBL.LOG2_N 0 ∧ rd.2.ok = true
    let set1 := rd.2.put (r + 40) [wd (2 ^ 63), 0]
    let set2 := (List.range 8).foldl (fun x l => x.put (r + 8 * (14 + 8 * l)) [0, 0]) set1
    let set3 := (List.range 4).foldl (fun x g => x.write (r + 8 * (73 + 2 * g)) (leBytes 4 0)) set2
    let shut := rd.2.put (r + 40) [setFld (rd.1.getD 5 0) 63 1 0]
    let f := rd.2.makeFrame c r rd.1
    let a := s.get F.CMP_COEF_ADDR.ADDR 0
    (∀ x ∈ ops, s.engineOp 2 e x.2 = some c → badCmpCart c = true → Does x.1 s fun t => failed t 3 ∧ t.hbm = s.hbm) ∧
    (∀ x ∈ ops, s.engineOp 2 e x.2 = some c → badCmpCart c = false → 2 ^ s.get F.CMP_LTBL.LOG2_N 0 ≤ n →
      Does x.1 s fun t => failed t 1 ∧ t.hbm = s.hbm) ∧
    (s.engineOp 2 e 0x40 = some c → known → badLayout rd.1 = true → Does (.cmpOpen e) s fun t =>
      failed t 1 ∧ t.hbm = rd.2.st.hbm) ∧
    (s.engineOp 2 e 0x40 = some c → known → badLayout rd.1 = false → set3.ok = true → Does (.cmpOpen e) s fun t =>
      EndedAs t c.seq 0 0 ∧ t.hbm = set3.st.hbm ∧ Tbl.at 0 t.vid.failing n = 0) ∧
    (s.engineOp 2 e 0x42 = some c → known → shut.ok = true → Does (.cmpClose e) s fun t =>
      EndedAs t c.seq 0 0 ∧ t.hbm = shut.st.hbm) ∧
    (s.engineOp 2 e 0x41 = some c → known → wordsGet rd.1 CRec.OPEN = 0 → Does (.compose e) s fun t =>
      failed t 2 ∧ t.hbm = rd.2.st.hbm) ∧
    (s.engineOp 2 e 0x41 = some c → known → wordsGet rd.1 CRec.OPEN ≠ 0 → badLayout rd.1 = true → Does (.compose e) s fun t =>
      failed t 1 ∧ t.hbm = rd.2.st.hbm) ∧
    (s.engineOp 2 e 0x41 = some c → known → wordsGet rd.1 CRec.OPEN ≠ 0 → badLayout rd.1 = false → f.io.ok = true →
      Does (.compose e) s fun t => EndedAs t c.seq 0 (composeResult f.layers f.sig f.withheld) ∧ t.hbm = f.io.st.hbm ∧
        t.get F.CMP_ENG_FRM_CNT.CNT e = (s.get F.CMP_ENG_FRM_CNT.CNT e + 1) % 2 ^ 64 ∧
        t.get F.CMP_ENG_ERR_CNT.CNT e = s.get F.CMP_ENG_ERR_CNT.CNT e) ∧
    (s.cmpBusy = false → a < 3072 → Does (.cmpCoefDataWrite v) s fun t => Tbl.at 0 t.vid.coef a = v ∧
      (∀ i, i ≠ a → Tbl.at 0 t.vid.coef i = Tbl.at 0 s.vid.coef i) ∧ t.get F.CMP_COEF_ADDR.ADDR 0 = (a + 1) % 3072 ∧
      KeepsBut s t [(.CMP_COEF_ADDR, 0)]) ∧
    (s.cmpBusy = true → Does (.cmpCoefDataWrite v) s fun t => t.isSet F.CMP_COEF_STATUS.COEF_ERR 0 = true ∧
      Only s t [(.CMP_COEF_STATUS, 0)]) ∧
    (a < 3072 → Does (.cmpCoefDataRead hart) s fun t => Tbl.at 0 t.hart.resp hart = Tbl.at 0 s.vid.coef a ∧
      t.get F.CMP_COEF_ADDR.ADDR 0 = (a + 1) % 3072 ∧ t.vid = s.vid ∧ KeepsBut s t [(.CMP_COEF_ADDR, 0)])

/-! ## HBM -/

/-- Service and upkeep (R352, R361, R364): EN is set once every enabled pseudo-channel is ONLINE, and n with it; any other
write of HBM_CTL changes nothing. The scrub moves on by one granule, counts and logs a corrected error, logs each
uncorrectable one once, and waits for a RETRAINING pseudo-channel; a refresh is issued with those owed, or owed while an
urgent request waits and fewer than POSTPONE_MAX are owed. Training helpers (R353, R365, R367, R368): a helper that the
pseudo-channel's state does not allow changes nothing but RESULT; otherwise READ_TRAIN reports the lanes that err,
READ_COMPARE those and the lanes of the bytes of its region that are not the pattern's, none where all are; WRITE_PATTERN
fills its region and no other pseudo-channel's bytes, APPLY_REPAIR takes the repair, RETRAIN, ONLINE and OFFLINE change
the state. -/
def Obligations.HbmUpkeep : Prop :=
  (∀ (s : State) (v : Word) (pc : Nat), s.live = true →
     let online := ∀ c ∈ s.enabledPcs, s.get F.HBM_PC_STATE.STATE c = 2
     let owed := Tbl.at 0 s.hbm.owed pc
     let n := s.get F.HBM_STATUS.NPC 0 * (pcBytes / 256)
     let g := s.hbm.scrubPos % n
     let at_ := (s.pcOf (g * 256)).1
     (fld v 0 1 = 1 → s.isSet F.HBM_CTL.EN 0 = false → online → Does (.hbmCtlWrite v) s fun t =>
       t.isSet F.HBM_CTL.EN 0 = true ∧ t.get F.HBM_STATUS.NPC 0 = s.enabledPcs.length ∧
       Only s t [(.HBM_CTL, 0), (.HBM_STATUS, 0)]) ∧
     (fld v 0 1 = 0 ∨ s.isSet F.HBM_CTL.EN 0 = true ∨ ¬online → Does (.hbmCtlWrite v) s fun t => t = s) ∧
     (∀ fixed, n ≠ 0 → s.get F.HBM_SCRUB_CFG.HOURS 0 ≠ 0 → s.get F.HBM_PC_STATE.STATE at_ ≠ 3 →
       s.get F.HBM_PC_STATE.STATE at_ ≠ 4 → (∀ i, i < 8 → Tbl.at 0 s.hbm.ue (g * 8 + i) = 0) → Does (.patrolScrub fixed) s fun t =>
         t.hbm = { s.hbm with scrubPos := (g + 1) % n } ∧
         t.get F.HBM_PC_CE_CNT.CNT at_ = (s.get F.HBM_PC_CE_CNT.CNT at_ + b2n fixed) % 2 ^ 48 ∧
         t.get F.ERR_CLASS_CNT.CNT 0 = (s.get F.ERR_CLASS_CNT.CNT 0 + b2n fixed) % 2 ^ 48) ∧
     (∀ fixed i, n ≠ 0 → s.get F.HBM_SCRUB_CFG.HOURS 0 ≠ 0 → s.get F.HBM_PC_STATE.STATE at_ ≠ 3 →
       s.get F.HBM_PC_STATE.STATE at_ ≠ 4 → i < 8 → Tbl.at 0 s.hbm.ue (g * 8 + i) = 1 →
       Does (.patrolScrub fixed) s fun t => Tbl.at 0 t.hbm.ue (g * 8 + i) = 2 ∧ t.hbm.mem = s.hbm.mem) ∧
     (s.get F.HBM_SCRUB_CFG.HOURS 0 = 0 ∨ s.get F.HBM_PC_STATE.STATE at_ = 3 → ∀ fixed, Does (.patrolScrub fixed) s fun t => t = s) ∧
     (s.get F.HBM_PC_STATE.STATE pc ≠ 0 → s.urgentWaits pc = false → Does (.refresh pc) s fun t =>
       Tbl.at 0 t.hbm.owed pc = 0 ∧ Tbl.at 0 t.hbm.openRow pc = 0 ∧ t.hbm.mem = s.hbm.mem ∧ t.regs = s.regs) ∧
     (s.get F.HBM_PC_STATE.STATE pc ≠ 0 → s.urgentWaits pc = true → s.get F.HBM_REF_CFG.POSTPONE_MAX 0 ≤ owed →
       Does (.refresh pc) s fun t => t.hbm.owed = s.hbm.owed ∧ Tbl.at 0 t.hbm.openRow pc = 0 ∧ t.regs = s.regs) ∧
     (s.get F.HBM_PC_STATE.STATE pc ≠ 0 → s.urgentWaits pc = true → owed < s.get F.HBM_REF_CFG.POSTPONE_MAX 0 →
       Does (.refresh pc) s fun t => Tbl.at 0 t.hbm.owed pc = owed + 1 ∧ t.hbm.openRow = s.hbm.openRow ∧
         owed + 1 ≤ t.get F.HBM_PC_REF_OWED_MAX.MAX pc ∧ KeepsBut s t [(.HBM_PC_REF_OWED_MAX, pc)])) ∧
  (∀ (s : State) (pc lanes : Nat) (ca : Bool), s.live = true → pc < 64 →
     let st := s.get F.HBM_PC_STATE.STATE pc
     let idle := st = 1 ∨ st = 3
     let cmd : List (Reg × Nat) := [(.HBM_TRN_CMD, 0), (.HBM_TRN_STATUS, 0)]
     let shown (t : State) (k : Nat) := t.get F.HBM_TRN_STATUS.RESULT 0 = 0 ∧ t.get F.HBM_TRN_STATUS.LANE_ERR 0 = k
     let refused (t : State) := t.get F.HBM_TRN_STATUS.RESULT 0 = 1 ∧ Only s t cmd
     let start := s.get F.HBM_TRN_CFG.OFFSET 0 * 256
     let len := min ((if s.get F.HBM_TRN_CFG.LEN 0 = 0 then 256 else s.get F.HBM_TRN_CFG.LEN 0) * 4096) (pcBytes - start)
     (idle → Does (.readTrain pc lanes ca) s fun t => shown t (lanes % 2 ^ 38) ∧
       t.isSet F.HBM_TRN_STATUS.CA_ERR 0 = ca ∧ Only s t cmd) ∧
     (idle → Does (.readCompare pc lanes ca) s fun t => shown t ((lanes ||| s.trnCompare pc) % 2 ^ 38) ∧
       t.isSet F.HBM_TRN_STATUS.CA_ERR 0 = ca ∧ Only s t cmd) ∧
     (idle → (∀ i, i < len → Tbl.at 0 s.hbm.mem (s.ofLocal pc (start + i)) =
         Config.trainPattern (s.get F.HBM_TRN_CFG.SEED 0) (s.get F.HBM_TRN_CFG.PAT 0) i) →
       Does (.readCompare pc lanes ca) s fun t => shown t (lanes % 2 ^ 38)) ∧
     (idle → pc ∈ s.enabledPcs → Does (.writePattern pc ca) s fun t => shown t 0 ∧ KeepsBut s t cmd ∧
       (∀ i, i < len → Tbl.at 0 t.hbm.mem (s.ofLocal pc (start + i)) =
         Config.trainPattern (s.get F.HBM_TRN_CFG.SEED 0) (s.get F.HBM_TRN_CFG.PAT 0) i) ∧
       (∀ a, (s.pcOf a).1 ≠ pc → Tbl.at 0 t.hbm.mem a = Tbl.at 0 s.hbm.mem a)) ∧
     (idle → Does (.applyRepair pc) s fun t => shown t 0 ∧ Tbl.at 0 t.hbm.repair pc = s.reg .HBM_PC_REPAIR pc ∧
       pc ∈ t.hbm.repaired ∧ t.hbm.mem = s.hbm.mem ∧ KeepsBut s t cmd) ∧
     (∀ c ∈ [Instr.readTrain pc lanes ca, .writePattern pc ca, .readCompare pc lanes ca, .applyRepair pc, .online pc],
       ¬idle → Does c s refused) ∧
     (st = 2 → s.otherRetraining pc = false → Does (.retrain pc) s fun t => shown t 0 ∧
       t.get F.HBM_PC_STATE.STATE pc = 3 ∧
       t.get F.HBM_PC_RETRAIN_CNT.CNT pc = (s.get F.HBM_PC_RETRAIN_CNT.CNT pc + 1) % 2 ^ 48 ∧
       KeepsBut s t ((.HBM_PC_STATE, pc) :: (.HBM_PC_RETRAIN_CNT, pc) :: cmd)) ∧
     (st ≠ 2 ∨ s.otherRetraining pc = true → Does (.retrain pc) s refused) ∧
     (idle → Does (.online pc) s fun t => shown t 0 ∧ t.get F.HBM_PC_STATE.STATE pc = 2 ∧
       (∀ k, k < 38 → Tbl.at 0 t.hbm.dly (pc * 38 + k) = s.reg .HBM_PC_DLY (pc * 38 + k)) ∧ pc ∉ t.hbm.repaired) ∧
     (st = 2 ∨ st = 3 → s.isSet F.HBM_CTL.EN 0 = true → Does (.offline pc) s fun t => shown t 0 ∧
       t.get F.HBM_PC_STATE.STATE pc = 4 ∧ bitAt (t.get F.HBM_PC_OFFLINE.OFF 0) pc = true ∧
       t.get F.ERR_CLASS_CNT.CNT 2 = (s.get F.ERR_CLASS_CNT.CNT 2 + 1) % 2 ^ 48 ∧ t.hbm = s.hbm) ∧
     (st = 0 ∨ st = 1 ∨ st = 4 ∨ s.isSet F.HBM_CTL.EN 0 = false → Does (.offline pc) s refused))

/-- Requests (R354, R355, R359, R364, R367): an idle pseudo-channel that is ONLINE serves a request that reaches it: a write
is performed on its bytes and no others, a read gives the bytes as they stand, it is counted on its port, and no refresh is
owed after it; a RETRAINING one holds it with nothing performed; a full port holds it at its requestor, and every cycle of
the requestor's domain with the port full is counted. -/
def Obligations.HbmRequests : Prop :=
  ∀ (s : State) (pc : Nat) (r : HbmReq), s.live = true →
    let off := r.addr - hbmBase
    let sound := ∀ b ∈ burstsOf off r.len, s.burstState b = 2 ∧ Tbl.at 0 s.hbm.ue b = 0
    let lone := s.hbm.waiting = [] ∧ s.hbm.held = [] ∧ s.hbm.gate = [] ∧ s.inHbm r.addr r.len = true ∧
      (s.pcOf off).1 = pc
    (lone → sound → s.get F.HBM_PC_STATE.STATE pc = 2 → r.write = false → Does (.hbmRequest pc [r]) s fun t =>
      t.hbm.served = some (r.port, Tbl.getList 0 s.hbm.mem off r.len, false) ∧ t.hbm.waiting = [] ∧
      t.hbm.mem = s.hbm.mem ∧ Tbl.at 0 t.hbm.owed pc = 0 ∧
      t.get F.HBM_PORT_RD_CNT.CNT r.port = (s.get F.HBM_PORT_RD_CNT.CNT r.port + 1) % 2 ^ 64) ∧
    (lone → sound → s.get F.HBM_PC_STATE.STATE pc = 2 → r.write = true → r.data.length = r.len →
      Does (.hbmRequest pc [r]) s fun t => Tbl.getList 0 t.hbm.mem off r.len = r.data ∧ t.hbm.waiting = [] ∧
        (∀ a, a < off ∨ off + r.len ≤ a → Tbl.at 0 t.hbm.mem a = Tbl.at 0 s.hbm.mem a) ∧ Tbl.at 0 t.hbm.owed pc = 0 ∧
        t.get F.HBM_PORT_WR_CNT.CNT r.port = (s.get F.HBM_PORT_WR_CNT.CNT r.port + 1) % 2 ^ 64) ∧
    (lone → s.get F.HBM_PC_STATE.STATE pc = 3 → Does (.hbmRequest pc [r]) s fun t => t.hbm.served = s.hbm.served ∧
      t.hbm.mem = s.hbm.mem ∧ t.regs = s.regs ∧ ∃ w, t.hbm.waiting = [w] ∧ w.addr = r.addr ∧ w.len = r.len ∧
        w.port = r.port ∧ w.stream = r.stream ∧ w.write = r.write ∧ w.data = r.data) ∧
    (s.portFull r.port = true → s.get F.HBM_PC_STATE.STATE pc = 3 → Does (.hbmRequest pc [r]) s fun t =>
      t = { s with hbm := { s.hbm with gate := s.hbm.gate ++ [r] } }) ∧
    (∀ p, p < 12 → s.pending = [] → s.rst.refclk = true → s.ctl.mgtRx = [] → ∃ t, step s = .next t ∧
      t.get F.HBM_PORT_HOLD_CNT.CNT p = (s.get F.HBM_PORT_HOLD_CNT.CNT p +
        if s.portFull p && s.portRuns p then cyclesOf (portClock p) s.clock else 0) % 2 ^ 48)

/-- Accesses from any ports that overlap in even one byte are performed in the order in which they reach the controller, and
so are those of one stream (R357): requests that arrive go behind those that wait, as does one that the port's new room
lets in; the request that a pseudo-channel serves
overlaps none that reached the controller before it, whatever their ports, streams and urgencies; that one is performed and
the others wait on in their order. It is behind none of its own stream in a port with ORDER IN_ORDER, and no request that
could be served instead has a higher urgency (R355, R356, R358). -/
def Obligations.OverlapsInOrder : Prop :=
  ∀ (s : State) (pc : Nat) (arriving : List HbmReq) (r : HbmReq), s.live = true →
    let u := arriving.foldl State.enterPort s
    let key (w : HbmReq) : HbmReq := { w with passed := 0 }
    (∃ new, u.hbm.waiting = s.hbm.waiting ++ new) ∧
    (u.choose pc = some r → ∃ before after, u.hbm.waiting = before ++ r :: after ∧ (s.pcOf (r.addr - hbmBase)).1 = pc ∧
      (∀ e ∈ before, ∀ a, e.addr ≤ a → a < e.addr + e.len → ¬(r.addr ≤ a ∧ a < r.addr + r.len)) ∧
      (∀ e ∈ before, e.port = r.port → e.stream = r.stream → s.get F.HBM_PORT_CFG.ORDER r.port ≠ 1) ∧
      (∀ x ∈ u.servable pc [] u.hbm.waiting, u.urgency x ≤ u.urgency r) ∧
      (s.get F.HBM_PC_STATE.STATE pc ≠ 3 → Does (.hbmRequest pc arriving) s fun t =>
        (∃ next, t.hbm.waiting.map key = (before ++ after ++ next).map key ∧ next.length ≤ 1 ∧
          (u.hbm.gate = [] → next = [])) ∧ (t.hbm.served.map fun x => x.1) = some r.port))

/-- Bytes written by physical address read back as written, and every other byte of HBM is as it was, whatever the
requestors, the length and the alignment, where nothing waits and every burst touched is in service and without error
(R351, R360, R362). An access to a RETRAINING pseudo-channel waits with nothing performed, but the L2's modified lines
answer without it (R360, R367). -/
def Obligations.MemoryReadsBack : Prop :=
  ∀ (s : State) (port port' stream stream' pa : Nat) (data : List Byte), s.inHbm pa data.length = true →
    (s.hbm.waiting = [] → s.hbm.held = [] →
      (∀ b ∈ burstsOf (pa - hbmBase) data.length, s.burstState b = 2 ∧ Tbl.at 0 s.hbm.ue b = 0) →
      let w := s.physWrite port stream pa data
      let r := w.st.physRead port' stream' pa data.length
      w.stop = .ok ∧ r.stop = .ok ∧ r.bytes = data ∧
      ∀ a, a < pa - hbmBase ∨ pa - hbmBase + data.length ≤ a → Tbl.at 0 r.st.hbm.mem a = Tbl.at 0 s.hbm.mem a) ∧
    (∀ b ∈ burstsOf (pa - hbmBase) data.length, s.burstState b = 3 → s.inL2 b = false →
      let w := s.physWrite port stream pa data
      let r := s.physRead port stream pa data.length
      w.stop = .held ∧ r.stop = .held ∧ w.st.hbm.mem = s.hbm.mem ∧ w.st.hbm.blocked.isSome = true) ∧
    (s.hbm.waiting = [] → s.hbm.held = [] → (∀ b ∈ burstsOf (pa - hbmBase) data.length, s.inL2 b = true) →
      (s.physRead port stream pa data.length).stop = .ok ∧
      (s.physRead port stream pa data.length).bytes = Tbl.getList 0 s.hbm.mem (pa - hbmBase) data.length)

/-- The IOMMU's commands and fault queues (R374, R376): INV_ALL removes every cached entry, INV_DOM those of its domain,
INV_RANGE the domain's non-leaf entries and its leaves that map a byte of the range, and GO reads 1 until the removal is
done; while GO is 1 another command is ignored. A fault takes a place in its domain's queue, or is lost to a full one and
counted; a pop of 1 removes the oldest record. DMA channels (R378, R379): START in any state but RUNNING begins a transfer
at 0 bytes done, or is REFUSED; RESUME goes on from FAULT and MEM_ERR; ABORT is taken while RUNNING; a command that is not
accepted changes nothing. A chunk whose addresses translate and whose accesses succeed is written whole and adds its
length to BYTES_DONE, and the last one ends in DONE; a destination that faults stops the channel in FAULT with nothing
written; one that has to wait waits, and nothing of the chunk happens (12 R354, R367). -/
def Obligations.IommuAndDma : Prop :=
  (∀ (s : State) (d : Nat) (v : Word) (q : Src) (iova : Nat) (wr : Bool) (x : XFault), s.live = true →
     let first := s.get F.IOM_CMD_IOVA.IOVA 0
     let last := first + max 1 (s.get F.IOM_CMD_PAGES.PAGES 0)
     let pagesOf (c : CacheEnt) (p : Nat) := p / 2 ^ (levelShift c.level - 12) = c.tag
     let begun (t : State) := t.isSet F.IOM_CMD.GO 0 = true ∧ KeepsBut s t [(.IOM_CMD, 0)]
     let fq := Tbl.at [] s.iom.fq q.domain
     let f := s.iomFault q iova wr x
     (s.isSet F.IOM_CMD.GO 0 = false →
       Does .invAll s (fun t => t.iom = { s.iom with cache := [] } ∧ begun t) ∧
       Does (.invDom d) s (fun t => begun t ∧ ∀ c, c ∈ t.iom.cache ↔ c ∈ s.iom.cache ∧ c.domain ≠ d) ∧
       Does (.invRange d) s (fun t => begun t ∧ (∀ c, c.domain ≠ d → (c ∈ t.iom.cache ↔ c ∈ s.iom.cache)) ∧
         ∀ c ∈ t.iom.cache, c ∈ s.iom.cache ∧ (c.domain = d → isLeaf c.level c.entry = true ∧
           ∀ p, first ≤ p → p < last → ¬pagesOf c p))) ∧
     (s.isSet F.IOM_CMD.GO 0 = true → ∀ c ∈ [Instr.invAll, .invDom d, .invRange d], Does c s fun t => t = s) ∧
     Does .invalidateDone s (fun t => t.isSet F.IOM_CMD.GO 0 = false ∧ Only s t [(.IOM_CMD, 0)]) ∧
     Does (.iomFqPop d v) s (fun t => t.regs = s.regs ∧ Tbl.at [] t.iom.fq d =
         (if fld v 0 1 = 1 then (Tbl.at [] s.iom.fq d).tail else Tbl.at [] s.iom.fq d) ∧
       ∀ o, o ≠ d → Tbl.at [] t.iom.fq o = Tbl.at [] s.iom.fq o) ∧
     (64 ≤ fq.length → f.iom = s.iom ∧
       f.get F.IOM_FQ_LOST_CNT.CNT q.domain = (s.get F.IOM_FQ_LOST_CNT.CNT q.domain + 1) % 2 ^ 48) ∧
     (fq.length < 64 → ∃ w, Tbl.at [] f.iom.fq q.domain = fq ++ [w] ∧ w.length = 4 ∧
       fld (w.getD 0 0) 0 48 = iova % 2 ^ 48 ∧ fld (w.getD 0 0) 53 1 = b2n wr)) ∧
  (∀ (s : State) (ch : Nat), s.live = true →
     let st := s.get F.HBM_DMA_STATUS.STATE ch
     let state (t : State) (k : Nat) := t.get F.HBM_DMA_STATUS.STATE ch = k
     let done := s.get F.HBM_DMA_STATUS.BYTES_DONE ch
     let bytes (t : State) (n : Nat) := t.get F.HBM_DMA_STATUS.BYTES_DONE ch = n
     let len := s.get F.HBM_DMA_LEN.LEN ch
     let src := (s.get F.HBM_DMA_SRC.SRC ch + done) % 2 ^ 48
     let dst := (s.get F.HBM_DMA_DST.DST ch + done) % 2 ^ 48
     let dom := s.get F.HBM_DMA_CFG.DOMAIN ch
     let op := s.get F.HBM_DMA_CFG.OP ch
     let n := chunkLen op src dst (len - done)
     let ends (t : State) := state t (if Tbl.at false s.iom.abort ch then 5 else if len ≤ done + n then 2 else 1)
     let wrote (u : State) (pa : Nat) (data : List Byte) (t : State) := bytes t (done + n) ∧ ends t ∧
       t.hbm.mem = (u.physWrite 8 ch pa data).st.hbm.mem
     (st ≠ 1 → Does (.start ch) s fun t => state t (if s.dmaRefused ch then 6 else 1) ∧ bytes t 0 ∧
       Tbl.at false t.iom.abort ch = false ∧ KeepsBut s t [(.HBM_DMA_STATUS, ch)]) ∧
     (st = 1 → Does (.start ch) s fun t => t = s) ∧
     (st = 3 ∨ st = 4 → Does (.resume ch) s fun t => state t 1 ∧ bytes t done ∧ KeepsBut s t [(.HBM_DMA_STATUS, ch)]) ∧
     (st ≠ 3 → st ≠ 4 → Does (.resume ch) s fun t => t = s) ∧
     (st = 1 → Does (.abort ch) s fun t => Tbl.at false t.iom.abort ch = true ∧ t.regs = s.regs) ∧
     (st ≠ 1 → Does (.abort ch) s fun t => t = s) ∧
     (st ≠ 1 → Does (.dmaChunk ch) s fun t => t = s) ∧
     (∀ spa dpa u v, Ready s → st = 1 → op = 0 → done < len → s.translate dom src false = (.ok spa, u) →
       u.translate dom dst true = (.ok dpa, v) →
       let r := v.physRead 8 ch spa n
       (r.stop = .ok → (r.st.physWrite 8 ch dpa r.bytes).stop = .ok → Does (.dmaChunk ch) s fun t =>
         wrote r.st dpa r.bytes t)) ∧
     (∀ dpa u, Ready s → st = 1 → op = 1 → done < len → s.translate dom dst true = (.ok dpa, u) →
       (u.physWrite 8 ch dpa (fillBytes (s.get F.HBM_DMA_SRC.SRC ch) done n)).stop = .ok → Does (.dmaChunk ch) s fun t =>
         wrote u dpa (fillBytes (s.get F.HBM_DMA_SRC.SRC ch) done n) t) ∧
     (∀ x u, Ready s → st = 1 → op = 1 → done < len → s.translate dom dst true = (.error x, u) → Does (.dmaChunk ch) s fun t =>
       state t 3 ∧ bytes t done ∧ t.hbm.mem = u.hbm.mem) ∧
     (∀ dpa u, s.free = true → st = 1 → op = 1 → done < len → s.translate dom dst true = (.ok dpa, u) →
       (u.physWrite 8 ch dpa (fillBytes (s.get F.HBM_DMA_SRC.SRC ch) done n)).stop = .held → Does (.dmaChunk ch) s fun t =>
         t = { s with hbm := { s.hbm with held := t.hbm.held } } ∧ t.hbm.held ≠ []))

/-! ## The control complex -/

/-- Event queues (R406, R409 to R412, R414, R415): a producer's oldest item is discarded by a disabled queue, lost and
counted where it is larger than the queue, taken by the first stalled read, and else put behind the items that are left,
with PEND set. A read of HEAD takes the oldest item, header to the hart and words to the latch of its mode; an empty queue
answers the empty word at once with an interrupt pending or EN 0, else the read stalls until an item or a wake. FLUSH
empties the queue and stops at no stalled read. EN from 0 to 1 empties it; while EN is 1 the size and BASE stay. -/
def Obligations.EventQueues : Prop :=
  ∀ (s : State) (q src h mie swip : Nat) (p : Priv) (v : Word), s.live = true →
    let on := s.isSet F.CTL_EVQ_CFG.EN q
    let m := decide (p = .m)
    let u := s.setMie h mie swip
    let free := ∀ w ∈ s.ctl.stalls, w.hart ≠ h
    (∀ item rest, Tbl.at [] s.ctl.crossing src = (q, item) :: rest →
      (on = false → Does (.eventItemPost src) s fun t => Tbl.at [] t.ctl.crossing src = rest ∧ t.ctl.items = s.ctl.items ∧
        t.ctl.stalls = s.ctl.stalls ∧ t.regs = s.regs) ∧
      (on = true → s.queueSize q < entriesOf item → Does (.eventItemPost src) s fun t =>
        Tbl.at [] t.ctl.crossing src = rest ∧ t.ctl.items = s.ctl.items ∧
        t.get F.CTL_EVQ_LOST_CNT.CNT q = (s.get F.CTL_EVQ_LOST_CNT.CNT q + 1) % 2 ^ 48 ∧
        KeepsBut s t [(.CTL_EVQ_LOST_CNT, q)]) ∧
      (on = true → entriesOf item ≤ s.queueSize q → (∀ w ∈ s.ctl.stalls, w.queue ≠ q) → Does (.eventItemPost src) s fun t =>
        Tbl.at [] t.ctl.crossing src = rest ∧ t.isSet F.CTL_EVQ_NOTICE.PEND q = true ∧
        t.get F.CTL_EVQ_ITEM_CNT.CNT q = (s.get F.CTL_EVQ_ITEM_CNT.CNT q + 1) % 2 ^ 64 ∧
        (∃ k, t.items q = (s.items q).drop k ++ [item] ∧ k ≤ (s.items q).length ∧
          t.get F.CTL_EVQ_LOST_CNT.CNT q = (s.get F.CTL_EVQ_LOST_CNT.CNT q + k) % 2 ^ 48) ∧
        ∀ o, o ≠ q → t.items o = s.items o) ∧
      (∀ w ws, on = true → entriesOf item ≤ s.queueSize q → takeFirst (fun w => w.queue = q) s.ctl.stalls = some (w, ws) →
        Does (.eventItemPost src) s fun t => t.ctl.stalls = ws ∧ t.ctl.items = s.ctl.items ∧
          Tbl.at 0 t.hart.resp w.hart = item.headD 0 ∧ t.isSet F.CTL_EVQ_NOTICE.PEND q = true)) ∧
    (∀ item rest, s.items q = item :: rest → item.length ≤ 32 → free → Does (.evqHeadRead h p q mie swip) s fun t =>
      t.items q = rest ∧ Tbl.at 0 t.hart.resp h = item.headD 0 ∧
      (∀ i, i < 32 → Tbl.at 0 t.ctl.latch (latchKey q h m + i) = item.getD i 0) ∧
      (∀ k, k < latchKey q h m ∨ latchKey q h m + 32 ≤ k → Tbl.at 0 t.ctl.latch k = Tbl.at 0 s.ctl.latch k) ∧
      (∀ o, o ≠ q → t.items o = s.items o) ∧ t.regs = s.regs) ∧
    (s.items q = [] → free → u.interrupted h = true ∨ on = false → Does (.evqHeadRead h p q mie swip) s fun t =>
      Tbl.at 0 t.hart.resp h = emptyWord ∧ t.ctl = s.ctl ∧ t.regs = s.regs) ∧
    (s.items q = [] → free → u.interrupted h = false → on = true → Does (.evqHeadRead h p q mie swip) s fun t =>
      t.ctl = { s.ctl with stalls := s.ctl.stalls ++ [⟨q, h, m⟩] } ∧ t.hart.resp = s.hart.resp) ∧
    (∀ w ws, takeFirst (fun w => w.hart = h) s.ctl.stalls = some (w, ws) →
      (u.interrupted h = true ∨ s.isSet F.CTL_EVQ_CFG.EN w.queue = false → Does (.evqReadWake h mie swip) s fun t =>
        Tbl.at 0 t.hart.resp h = emptyWord ∧ t.ctl = { s.ctl with stalls := ws }) ∧
      (u.interrupted h = false → s.isSet F.CTL_EVQ_CFG.EN w.queue = true → Does (.evqReadWake h mie swip) s fun t =>
        t.ctl = s.ctl ∧ t.hart.resp = s.hart.resp)) ∧
    Does (.evqFlush q []) s (fun t => t.items q = [] ∧ (∀ o, o ≠ q → t.items o = s.items o) ∧ t.regs = s.regs ∧
      t.ctl.stalls = s.ctl.stalls ∧ t.ctl.latch = s.ctl.latch ∧ t.ctl.crossing = s.ctl.crossing) ∧
    (∀ item rest, Tbl.at [] s.ctl.crossing src = (q, item) :: rest → Does (.evqFlush q [src]) s fun t =>
      t.items q = [] ∧ Tbl.at [] t.ctl.crossing src = rest ∧
      t.get F.CTL_EVQ_FLUSH_PARTIAL_CNT.CNT q = (s.get F.CTL_EVQ_FLUSH_PARTIAL_CNT.CNT q + 1) % 2 ^ 48 ∧
      KeepsBut s t [(.CTL_EVQ_FLUSH_PARTIAL_CNT, q)]) ∧
    (on = false → Does (.ctlEvqCfgWrite q v) s fun t => t.items q = (if bitAt v.toNat 63 then [] else s.items q) ∧
      t.get F.CTL_EVQ_CFG.LOG2_SIZE q = clampNat (fld v 59 4) 2 12 ∧ t.get F.CTL_EVQ_CFG.BASE q = fld v 4 42 ∧
      t.isSet F.CTL_EVQ_CFG.EN q = bitAt v.toNat 63 ∧ KeepsBut s t [(.CTL_EVQ_CFG, q)]) ∧
    (on = true → Does (.ctlEvqCfgWrite q v) s fun t => t.items q = s.items q ∧
      t.get F.CTL_EVQ_CFG.LOG2_SIZE q = s.get F.CTL_EVQ_CFG.LOG2_SIZE q ∧
      t.get F.CTL_EVQ_CFG.BASE q = s.get F.CTL_EVQ_CFG.BASE q ∧ t.get F.CTL_EVQ_CFG.TGT_HART q = fld v 56 3 ∧
      t.isSet F.CTL_EVQ_CFG.EN q = bitAt v.toNat 63 ∧ KeepsBut s t [(.CTL_EVQ_CFG, q)])

/-- An item that finds too few free entries discards the oldest whole items, no more than it needs, and each is counted; an
item of more entries than the queue holds is discarded itself and counted; the queue never holds its producer, and it never
holds more than its entries (R410). The case of a stalled read, which takes the item, is in EventQueues. -/
def Obligations.QueueMakesRoom : Prop :=
  ∀ (s : State) (q src : Nat) (item : List Word) (rest : List (Nat × List Word)), s.live = true →
    s.isSet F.CTL_EVQ_CFG.EN q = true → (∀ w ∈ s.ctl.stalls, w.queue ≠ q) →
    Tbl.at [] s.ctl.crossing src = (q, item) :: rest → entriesHeld (s.items q) ≤ s.queueSize q →
    let lost (t : State) (k : Nat) := t.get F.CTL_EVQ_LOST_CNT.CNT q = (s.get F.CTL_EVQ_LOST_CNT.CNT q + k) % 2 ^ 48
    Does (.eventItemPost src) s fun t => Tbl.at [] t.ctl.crossing src = rest ∧ t.queueSize q = s.queueSize q ∧
      entriesHeld (t.items q) ≤ t.queueSize q ∧
      (s.queueSize q < entriesOf item → t.items q = s.items q ∧ lost t 1) ∧
      (entriesOf item ≤ s.queueSize q → ∃ k, k ≤ (s.items q).length ∧ t.items q = (s.items q).drop k ++ [item] ∧ lost t k ∧
        (0 < k → s.queueSize q < entriesHeld ((s.items q).drop (k - 1)) + entriesOf item))

/-- The management port, MDIO and the harts' lines (R36, R405, R416 to R419): a frame too short, too long or with a bad FCS
is counted as an error, one for another address ignored, and one of the port is delivered to the ring, or discarded by a
disabled one, or dropped whole and counted by a full receive crossing; frames of the root of trust leave before the ring's. An MDIO frame is sent as CTL_MDIO_CMD has it, and a read
leaves its data. The link's state follows the port, MTIP follows the compare, a doorbell sets its channel's bit. -/
def Obligations.ControlPort : Prop :=
  ∀ (s : State) (bs : List Byte) (data speed h : Nat) (up duplex : Bool) (v : Word), s.live = true → s.free = true →
    let body := bs.take (bs.length - 4)
    let sized := 64 ≤ bs.length ∧ bs.length ≤ 1522
    let mine := s.mgtAccepts (slice bs 0 6) = true ∧ beAt bs 12 2 ≠ 0x8808
    let c := s.rxRing .mgt
    let head := c.head % c.size
    let quiet := s.claimV4 = none ∧ s.claimV6 = none
    let one := s.inc F.CTL_MGT_RX_FRM_CNT.CNT 0
    let d := one.ringRead c (c.base + head * 32) 8
    let w := d.st.ringWrite c (ofLe d.bytes % 2 ^ 48) body
    let back := leBytes 8 (rxWord1 0 body.length true true false) ++ leBytes 8 0
    let counted (t : State) := t.get F.CTL_MGT_RX_FRM_CNT.CNT 0 = (s.get F.CTL_MGT_RX_FRM_CNT.CNT 0 + 1) % 2 ^ 64
    let sent (t : State) (f : List Byte) := t.ctl.mgtSent = some f ∧
      t.get F.CTL_MGT_TX_FRM_CNT.CNT 0 = (s.get F.CTL_MGT_TX_FRM_CNT.CNT 0 + 1) % 2 ^ 64
    let x := s.txRing .mgt
    let xh := x.head % x.size
    let xd := s.ringRead x (x.base + xh * 32) 24
    let xw (k : Nat) := ofLe (slice xd.bytes (8 * k) 8)
    let xb := xd.st.ringRead x (xw 0 % 2 ^ 48) (xw 1 % 16384)
    let xr := xb.st.ringWrite x (x.base + xh * 32 + 8) (leBytes 8 (setBits (xw 1) 16 2 2))
    let still := s.ctl.mgtRx = []
    let mdio (op : Nat) (t : State) := t.ctl = { s.ctl with mdioSent := some (t.reg .CTL_MDIO_CMD 0) } ∧
      t.get F.CTL_MDIO_CMD.OP 0 = op ∧ KeepsBut s t [(.CTL_MDIO_CMD, 0), (.CTL_MDIO_DATA, 0)]
    (∀ ok, ¬sized ∨ ok = false → Does (.mgtFrameReceive bs ok) s fun t =>
      t.get F.CTL_MGT_RX_ERR_CNT.CNT 0 = (s.get F.CTL_MGT_RX_ERR_CNT.CNT 0 + 1) % 2 ^ 48 ∧
      Only s t [(.CTL_MGT_RX_ERR_CNT, 0)]) ∧
    (sized → ¬mine → Does (.mgtFrameReceive bs true) s fun t => t = s) ∧
    (sized → mine → 8192 < (s.ctl.mgtRx.map List.length).sum + body.length → Does (.mgtFrameReceive bs true) s fun t =>
      counted t ∧ t.get F.CTL_MGT_RX_OVF_CNT.CNT 0 = (s.get F.CTL_MGT_RX_OVF_CNT.CNT 0 + 1) % 2 ^ 48) ∧
    (sized → mine → quiet → still → c.en = false ∨ head = c.tail % c.size → Does (.mgtFrameReceive bs true) s fun t => counted t ∧
      t.get F.CTL_MGT_RX_DISCARD_CNT.CNT 0 = (s.get F.CTL_MGT_RX_DISCARD_CNT.CNT 0 + 1) % 2 ^ 48 ∧
      Only s t [(.CTL_MGT_RX_FRM_CNT, 0), (.CTL_MGT_RX_DISCARD_CNT, 0)]) ∧
    (sized → mine → quiet → still → Ready s → c.en = true → head ≠ c.tail % c.size → body.length ≤ c.bufsz → d.stop = .ok → w.stop = .ok →
      (w.st.ringWrite c (c.base + head * 32 + 8) back).stop = .ok → Does (.mgtFrameReceive bs true) s fun t =>
        counted t ∧ t.get F.CTL_MGT_RX_HEAD.HEAD 0 = (head + 1) % c.size ∧
        t.isSet F.CTL_MGT_RX_CFG.EN 0 = true ∧
        t.hbm = (w.st.ringWrite c (c.base + head * 32 + 8) back).st.hbm ∧
        Tbl.at [] t.ctl.crossing 12 = Tbl.at [] s.ctl.crossing 12 ++
          [(s.get F.CTL_MGT_CFG.EVQ 0, [itemHeader 12 0 0 0 0, wd (head * 2 ^ 48 + 1 * 2 ^ 32)])]) ∧
    (∀ f fs, s.ctl.rotTx = f :: fs → Does .mgtTxFrame s fun t => sent t f ∧ t.ctl.rotTx = fs ∧
      KeepsBut s t [(.CTL_MGT_TX_FRM_CNT, 0)]) ∧
    (s.ctl.rotTx = [] → x.en = false ∨ xh = x.tail % x.size → Does .mgtTxFrame s fun t => t = s) ∧
    (s.ctl.rotTx = [] → Ready s → x.en = true → xh ≠ x.tail % x.size → xd.stop = .ok → bitAt (xw 1) 15 = true →
      xw 1 % 16384 + 4 ≤ 1522 → xb.stop = .ok → xr.stop = .ok → Does .mgtTxFrame s fun t => sent t xb.bytes ∧
        t.get F.CTL_MGT_TX_HEAD.HEAD 0 = (xh + 1) % x.size) ∧
    Does .mdioAddress s (fun t => mdio 0 t ∧ t.get F.CTL_MDIO_DATA.DATA 0 = s.get F.CTL_MDIO_DATA.DATA 0) ∧
    Does .mdioWrite s (fun t => mdio 1 t ∧ t.get F.CTL_MDIO_DATA.DATA 0 = s.get F.CTL_MDIO_DATA.DATA 0) ∧
    Does (.mdioReadInc data) s (fun t => mdio 2 t ∧ t.get F.CTL_MDIO_DATA.DATA 0 = data % 2 ^ 16) ∧
    Does (.mdioRead data) s (fun t => mdio 3 t ∧ t.get F.CTL_MDIO_DATA.DATA 0 = data % 2 ^ 16) ∧
    Does (.mgtLinkChange up speed duplex) s (fun t => t.isSet F.CTL_MGT_STATUS.LINK 0 = up ∧
      t.get F.CTL_MGT_STATUS.SPEED 0 = speed % 4 ∧ t.isSet F.CTL_MGT_STATUS.DUPLEX 0 = duplex ∧
      Only s t [(.CTL_MGT_STATUS, 0)]) ∧
    Does (.machineTimerInterrupt h) s (fun t => Tbl.at false t.hart.mtip h = decide ((s.reg .CTL_MTIMECMP h).toNat ≤ s.mtime) ∧
      t = { s with hart := { s.hart with mtip := t.hart.mtip } } ∧
      ∀ o, o ≠ h → Tbl.at false t.hart.mtip o = Tbl.at false s.hart.mtip o) ∧
    Does (.ctlRyuDoorbell v) s (fun t => Only s t [(.CTL_RYU_PEND, 0)] ∧ ∀ k, k < 8 →
      bitAt (t.get F.CTL_RYU_PEND.PEND 0) k = (bitAt (s.get F.CTL_RYU_PEND.PEND 0) k || decide (k = fld v 0 3)))

/-- Ryutal messages (R421, R423, R424): the pending channel of lowest number is answered: VERSION, FEAT_GET and the first
valid FEAT_SET, which locks the set; a later one LOCKED, an invalid one refused; each message of a feature that is not in
the locked set NOT_NEGOTIATED, and else its own answer; FAILED has LEN 0 and a code behind it; an unknown message BAD_MSG. A request answered already only loses
its doorbell. -/
def Obligations.RyutalMessages : Prop :=
  ∀ (s : State) (c st0 st1 : Nat) (margins : List Nat), s.live = true → s.free = true → c < 8 →
    let b := channelBase c
    let n := ofLe (s.scr (b + 4) 2)
    let req := s.scr (b + 0x40) n
    let set := ofLe req
    let ans (status : Nat) (payload : List Byte) (t : State) := RyuAnswered s t c status payload ∧ KeepsRegs s t [.CTL_RYU_PEND]
    let featured : List (Instr × Nat × Nat × Nat) := [(.thermalRead c st0 st1, 0x10, 1, 0), (.hbmInfo c margins, 0x11, 2, 0),
      (.channelMaskSet c, 0x12, 3, 8), (.errEventsCfg c, 0x13, 5, 8), (.traceRead c, 0x14, 6, 16)]
    let cfg := s.writeConfig (bytesWords 1 req ++ (s.sec.bootWords.drop 2).take 508)
    (RyuWaits s c 1 → n = 0 → Does (.version c) s (ans 0 (leBytes 8 (2 ^ 48) ++ leBytes 8 Config.firmwareVersion.toNat ++
      leBytes 8 (s.get F.CTL_RYU_CFG.FW_HART 0)))) ∧
    (∀ m, RyuWaits s c m → knownRyu m = false → Does (.version c) s (ans 1 [])) ∧
    (RyuWaits s c 2 → n = 0 → Does (.featGet c) s (ans 0 s.featPayload)) ∧
    (RyuWaits s c 3 → s.ctl.ryuLocked = true → Does (.featSet c) s (ans 5 s.featPayload)) ∧
    (RyuWaits s c 3 → s.ctl.ryuLocked = false → n ≠ 32 → Does (.featSet c) s (ans 2 [])) ∧
    (RyuWaits s c 3 → s.ctl.ryuLocked = false → n = 32 → badFeatures set = true → Does (.featSet c) s (ans 4 [])) ∧
    (RyuWaits s c 3 → s.ctl.ryuLocked = false → n = 32 → badFeatures set = false → Does (.featSet c) s fun t =>
      RyuAnswered s t c 0 (leBytes 32 offered ++ leBytes 32 set ++ leBytes 8 1) ∧ t.ctl.ryuLocked = true ∧
      t.ctl.ryuAccepted = set) ∧
    (∀ x ∈ featured, RyuWaits s c x.2.1 → (s.negotiated x.2.2.1 = false → Does x.1 s (ans 3 [])) ∧
      (s.negotiated x.2.2.1 = true → n ≠ x.2.2.2 → Does x.1 s (ans 2 []))) ∧
    (RyuWaits s c 0x10 → s.negotiated 1 = true → n = 0 → Does (.thermalRead c st0 st1) s (ans 0
      (leBytes 8 (s.get F.ERR_THERM_STATUS.TJ 0) ++ leBytes 8 (st0 % 65536) ++ leBytes 8 (st1 % 65536)))) ∧
    (RyuWaits s c 0x11 → s.negotiated 2 = true → n = 0 → Does (.hbmInfo c margins) s (ans 0
      (wordBytes [s.reg .HBM_PC_MASK 0, s.reg .HBM_PC_OFFLINE 0, s.reg .HBM_BOOT_FAIL 0]
      ++ (List.range 64).flatMap (fun i => leBytes 8 (margins.getD i 0 % 65536))))) ∧
    (RyuWaits s c 0x12 → s.negotiated 3 = true → n = 8 → Does (.channelMaskSet c) s fun t =>
      (cfg.1 = true → RyuAnswered s t c 0 []) ∧ (cfg.1 = false → ∃ code, RyuAnswered s t c 6 (leBytes 8 code)) ∧
      t.sec.flash = cfg.2.sec.flash ∧ KeepsRegs s t [.CTL_RYU_PEND]) ∧
    (RyuWaits s c 0x13 → s.negotiated 5 = true → n = 8 → Does (.errEventsCfg c) s fun t => ans 0 [] t ∧
      t.ctl.errEvents = set % 128) ∧
    (RyuWaits s c 0x14 → s.negotiated 6 = true → n = 16 → Does (.traceRead c) s (ans 0
      (s.traceBytes (ofLe (slice req 0 8)) (min (ofLe (slice req 8 8)) 1984)))) ∧
    (s.firmwareRuns = true → s.ryuNext c = true → s.ryuMsg c = 2 → s.scr (b + 12) 4 = s.scr (b + 0x80C) 4 →
      Does (.featGet c) s fun t => bitAt (t.get F.CTL_RYU_PEND.PEND 0) c = false ∧ Only s t [(.CTL_RYU_PEND, 0)])

/-! ## The root of trust -/

/-- Boot (R425, R426, R432, R433): a failed self-test ends the root of trust's work with BOOT_STATE FAILED and a Fatal error,
and no hart runs. With it passed, keys are derived unless the part is RETIRED, or an unlock has closed the read path of
DEVICE_SECRET, and MEAS0 takes the fuse record; with no image in either slot BOOT_STATE is FAILED and hart 0 waits; an
image that verifies in the slot tried first starts hart 0 at its ENTRY. A boot that is done is not done again. Network
requests and debug unlock (R443, R445, R450): the oldest network request is taken only while no mailbox request waits, and
its answer goes to the management port; a challenge replaces any earlier one; an unlock without a valid token is refused
in SECURED and consumes the challenge; an accepted one clears the keys, the seal secret, the registers and the key sets
before it opens access; nothing happens while TRST_N is low, nor once a failed self-test has ended its work (R432). -/
def Obligations.BootAndAccess : Prop :=
  (∀ (s : State), s.live = true → s.sec.dead = false →
     let slot := s.slotOrder.1
     let hdr := s.flash (slotOffset slot) 512
     let state (t : State) (k : Nat) := t.get F.SEC_STATUS.BOOT_STATE 0 = k
     let measured (t : State) := t.sec.booted = true ∧ t.sec.fuses = s.sec.fuses ∧ t.sec.flash = s.sec.flash ∧
       (s.sec.fuses.lifecycle < 2 → s.sec.secretOpen = true → t.akValid = true) ∧
       (s.sec.secretOpen = false → t.akValid = s.akValid ∧ t.sec.ak = s.sec.ak) ∧ (s.extCnt 0 ≠ 0xFFFFFFFF → t.extCnt 0 = s.extCnt 0 + 1 ∧
         t.meas 0 = sha384 (digestBytes (s.meas 0) ++ digestBytes (sha384 s.sec.fuses.record)))
     (s.sec.booted = false → Does (.rootOfTrustBoot false) s fun t => state t 3 ∧ t.get F.SEC_STATUS.FAIL 0 = 4 ∧
       t.sec = { s.sec with dead := true } ∧ (∀ h, h < 8 → Tbl.at false t.hart.wfi h = true) ∧
       t.get F.ERR_CLASS_CNT.CNT 3 = (s.get F.ERR_CLASS_CNT.CNT 3 + 1) % 2 ^ 48) ∧
     (s.sec.booted = false → s.slotMagic 0 = false → s.slotMagic 1 = false → Does (.rootOfTrustBoot true) s fun t =>
       measured t ∧ state t 3 ∧ t.get F.SEC_STATUS.FAIL 0 = 1 ∧ ∀ h, h < 8 → Tbl.at false t.hart.wfi h = true) ∧
     (s.sec.booted = false → (s.trySlot slot).1 = 0 → Does (.rootOfTrustBoot true) s fun t => measured t ∧ state t 2 ∧
       t.isSet F.SEC_STATUS.SLOT_B 0 = decide (slot = 1) ∧ t.sec.imgSvn = byteAt hdr 0x10 % 64 ∧
       Tbl.at 0 t.hart.fetch 0 = 0x08000000 + ofLe (slice hdr 12 4) ∧
       ∀ h, 0 < h → h < 8 → Tbl.at false t.hart.wfi h = true) ∧
     (s.sec.booted = true → ∀ ok, Does (.rootOfTrustBoot ok) s fun t => t = s)) ∧
  (∀ (s : State) (token : List Byte), s.live = true →
     (∀ r rest, s.rotServes = true → s.sec.mbxM = false → s.sec.mbxS = false → s.sec.netQueue = r :: rest →
       Does .networkRequest s fun t => t.sec.netQueue = rest ∧ t.sec.lastNet = some s.clock ∧
         t.get F.SEC_NET_REQ_CNT.CNT 0 = (s.get F.SEC_NET_REQ_CNT.CNT 0 + 1) % 2 ^ 48 ∧
         (∃ f, t.ctl.rotTx = s.ctl.rotTx ++ [f]) ∧ t.sec.reportSeq = s.sec.reportSeq + b2n (decide (r.op = 1))) ∧
     (s.sec.mbxM = true ∨ s.sec.mbxS = true → Does .networkRequest s fun t => t = s) ∧
     (s.rst.trstLow = true ∨ s.sec.dead = true → Does .secChallenge s (fun t => t = s) ∧ Does (.secUnlock token) s fun t => t = s) ∧
     (s.rst.trstLow = false → s.sec.dead = false → Does .secChallenge s (fun t => t.regs = s.regs ∧ ∃ random : List Byte, random.length = 32 ∧
       t.sec = { s.sec with challenge := some (leBytes 16 s.sec.fuses.deviceId.toNat ++ random) })) ∧
     (s.rst.trstLow = false → s.sec.dead = false → s.sec.fuses.lifecycle = 1 → s.tokenOk token = false → Does (.secUnlock token) s fun t =>
       t = { s with sec := { s.sec with challenge := none } }) ∧
     (s.rst.trstLow = false → s.sec.dead = false → s.sec.fuses.lifecycle ≠ 1 ∨ s.tokenOk token = true → Does (.secUnlock token) s fun t =>
       t.sec.ak = 0 ∧ t.sec.sealSecret = 0 ∧ t.sec.secretOpen = false ∧ t.sec.challenge = none ∧
       (∀ i, t.meas i = 0 ∧ t.extCnt i = 0) ∧ t.srt.keys = [] ∧ t.akValid = false ∧
       t.isSet F.SEC_STATUS.LOCKED 0 = false ∧ t.isSet F.SEC_STATUS.DEBUG 0 = true ∧ t.sec.fuses = s.sec.fuses ∧
       KeepsBut s t [(.SEC_STATUS, 0)]))

/-- Mailbox messages (R435, R436, R438 to R442, R446, R448): the doorbell of the M half rings only from M mode; a request
that waits is answered in its half, in the order M, S: REPORT, READ_MEAS, EXTEND, GET_CERT from either half, VERIFY, LOCK,
CFG_WRITE, SVN_COMMIT, WRAP and UNWRAP from the M half alone; READ_MEAS with a payload BAD_LEN, an unknown message BAD_MSG; after LOCK,
VERIFY and SVN_COMMIT are denied, whatever their LEN. -/
def Obligations.MailboxMessages : Prop :=
  ∀ (s : State) (m : Bool) (h : Nat) (p : Priv) (v : Word), s.live = true →
    let n := ofLe (s.mbx (halfBase m + 4) 2)
    let req := s.mbx (halfBase m + 0x40) n
    let w := ofLe (slice req 0 8)
    let r := s.ring m false
    let ans (status : Nat) (payload : List Byte) (t : State) := MbxAnswered s t m status payload
    let fails (status : Nat) (t : State) := ans status [] t ∧ t.regs = s.regs ∧ t.sec = r.sec
    let lone : List (Instr × Nat) := [(.verify m, 0x10), (.lock m, 0x11), (.cfgWrite m, 0x12), (.svnCommit m, 0x13),
      (.wrap m, 0x20), (.unwrap m, 0x21)]
    let cfg := r.writeConfig (bytesWords 509 req)
    let count := bitsOf w 16 8
    let key := s.sealKey (w % 65536)
    let locked := s.isSet F.SEC_STATUS.LOCKED 0 = true
    (p = .m → fld v 0 1 = 1 → Does (.secMbxDbM h p v) s fun t => t = s.ring true true) ∧
    (p ≠ .m → Does (.secMbxDbM h p v) s fun t => t = s.accessFault h .store 0x30001000) ∧
    (fld v 0 1 = 1 → Does (.secMbxDbS v) s fun t => t = s.ring false true) ∧
    (MbxWaits s m 1 → n = 32 → Does (.report m) s fun t => ans (if s.akValid then 0 else 4) (r.report req).1 t ∧
      t.sec.reportSeq = s.sec.reportSeq + 1 ∧
      t.get F.SEC_REPORT_CNT.CNT 0 = (s.get F.SEC_REPORT_CNT.CNT 0 + 1) % 2 ^ 48) ∧
    (∀ k, MbxWaits s m k → knownMsg k = false → n ≤ 0x3FC0 → Does (.report m) s (fails 1)) ∧
    (MbxWaits s m 2 → n = 0 → Does (.readMeas m) s fun t => ans 0 ((List.range 16).flatMap (fun i => digestBytes (s.meas i))
      ++ (List.range 16).flatMap (fun i => leBytes 4 (s.extCnt i))) t ∧ t.regs = s.regs ∧ t.sec = r.sec) ∧
    (MbxWaits s m 2 → n ≠ 0 → Does (.readMeas m) s (fails 2)) ∧
    (MbxWaits s m 3 → n = 56 →
      (16 ≤ w ∨ mayExtend m w = false ∨ s.extCnt w = 0xFFFFFFFF → Does (.extend m) s (fails 3)) ∧
      (w < 16 → mayExtend m w = true → s.extCnt w ≠ 0xFFFFFFFF → Does (.extend m) s fun t => ans 0 (digestBytes (t.meas w)) t ∧
        t.meas w = sha384 (digestBytes (s.meas w) ++ slice req 8 48) ∧ t.extCnt w = s.extCnt w + 1 ∧
        ∀ i, i ≠ w → t.meas i = s.meas i ∧ t.extCnt i = s.extCnt i)) ∧
    (MbxWaits s m 4 → n = 0 → Does (.getCert m) s fun t => ans 0 s.sec.fuses.cert t ∧ t.regs = s.regs ∧ t.sec = r.sec) ∧
    (m = false → ∀ x ∈ lone, MbxWaits s m x.2 → Does x.1 s (fails 3)) ∧
    (m = true → MbxWaits s m 0x10 →
      let found := checkImage s.sec.fuses 2 req (Config.osSignature req) none
      (locked → Does (.verify m) s (fails 3)) ∧
      (¬locked → n ≠ 176 → Does (.verify m) s (fails 2)) ∧
      (¬locked → n = 176 → found = 2 ∨ found = 3 → Does (.verify m) s (fails (if found = 2 then 5 else 6))) ∧
      (¬locked → n = 176 → found = 0 → s.extCnt 3 ≠ 0xFFFFFFFF → Does (.verify m) s fun t => ans 0 [] t ∧
        t.meas 3 = sha384 (digestBytes (s.meas 3) ++ digestBytes (sha384 req)) ∧
        t.sec.verifiedKey = sha384 (slice req 0x20 96))) ∧
    (m = true → MbxWaits s m 0x11 → n = 0 → Does (.lock m) s fun t => ans 0 [] t ∧ t.isSet F.SEC_STATUS.LOCKED 0 = true ∧
      t.sec = r.sec ∧ KeepsBut s t [(.SEC_STATUS, 0)]) ∧
    (m = true → MbxWaits s m 0x12 → n = 4072 → Does (.cfgWrite m) s fun t => ans (if cfg.1 then 0 else 8) [] t ∧
      t.sec = cfg.2.sec ∧ t.regs = s.regs) ∧
    (m = true → MbxWaits s m 0x13 →
      (locked → Does (.svnCommit m) s (fails 3)) ∧
      (¬locked → n = 8 → 64 < ofLe req ∨ s.sec.imgSvn < ofLe req → Does (.svnCommit m) s (fails 3)) ∧
      (¬locked → n = 8 → ofLe req ≤ 64 → ofLe req ≤ s.sec.imgSvn → Does (.svnCommit m) s fun t => ans 0 [] t ∧
        t.sec.fuses = { s.sec.fuses with svn := max s.sec.fuses.svn (ofLe req) } ∧ t.regs = s.regs)) ∧
    (m = true → MbxWaits s m 0x20 → n ≤ 0x3FC0 →
      (n ≠ count + 8 ∨ sealLenOk count = false → Does (.wrap m) s (fails 2)) ∧
      (n = count + 8 → sealLenOk count = true → s.akValid = false → Does (.wrap m) s (fails 4)) ∧
      (n = count + 8 → sealLenOk count = true → s.akValid = true → Does (.wrap m) s fun t =>
        ans 0 (leBytes 8 (w % 65536 + count * 65536 + 2 ^ 24) ++ keyWrap key (slice req 8 count)) t ∧ t.sec = r.sec)) ∧
    (m = true → MbxWaits s m 0x21 → n = count + 16 → sealLenOk count = true → s.akValid = true →
      let data := keyUnwrap key (slice req 8 (count + 8))
      (bitsOf w 24 8 ≠ 1 ∨ data = none → Does (.unwrap m) s fun t => ans 7 [] t ∧ t.sec = r.sec) ∧
      (∀ bs, bitsOf w 24 8 = 1 → data = some bs → Does (.unwrap m) s fun t => ans 0 bs t ∧ t.sec = r.sec))

/-! ## Errors, trace, temperature -/

/-- Records, slots and logs (R454 to R457, R462, R464): an error below Fatal fills its class's empty slot, else goes behind
its class's log, or is counted lost by a full one; a write of ERR_STATUS empties slots, a pop takes the oldest record; an
injected error of a listed code makes a record with INJ 1 in the class of its code and any other nothing; firmware takes
the record that reached the logs first, whatever its class, and posts it (R458). Sources of errors and the trace (R452,
R453, R463, R464): a detected error makes a record in its class and its count, an SRAM error harms what it hit, an
uncorrectable burst of HBM is marked, a lost write-back leaves its line as the stacks still hold it (14 R404), an error of
a dispatcher side sets that side's flag (06 R200, R202); an unanswered access is an error response and a Contained error,
a lost clock a Fatal one; software's trace entry carries the privilege of its committing write, and a read of the trace
advances. -/
def Obligations.ErrorHandling : Prop :=
  (∀ (s : State) (v : Word), s.live = true →
     let full (x : State) (k : Nat) := bitAt (x.reg .ERR_STATUS 0).toNat k
     let slot (x : State) (k i : Nat) := x.reg .ERR_SLOT_W (4 * k + i)
     let log (x : State) (k : Nat) := Tbl.at [] x.err.logs k
     let classes (t : State) (k : Nat) := t.get F.ERR_CLASS_CNT.CNT k = (s.get F.ERR_CLASS_CNT.CNT k + 1) % 2 ^ 48
     let subsys := fld v 48 4
     (∀ inj sub code inst k info, k < 3 →
       let t := s.raise inj (k + 1) sub code inst info
       let ws := errRecord inj (k + 1) sub code inst info s.mtime ((s.get F.ERR_CLASS_CNT.CNT k + 1) % 2 ^ 48)
       classes t k ∧ t.rst = s.rst ∧ t.err.faultN = s.err.faultN ∧
       (full s k = false → (∀ i, i < 4 → slot t k i = ws.getD i 0) ∧ full t k = true ∧ t.err.logs = s.err.logs) ∧
       (full s k = true → (log s k).length < 64 → log t k = log s k ++ [ws] ∧ ∀ i, i < 4 → slot t k i = slot s k i) ∧
       (full s k = true → 64 ≤ (log s k).length → t.err.logs = s.err.logs ∧
         t.get F.ERR_LOG_OVF_CNT.CNT k = (s.get F.ERR_LOG_OVF_CNT.CNT k + 1) % 2 ^ 48)) ∧
     Does (.slotFullClear v) s (fun t => (∀ k, k < 3 → full t k = (full s k && !bitAt v.toNat k)) ∧ full t 3 = full s 3 ∧
       (∀ k i, k < 3 → i < 4 → slot t k i = if bitAt v.toNat k then 0 else slot s k i) ∧
       (∀ i, i < 4 → slot t 3 i = slot s 3 i) ∧ t.err = { s.err with arrived := t.err.arrived }) ∧
     Does (.errLogPop v) s (fun t => (∀ k, k < 4 → log t k = if bitAt v.toNat k then (log s k).tail else log s k) ∧
       t.regs = s.regs ∧ t = { s with err := { s.err with logs := t.err.logs, arrived := t.err.arrived } }) ∧
     (bitAt v.toNat 63 = true → subsys = 0 ∨ 14 < subsys ∨ errClass s (fld v 40 8) (fld v 0 16) = none →
       Does (.errInject v) s fun t => t.isSet F.ERR_INJECT.GO 0 = false ∧ Only s t [(.ERR_INJECT, 0)]) ∧
     (∀ k, bitAt v.toNat 63 = true → 0 < subsys → subsys ≤ 14 → k < 3 →
       errClass s (fld v 40 8) (fld v 0 16) = some (k + 1) → full s k = false → Does (.errInject v) s fun t => classes t k ∧
         full t k = true ∧ fld (slot t k 0) 62 1 = 1 ∧ fld (slot t k 0) 48 4 = subsys ∧ fld (slot t k 0) 40 8 = fld v 40 8 ∧
         slot t k 1 = s.reg .ERR_INJECT_INFO 0 ∧ t.hbm = s.hbm) ∧
     (∀ n rest, s.err.arrived = n :: rest → n.1 < 3 → (∃ x ∈ s.takeable n.1, recordName n.1 x.2.2 = n) →
       ∃ k log' r, s.pickRecord = some (k, log', r) ∧ recordName k r = n) ∧
     (∀ k log' r, s.free = true → s.firmwareRuns = true → s.pickRecord = some (k, log', r) → Does .errEventPost s fun t =>
       (log' = false → full t k = false ∧ t.err.logs = s.err.logs) ∧ (log' = true → log t k = (log s k).tail ∧ t.regs = s.regs) ∧
       (s.negotiated 5 = true → bitAt s.ctl.errEvents 6 = true →
         (Tbl.at [] t.ctl.crossing 14).length = (Tbl.at [] s.ctl.crossing 14).length + 1) ∧
       (s.negotiated 5 = false ∨ bitAt s.ctl.errEvents 6 = false → t.ctl = s.ctl)) ∧
     (s.free = true → s.firmwareRuns = false ∨ s.pickRecord = none → Does .errEventPost s fun t => t = s)) ∧
  (∀ (s : State) (sub code inst h a : Nat) (info v : Word) (kind : AccessKind) (p : Priv), s.live = true → s.free = true →
     let classes (t : State) (k : Nat) := t.get F.ERR_CLASS_CNT.CNT k = (s.get F.ERR_CLASS_CNT.CNT k + 1) % 2 ^ 48
     let line := info.toNat / 64
     let lineAt := line * 64 - hbmBase
     let hit (array : Nat) := 0 < sub ∧ sub ≤ 14 ∧ inst / 4096 % 16 = array
     let n := s.get F.ERR_TRACE_COUNT.CNT 0
     let rd := s.get F.ERR_TRACE_RD_ADDR.ADDR 0
     (sub = 0 ∨ 14 < sub → Does (.errorDetection sub code inst info) s fun t => t = s) ∧
     (∀ k, 0 < sub → sub ≤ 14 → 3 < code → errClass s code inst = some (k + 1) → Does (.errorDetection sub code inst info) s
       fun t => classes t k ∧ t.work = s.work ∧ t.pea = s.pea ∧ t.mix = s.mix ∧
         (code ≠ 0x11 → code ≠ 0x14 → t.hbm = s.hbm) ∧
         (code = 0x10 → t.get F.HBM_PC_CE_CNT.CNT (inst % 64) = (s.get F.HBM_PC_CE_CNT.CNT (inst % 64) + 1) % 2 ^ 48) ∧
         (code = 0x11 → t.hbm.mem = s.hbm.mem ∧ (inst ∈ s.enabledPcs → info.toNat < pcBytes →
           Tbl.at 0 t.hbm.ue (s.ofLocal inst info.toNat / 32) = 2 ∧
           t.get F.HBM_PC_UE_CNT.CNT inst = (s.get F.HBM_PC_UE_CNT.CNT inst + 1) % 2 ^ 48)) ∧
         (code = 0x14 → line ∉ t.ctl.poisoned ∧ Tbl.find t.hbm.l2 line = none ∧
           (∀ i, i < lineAt ∨ lineAt + 64 ≤ i → Tbl.at 0 t.hbm.mem i = Tbl.at 0 s.hbm.mem i) ∧
           (Tbl.find s.hbm.l2 line = none → t.hbm.mem = s.hbm.mem) ∧
           ∀ bs, Tbl.find s.hbm.l2 line = some bs → bs.length = 64 → Tbl.getList 0 t.hbm.mem lineAt 64 = bs)) ∧
     (0 < sub → sub ≤ 14 → (code = 0x02 ∧ inst / 4096 % 16 = 5) ∨ (code = 0x03 ∧ sub = 6) →
       Does (.errorDetection sub code inst info) s fun t => ∃ side, side < 2 ∧ t.work = (s.flagSide side).work ∧
         (s.isSet F.WD_LOCK_STATUS.A_OFF 0 = true → side = 1 ∧ classes t 3) ∧
         (s.isSet F.WD_LOCK_STATUS.A_OFF 0 = false → s.isSet F.WD_LOCK_STATUS.B_OFF 0 = true → side = 0 ∧ classes t 3) ∧
         (s.isSet F.WD_LOCK_STATUS.A_OFF 0 = false → s.isSet F.WD_LOCK_STATUS.B_OFF 0 = false → classes t 0)) ∧
     (hit 6 → Does (.errorDetection sub 1 inst info) s fun t => classes t 0 ∧ t.pea = s.pea ∧
       t.get F.PEA_CORE_ECC_CNT.CNT (inst % 512) = (s.get F.PEA_CORE_ECC_CNT.CNT (inst % 512) + 1) % 2 ^ 48) ∧
     (hit 7 → Does (.errorDetection sub 2 inst info) s fun t => classes t 2 ∧ info.toNat % 2 ^ 20 ∈ t.mix.bad) ∧
     (hit 8 → Does (.errorDetection sub 2 inst info) s fun t => classes t 2 ∧ t.isSet F.MIX_ENG_CTL.EN (inst % 8) = false) ∧
     (hit 11 → Does (.errorDetection sub 2 inst info) s fun t => classes t 1 ∧ info.toNat / 64 ∈ t.ctl.poisoned) ∧
     (hit 13 → Does (.errorDetection sub 2 inst info) s fun t => classes t 2 ∧ t.akValid = false) ∧
     Does (.wedged h kind a) s (fun t => classes t 2 ∧ Tbl.at 0 t.hart.cause h = faultCause kind ∧
       Tbl.at 0 t.hart.mtval h = wd a) ∧
     (∀ reference, Does (.clockLoss reference) s fun t => classes t 3 ∧ (reference = true → t.rst.refclk = false) ∧
       (bitAt (s.reg .ERR_STATUS 0).toNat 3 = true → t.rst.halted = true)) ∧
     Does (.errTraceWr3 p v) s (fun t => t.get F.ERR_TRACE_COUNT.CNT 0 = (n + 1) % 2 ^ 48 ∧
       Tbl.getList 0 t.err.trace (4 * (n % 32768)) 4 =
         [wd ((if p = .m then 1 else 2) * 2 ^ 48 + fld (s.reg .ERR_TRACE_WR 0) 32 16 * 2 ^ 32), wd s.mtime,
           s.reg .ERR_TRACE_WR 2, v] ∧
       (∀ i, i < 4 * (n % 32768) ∨ 4 * (n % 32768) + 4 ≤ i → Tbl.at 0 t.err.trace i = Tbl.at 0 s.err.trace i) ∧
       t.get F.ERR_TRACE_LOST_CNT.CNT 0 = (s.get F.ERR_TRACE_LOST_CNT.CNT 0 + b2n s.err.traceFull) % 2 ^ 48 ∧
       t.err.traceFull = (s.err.traceFull || decide (n % 32768 = 32767)) ∧
       KeepsBut s t [(.ERR_TRACE_WR, 3), (.ERR_TRACE_COUNT, 0), (.ERR_TRACE_LOST_CNT, 0)]) ∧
     Does (.errTraceRdData h) s (fun t => Tbl.at 0 t.hart.resp h = Tbl.at 0 s.err.trace rd ∧
       t.get F.ERR_TRACE_RD_ADDR.ADDR 0 = (rd + 1) % 2 ^ 17 ∧ KeepsBut s t [(.ERR_TRACE_RD_ADDR, 0)] ∧ t.err = s.err))

/-- Temperature (R469, R470, R491): a reading takes the hottest of the 24 sensors, lowers DUTY by one at THR_HI down to MIN_DUTY, raises
it by one at THR_LO up to 8 and else keeps it, adds the life step, and raises THERM_TRIP once on reaching TRIP. A write of
ERR_THERM_CFG out of order is refused with CFG_ERR and nothing else changed. -/
def Obligations.Temperature : Prop :=
  ∀ (s : State) (x : Int) (xs : List Int) (v : Word), s.live = true →
    let tj := xs.foldl max x
    let temp (f : RFld) := 16 * sext (s.get f 0) 8
    let d := s.get F.ERR_THERM_STATUS.DUTY 0
    let duty (t : State) := t.get F.ERR_THERM_STATUS.DUTY 0
    let least := s.get F.ERR_THERM_CFG.MIN_DUTY 0
    let hot := temp F.ERR_THERM_CFG.THR_HI ≤ tj
    let cool := tj ≤ temp F.ERR_THERM_CFG.THR_LO
    let byte (lo : Nat) := sext (fld v lo 8) 8
    let sane := byte 8 < byte 16 ∧ byte 16 ≤ byte 24 ∧ byte 24 ≤ 115 ∧ 1 ≤ fld v 0 4 ∧ fld v 0 4 ≤ 8
    (xs.length = 23 → -32768 ≤ tj → tj ≤ 32767 → Does (.thermalReading (x :: xs)) s fun t =>
      sext (t.get F.ERR_THERM_STATUS.TJ 0) 16 = tj ∧ (∀ y ∈ x :: xs, y ≤ tj) ∧ tj ∈ x :: xs ∧
      (hot → duty t = if least < d then d - 1 else d) ∧ (¬hot → cool → duty t = if d < 8 then d + 1 else d) ∧
      (¬hot → ¬cool → duty t = d) ∧ t.isSet F.ERR_THERM_STATUS.THROTTLING 0 = decide (duty t < 8) ∧
      t.get F.ERR_LIFE_ACC.ACC 0 = (s.get F.ERR_LIFE_ACC.ACC 0 + lifeStep tj) % 2 ^ 64 ∧
      t.get F.ERR_THERM_CNT.CNT 0 = (s.get F.ERR_THERM_CNT.CNT 0 + b2n (decide (d < 8))) % 2 ^ 48 ∧
      t.get F.ERR_CLASS_CNT.CNT 3 = (s.get F.ERR_CLASS_CNT.CNT 3 +
        b2n (decide (temp F.ERR_THERM_CFG.TRIP ≤ tj) && !s.err.tripped)) % 2 ^ 48) ∧
    (sane → Does (.errThermCfgWrite v) s fun t => t.get F.ERR_THERM_CFG.TRIP 0 = fld v 24 8 ∧
      t.get F.ERR_THERM_CFG.THR_HI 0 = fld v 16 8 ∧ t.get F.ERR_THERM_CFG.THR_LO 0 = fld v 8 8 ∧
      t.get F.ERR_THERM_CFG.MIN_DUTY 0 = fld v 0 4 ∧ t.isSet F.ERR_THERM_CFG.CFG_ERR 0 = false) ∧
    (¬sane → Does (.errThermCfgWrite v) s fun t => t.isSet F.ERR_THERM_CFG.CFG_ERR 0 = true ∧
      (∀ f ∈ [F.ERR_THERM_CFG.TRIP, F.ERR_THERM_CFG.THR_HI, F.ERR_THERM_CFG.THR_LO, F.ERR_THERM_CFG.MIN_DUTY],
        t.get f 0 = s.get f 0) ∧ Only s t [(.ERR_THERM_CFG, 0)])
end

