-- ==== Sys2Proof/Laws/Tables.lean ====
section
/-! SUPPORT. Laws of sparse tables: what a read gives after a write, and that every operation keeps the canonical form. -/

namespace Sys2Proof.Machine

variable {α : Type}

theorem Tbl.find_insert_self (t : Tbl α) (q : Nat) (x : α) : Tbl.find (Tbl.insert t q x) q = some x := by
  induction t with
  | nil => simp [Tbl.insert, Tbl.find]
  | cons e t ih =>
    obtain ⟨k, v⟩ := e
    simp only [Tbl.insert]
    split
    · simp [Tbl.find]
    · split
      · simp [Tbl.find]
      · have : k ≠ q := by omega
        simp [Tbl.find, this, ih]

theorem Tbl.find_insert_ne (t : Tbl α) {p q : Nat} (x : α) (h : p ≠ q) :
    Tbl.find (Tbl.insert t q x) p = Tbl.find t p := by
  induction t with
  | nil => simp [Tbl.insert, Tbl.find, Ne.symm h]
  | cons e t ih =>
    obtain ⟨k, v⟩ := e
    simp only [Tbl.insert]
    split
    · simp [Tbl.find, Ne.symm h]
    · split
      · next h1 h2 => subst h2; simp [Tbl.find, Ne.symm h]
      · simp [Tbl.find, ih]

theorem Tbl.find_erase_self (t : Tbl α) (q : Nat) : Tbl.find (Tbl.erase t q) q = none := by
  induction t with
  | nil => simp [Tbl.erase, Tbl.find]
  | cons e t ih =>
    obtain ⟨k, v⟩ := e
    by_cases h : k = q
    · simp [Tbl.erase, h]; simpa [Tbl.erase] using ih
    · simp only [Tbl.erase, List.filter_cons, decide_not, ne_eq]
      simp [h, Tbl.find]; simpa [Tbl.erase] using ih

theorem Tbl.find_erase_ne (t : Tbl α) {p q : Nat} (h : p ≠ q) : Tbl.find (Tbl.erase t q) p = Tbl.find t p := by
  induction t with
  | nil => simp [Tbl.erase, Tbl.find]
  | cons e t ih =>
    obtain ⟨k, v⟩ := e
    have ih' : Tbl.find (List.filter (fun e => decide (e.1 ≠ q)) t) p = Tbl.find t p := ih
    by_cases hk : k = q
    · have : k ≠ p := by omega
      simp only [Tbl.erase, List.filter_cons, hk]
      simp [Tbl.find, ← hk, this]
      simpa [hk] using ih'
    · simp only [Tbl.erase, List.filter_cons]
      simp [hk, Tbl.find]
      simpa using by rw [show (List.filter (fun e => !decide (e.1 = q)) t) = List.filter (fun e => decide (e.1 ≠ q)) t from by simp, ih']

/-- A key that is found is listed. -/
theorem Tbl.mem_of_find {t : Tbl α} {q : Nat} {v : α} (h : Tbl.find t q = some v) : (q, v) ∈ t := by
  induction t with
  | nil => simp [Tbl.find] at h
  | cons e t ih =>
    obtain ⟨k, w⟩ := e
    simp only [Tbl.find] at h
    split at h
    · next hk => subst hk; cases h; simp
    · exact List.mem_cons_of_mem _ (ih h)

variable [DecidableEq α]

/-- A write is read back. -/
@[simp] theorem Tbl.at_put_self (d : α) (t : Tbl α) (q : Nat) (x : α) : Tbl.at d (Tbl.put d t q x) q = x := by
  by_cases h : x = d
  · simp [Tbl.at, Tbl.put, h, Tbl.find_erase_self]
  · simp [Tbl.at, Tbl.put, h, Tbl.find_insert_self]

/-- A write leaves every other key. -/
theorem Tbl.at_put_ne (d d' : α) (t : Tbl α) {p q : Nat} (x : α) (h : p ≠ q) :
    Tbl.at d' (Tbl.put d t q x) p = Tbl.at d' t p := by
  by_cases hx : x = d
  · simp [Tbl.at, Tbl.put, hx, Tbl.find_erase_ne _ h]
  · simp [Tbl.at, Tbl.put, hx, Tbl.find_insert_ne _ _ h]

/-- A read after a write, at any key. -/
theorem Tbl.at_put (d : α) (t : Tbl α) (p q : Nat) (x : α) :
    Tbl.at d (Tbl.put d t q x) p = if p = q then x else Tbl.at d t p := by
  split
  · next h => subst h; simp
  · next h => exact Tbl.at_put_ne d d t x h

/-- A key below a run of written keys, or past it, is left. -/
theorem Tbl.at_putList_out (d : α) (xs : List α) : ∀ (t : Tbl α) (q p : Nat), p < q ∨ q + xs.length ≤ p →
    Tbl.at d (Tbl.putList d t q xs) p = Tbl.at d t p := by
  induction xs with
  | nil => intros; rfl
  | cons x xs ih =>
    intro t q p h
    simp only [List.length_cons] at h
    simp only [Tbl.putList]
    rw [ih _ _ _ (by omega)]
    exact Tbl.at_put_ne d d t x (by omega)

/-- A run of written keys is read back. -/
theorem Tbl.at_putList_in (d : α) (xs : List α) : ∀ (t : Tbl α) (q i : Nat), i < xs.length →
    Tbl.at d (Tbl.putList d t q xs) (q + i) = xs.getD i d := by
  induction xs with
  | nil => intro _ _ _ h; simp at h
  | cons x xs ih =>
    intro t q i h
    simp only [Tbl.putList]
    cases i with
    | zero => rw [Tbl.at_putList_out d xs _ _ _ (by omega)]; simp
    | succ i =>
      have := ih (Tbl.put d t q x) (q + 1) i (by simpa using h)
      rw [show q + (i + 1) = q + 1 + i by omega, this]
      simp

/-- A run of written keys is read back as a list. -/
theorem Tbl.getList_putList (d : α) (t : Tbl α) (q : Nat) (xs : List α) :
    Tbl.getList d (Tbl.putList d t q xs) q xs.length = xs := by
  apply List.ext_getElem
  · simp [Tbl.getList]
  · intro i h1 h2
    have h : i < xs.length := by simpa [Tbl.getList] using h1
    simp [Tbl.getList, Tbl.at_putList_in d xs t q i h, List.getD, h]

/-- A read of keys that a write did not reach. -/
theorem Tbl.getList_putList_out (d : α) (t : Tbl α) (q p n : Nat) (xs : List α)
    (h : p + n ≤ q ∨ q + xs.length ≤ p) : Tbl.getList d (Tbl.putList d t q xs) p n = Tbl.getList d t p n := by
  apply List.map_congr_left
  intro i hi
  have := List.mem_range.1 hi
  exact Tbl.at_putList_out d xs t q _ (by omega)

omit [DecidableEq α] in
theorem Tbl.risesFrom_weaken {b b' : Nat} (t : Tbl α) (h : Tbl.risesFrom b t = true) (hb : b' ≤ b) :
    Tbl.risesFrom b' t = true := by
  cases t with
  | nil => rfl
  | cons e t =>
    obtain ⟨k, v⟩ := e
    simp only [Tbl.risesFrom, Bool.and_eq_true, decide_eq_true_eq] at h ⊢
    exact ⟨by omega, h.2⟩

omit [DecidableEq α] in
theorem Tbl.rises_erase (t : Tbl α) (q : Nat) : ∀ b, Tbl.risesFrom b t = true →
    Tbl.risesFrom b (Tbl.erase t q) = true := by
  induction t with
  | nil => intros; rfl
  | cons e t ih =>
    obtain ⟨k, v⟩ := e
    intro b h
    simp only [Tbl.risesFrom, Bool.and_eq_true, decide_eq_true_eq] at h
    have ih' := ih (k + 1) h.2
    simp only [Tbl.erase, List.filter_cons] at ih' ⊢
    split
    · simp only [Tbl.risesFrom, Bool.and_eq_true, decide_eq_true_eq]
      exact ⟨h.1, ih'⟩
    · exact Tbl.risesFrom_weaken _ ih' (by omega)

omit [DecidableEq α] in
theorem Tbl.rises_insert (t : Tbl α) (q : Nat) (x : α) : ∀ b, b ≤ q → Tbl.risesFrom b t = true →
    Tbl.risesFrom b (Tbl.insert t q x) = true := by
  induction t with
  | nil => intro b hb _; simp [Tbl.insert, Tbl.risesFrom, hb]
  | cons e t ih =>
    obtain ⟨k, v⟩ := e
    intro b hb h
    simp only [Tbl.risesFrom, Bool.and_eq_true, decide_eq_true_eq] at h
    simp only [Tbl.insert]
    split
    · simp only [Tbl.risesFrom, Bool.and_eq_true, decide_eq_true_eq]
      exact ⟨hb, by omega, h.2⟩
    · split
      · next h2 => subst h2; simp only [Tbl.risesFrom, Bool.and_eq_true, decide_eq_true_eq]; exact h
      · simp only [Tbl.risesFrom, Bool.and_eq_true, decide_eq_true_eq]
        exact ⟨h.1, ih (k + 1) (by omega) h.2⟩

omit [DecidableEq α] in
theorem Tbl.mem_insert (t : Tbl α) (q : Nat) (x : α) (e : Nat × α) (h : e ∈ Tbl.insert t q x) :
    e = (q, x) ∨ e ∈ t := by
  induction t with
  | nil => simpa [Tbl.insert] using h
  | cons f t ih =>
    obtain ⟨k, v⟩ := f
    simp only [Tbl.insert] at h
    split at h
    · simpa using h
    · split at h
      · rcases List.mem_cons.1 h with h | h
        · exact .inl h
        · exact .inr (List.mem_cons_of_mem _ h)
      · rcases List.mem_cons.1 h with h | h
        · exact .inr (h ▸ List.mem_cons_self)
        · rcases ih h with h | h
          · exact .inl h
          · exact .inr (List.mem_cons_of_mem _ h)

/-- The empty table has the canonical form. -/
@[simp] theorem Tbl.wf_nil (d : α) : Tbl.wf d ([] : Tbl α) = true := rfl

/-- A write keeps the canonical form. -/
theorem Tbl.wf_put (d : α) (t : Tbl α) (q : Nat) (x : α) (h : Tbl.wf d t = true) :
    Tbl.wf d (Tbl.put d t q x) = true := by
  simp only [Tbl.wf, Bool.and_eq_true, List.all_eq_true, decide_eq_true_eq] at h ⊢
  by_cases hx : x = d
  · simp only [Tbl.put, hx, if_true]
    exact ⟨Tbl.rises_erase t q 0 h.1, fun e he => h.2 e (List.mem_filter.1 he).1⟩
  · simp only [Tbl.put, hx, if_false]
    refine ⟨Tbl.rises_insert t q x 0 (by omega) h.1, fun e he => ?_⟩
    rcases Tbl.mem_insert t q x e he with rfl | he
    · exact hx
    · exact h.2 e he

/-- A run of writes keeps the canonical form. -/
theorem Tbl.wf_putList (d : α) (xs : List α) : ∀ (t : Tbl α) (q : Nat), Tbl.wf d t = true →
    Tbl.wf d (Tbl.putList d t q xs) = true := by
  induction xs with
  | nil => intro t q h; exact h
  | cons x xs ih => intro t q h; exact ih _ _ (Tbl.wf_put d t q x h)

end Sys2Proof.Machine
end

