-- ==== Sys2Proof/Laws/Fields.lean ====
section
/-! SUPPORT. Laws of bit fields and of the register table: a field written is read back, and every other field and
register stays. -/

namespace Sys2Proof.Machine

theorem bitsOf_lt (n lo len : Nat) : bitsOf n lo len < 2 ^ len := Nat.mod_lt _ (Nat.two_pow_pos _)

theorem testBit_bitsOf (n lo len i : Nat) : (bitsOf n lo len).testBit i = (decide (i < len) && n.testBit (lo + i)) := by
  simp [bitsOf, Nat.testBit_mod_two_pow, Nat.testBit_shiftRight]

theorem setBits_eq_or (n lo len v : Nat) :
    setBits n lo len v = (n >>> (lo + len)) <<< (lo + len) ||| ((v % 2 ^ len) <<< lo ||| n % 2 ^ lo) := by
  have h1 : n % 2 ^ lo + (v % 2 ^ len) <<< lo = (v % 2 ^ len) <<< lo ||| n % 2 ^ lo := by
    rw [Nat.add_comm, Nat.shiftLeft_add_eq_or_of_lt (Nat.mod_lt _ (Nat.two_pow_pos _))]
  have hlt : (v % 2 ^ len) <<< lo ||| n % 2 ^ lo < 2 ^ (lo + len) := by
    apply Nat.or_lt_two_pow
    · rw [Nat.shiftLeft_eq, Nat.pow_add, Nat.mul_comm]
      exact Nat.mul_lt_mul_of_pos_left (Nat.mod_lt _ (Nat.two_pow_pos _)) (Nat.two_pow_pos _)
    · exact Nat.lt_of_lt_of_le (Nat.mod_lt _ (Nat.two_pow_pos _)) (Nat.pow_le_pow_right (by omega) (by omega))
  rw [setBits, h1, Nat.add_comm, Nat.shiftLeft_add_eq_or_of_lt hlt]

theorem testBit_setBits (n lo len v i : Nat) : (setBits n lo len v).testBit i =
    if i < lo then n.testBit i else if i < lo + len then v.testBit (i - lo) else n.testBit i := by
  rw [setBits_eq_or]
  simp only [Nat.testBit_or, Nat.testBit_shiftLeft, Nat.testBit_shiftRight, Nat.testBit_mod_two_pow]
  by_cases h1 : i < lo
  · simp [h1, show ¬ (lo + len ≤ i) by omega, show ¬ (lo ≤ i) by omega]
  · by_cases h2 : i < lo + len
    · simp [h1, h2, show ¬ (lo + len ≤ i) by omega, show lo ≤ i by omega, show i - lo < len by omega]
    · simp [h1, h2, show ¬ (i - lo < len) by omega, show lo + len ≤ i by omega, show lo + len + (i - (lo + len)) = i by omega]

theorem bitsOf_setBits_self (n lo len v : Nat) : bitsOf (setBits n lo len v) lo len = v % 2 ^ len := by
  apply Nat.eq_of_testBit_eq
  intro i
  rw [testBit_bitsOf, testBit_setBits, Nat.testBit_mod_two_pow]
  by_cases h : i < len
  · simp [h, show ¬ (lo + i < lo) by omega]
  · simp [h]

theorem bitsOf_setBits_ne (n lo len v lo' len' : Nat) (h : lo' + len' ≤ lo ∨ lo + len ≤ lo') :
    bitsOf (setBits n lo len v) lo' len' = bitsOf n lo' len' := by
  apply Nat.eq_of_testBit_eq
  intro i
  rw [testBit_bitsOf, testBit_bitsOf, testBit_setBits]
  by_cases hi : i < len'
  · rcases h with h | h
    · simp [show lo' + i < lo by omega]
    · simp [hi, show ¬ (lo' + i < lo) by omega, show ¬ (lo' + i < lo + len) by omega]
  · simp [hi]

theorem setBits_lt (n lo len v : Nat) (hn : n < 2 ^ 64) (h : lo + len ≤ 64) : setBits n lo len v < 2 ^ 64 := by
  apply Nat.lt_pow_two_of_testBit
  intro i hi
  rw [testBit_setBits]
  simp [show ¬ (i < lo) by omega, show ¬ (i < lo + len) by omega,
    Nat.testBit_lt_two_pow (Nat.lt_of_lt_of_le hn (Nat.pow_le_pow_right (by omega) hi))]

theorem setFld_toNat (w : Word) (lo len v : Nat) (h : lo + len ≤ 64) :
    (setFld w lo len v).toNat = setBits w.toNat lo len v := by
  rw [setFld, BitVec.toNat_ofNat, Nat.mod_eq_of_lt (setBits_lt _ _ _ _ w.isLt h)]

/-- A field written is read back. -/
theorem fld_setFld_self (w : Word) (lo len v : Nat) (h : lo + len ≤ 64) : fld (setFld w lo len v) lo len = v % 2 ^ len := by
  rw [fld, setFld_toNat _ _ _ _ h, bitsOf_setBits_self]

/-- A field written leaves the fields beside it. -/
theorem fld_setFld_ne (w : Word) (lo len v lo' len' : Nat) (h : lo + len ≤ 64)
    (hd : lo' + len' ≤ lo ∨ lo + len ≤ lo') : fld (setFld w lo len v) lo' len' = fld w lo' len' := by
  rw [fld, setFld_toNat _ _ _ _ h, bitsOf_setBits_ne _ _ _ _ _ _ hd, fld]

/-! ## The register table -/

theorem Reg.ctorIdx_lt (r : Reg) : r.ctorIdx < 512 := by cases r <;> decide

theorem Reg.ctorIdx_inj {r r' : Reg} (h : r.ctorIdx = r'.ctorIdx) : r = r' := by
  rw [← Reg.ofNat_ctorIdx r, ← Reg.ofNat_ctorIdx r', h]

/-- Every register instance has a key of its own. -/
theorem Reg.key_inj {r r' : Reg} {i i' : Nat} (h : r.key i = r'.key i') : r = r' ∧ i = i' := by
  have h1 := r.ctorIdx_lt
  have h2 := r'.ctorIdx_lt
  simp only [Reg.key] at h
  exact ⟨Reg.ctorIdx_inj (by omega), by omega⟩

@[simp] theorem State.reg_setReg_self (s : State) (r : Reg) (i : Nat) (w : Word) : (s.setReg r i w).reg r i = w := by
  simp [State.reg, State.setReg]

theorem State.reg_setReg_ne (s : State) {r r' : Reg} {i i' : Nat} (w : Word) (h : ¬ (r' = r ∧ i' = i)) :
    (s.setReg r i w).reg r' i' = s.reg r' i' := by
  simp only [State.reg, State.setReg]
  exact Tbl.at_put_ne _ _ _ _ fun he => h (Reg.key_inj he)

/-- A register after a register is written. -/
theorem State.reg_setReg (s : State) (r r' : Reg) (i i' : Nat) (w : Word) :
    (s.setReg r i w).reg r' i' = if r' = r ∧ i' = i then w else s.reg r' i' := by
  split
  · next h => obtain ⟨rfl, rfl⟩ := h; simp
  · next h => exact State.reg_setReg_ne s w h

/-- A register after a field is written. -/
theorem State.reg_put (s : State) (f : RFld) (i v : Nat) (r' : Reg) (i' : Nat) : (s.put f i v).reg r' i' =
    if r' = f.reg ∧ i' = i then setFld (s.reg f.reg i) f.lo f.len v else s.reg r' i' := State.reg_setReg ..

theorem State.get_setReg (s : State) (f : RFld) (r : Reg) (i j : Nat) (w : Word) :
    (s.setReg r i w).get f j = if f.reg = r ∧ j = i then fld w f.lo f.len else s.get f j := by
  rw [State.get, State.reg_setReg]; split <;> rfl

/-- A field written is read back. -/
theorem State.get_put_self (s : State) (f : RFld) (i v : Nat) (h : f.lo + f.len ≤ 64) :
    (s.put f i v).get f i = v % 2 ^ f.len := by
  simp [State.get, State.put, fld_setFld_self _ _ _ _ h]

/-- A field of another register, of another instance, or beside the field written, stays. -/
theorem State.get_put_ne (s : State) (f g : RFld) (i j v : Nat) (h : f.lo + f.len ≤ 64)
    (hd : ¬ (g.reg = f.reg ∧ j = i) ∨ g.lo + g.len ≤ f.lo ∨ f.lo + f.len ≤ g.lo) : (s.put f i v).get g j = s.get g j := by
  rw [State.put, State.get_setReg]
  split
  · next he =>
    obtain ⟨h1, rfl⟩ := he
    rcases hd with hd | hd
    · exact absurd ⟨h1, rfl⟩ hd
    · rw [fld_setFld_ne _ _ _ _ _ _ h hd, State.get, h1]
  · rfl

end Sys2Proof.Machine
end

