-- ==== Sys2Proof/Laws/State.lean ====
section
/-! SUPPORT. One law per field per update of State: what the shared updates leave. -/

namespace Sys2Proof.Machine

variable (s : State)

@[simp] theorem State.clock_setReg (r : Reg) (i : Nat) (w : Word) : (s.setReg r i w).clock = s.clock := rfl
@[simp] theorem State.freeCtr_setReg (r : Reg) (i : Nat) (w : Word) : (s.setReg r i w).freeCtr = s.freeCtr := rfl
@[simp] theorem State.rst_setReg (r : Reg) (i : Nat) (w : Word) : (s.setReg r i w).rst = s.rst := rfl
@[simp] theorem State.hart_setReg (r : Reg) (i : Nat) (w : Word) : (s.setReg r i w).hart = s.hart := rfl
@[simp] theorem State.ctl_setReg (r : Reg) (i : Nat) (w : Word) : (s.setReg r i w).ctl = s.ctl := rfl
@[simp] theorem State.err_setReg (r : Reg) (i : Nat) (w : Word) : (s.setReg r i w).err = s.err := rfl
@[simp] theorem State.tim_setReg (r : Reg) (i : Nat) (w : Word) : (s.setReg r i w).tim = s.tim := rfl
@[simp] theorem State.hbm_setReg (r : Reg) (i : Nat) (w : Word) : (s.setReg r i w).hbm = s.hbm := rfl
@[simp] theorem State.iom_setReg (r : Reg) (i : Nat) (w : Word) : (s.setReg r i w).iom = s.iom := rfl
@[simp] theorem State.sec_setReg (r : Reg) (i : Nat) (w : Word) : (s.setReg r i w).sec = s.sec := rfl
@[simp] theorem State.srt_setReg (r : Reg) (i : Nat) (w : Word) : (s.setReg r i w).srt = s.srt := rfl
@[simp] theorem State.ing_setReg (r : Reg) (i : Nat) (w : Word) : (s.setReg r i w).ing = s.ing := rfl
@[simp] theorem State.fwd_setReg (r : Reg) (i : Nat) (w : Word) : (s.setReg r i w).fwd = s.fwd := rfl
@[simp] theorem State.tm_setReg (r : Reg) (i : Nat) (w : Word) : (s.setReg r i w).tm = s.tm := rfl
@[simp] theorem State.work_setReg (r : Reg) (i : Nat) (w : Word) : (s.setReg r i w).work = s.work := rfl
@[simp] theorem State.pea_setReg (r : Reg) (i : Nat) (w : Word) : (s.setReg r i w).pea = s.pea := rfl
@[simp] theorem State.mix_setReg (r : Reg) (i : Nat) (w : Word) : (s.setReg r i w).mix = s.mix := rfl
@[simp] theorem State.vid_setReg (r : Reg) (i : Nat) (w : Word) : (s.setReg r i w).vid = s.vid := rfl
@[simp] theorem State.pending_setReg (r : Reg) (i : Nat) (w : Word) : (s.setReg r i w).pending = s.pending := rfl
@[simp] theorem State.live_setReg (r : Reg) (i : Nat) (w : Word) : (s.setReg r i w).live = s.live := rfl

@[simp] theorem State.clock_put (f : RFld) (i v : Nat) : (s.put f i v).clock = s.clock := rfl
@[simp] theorem State.freeCtr_put (f : RFld) (i v : Nat) : (s.put f i v).freeCtr = s.freeCtr := rfl
@[simp] theorem State.rst_put (f : RFld) (i v : Nat) : (s.put f i v).rst = s.rst := rfl
@[simp] theorem State.hart_put (f : RFld) (i v : Nat) : (s.put f i v).hart = s.hart := rfl
@[simp] theorem State.ctl_put (f : RFld) (i v : Nat) : (s.put f i v).ctl = s.ctl := rfl
@[simp] theorem State.err_put (f : RFld) (i v : Nat) : (s.put f i v).err = s.err := rfl
@[simp] theorem State.tim_put (f : RFld) (i v : Nat) : (s.put f i v).tim = s.tim := rfl
@[simp] theorem State.hbm_put (f : RFld) (i v : Nat) : (s.put f i v).hbm = s.hbm := rfl
@[simp] theorem State.iom_put (f : RFld) (i v : Nat) : (s.put f i v).iom = s.iom := rfl
@[simp] theorem State.sec_put (f : RFld) (i v : Nat) : (s.put f i v).sec = s.sec := rfl
@[simp] theorem State.srt_put (f : RFld) (i v : Nat) : (s.put f i v).srt = s.srt := rfl
@[simp] theorem State.ing_put (f : RFld) (i v : Nat) : (s.put f i v).ing = s.ing := rfl
@[simp] theorem State.fwd_put (f : RFld) (i v : Nat) : (s.put f i v).fwd = s.fwd := rfl
@[simp] theorem State.tm_put (f : RFld) (i v : Nat) : (s.put f i v).tm = s.tm := rfl
@[simp] theorem State.work_put (f : RFld) (i v : Nat) : (s.put f i v).work = s.work := rfl
@[simp] theorem State.pea_put (f : RFld) (i v : Nat) : (s.put f i v).pea = s.pea := rfl
@[simp] theorem State.mix_put (f : RFld) (i v : Nat) : (s.put f i v).mix = s.mix := rfl
@[simp] theorem State.vid_put (f : RFld) (i v : Nat) : (s.put f i v).vid = s.vid := rfl
@[simp] theorem State.pending_put (f : RFld) (i v : Nat) : (s.put f i v).pending = s.pending := rfl
@[simp] theorem State.live_put (f : RFld) (i v : Nat) : (s.put f i v).live = s.live := rfl

@[simp] theorem State.clock_flag (f : RFld) (i : Nat) (b : Bool) : (s.flag f i b).clock = s.clock := rfl
@[simp] theorem State.freeCtr_flag (f : RFld) (i : Nat) (b : Bool) : (s.flag f i b).freeCtr = s.freeCtr := rfl
@[simp] theorem State.rst_flag (f : RFld) (i : Nat) (b : Bool) : (s.flag f i b).rst = s.rst := rfl
@[simp] theorem State.hart_flag (f : RFld) (i : Nat) (b : Bool) : (s.flag f i b).hart = s.hart := rfl
@[simp] theorem State.ctl_flag (f : RFld) (i : Nat) (b : Bool) : (s.flag f i b).ctl = s.ctl := rfl
@[simp] theorem State.err_flag (f : RFld) (i : Nat) (b : Bool) : (s.flag f i b).err = s.err := rfl
@[simp] theorem State.tim_flag (f : RFld) (i : Nat) (b : Bool) : (s.flag f i b).tim = s.tim := rfl
@[simp] theorem State.hbm_flag (f : RFld) (i : Nat) (b : Bool) : (s.flag f i b).hbm = s.hbm := rfl
@[simp] theorem State.iom_flag (f : RFld) (i : Nat) (b : Bool) : (s.flag f i b).iom = s.iom := rfl
@[simp] theorem State.sec_flag (f : RFld) (i : Nat) (b : Bool) : (s.flag f i b).sec = s.sec := rfl
@[simp] theorem State.srt_flag (f : RFld) (i : Nat) (b : Bool) : (s.flag f i b).srt = s.srt := rfl
@[simp] theorem State.ing_flag (f : RFld) (i : Nat) (b : Bool) : (s.flag f i b).ing = s.ing := rfl
@[simp] theorem State.fwd_flag (f : RFld) (i : Nat) (b : Bool) : (s.flag f i b).fwd = s.fwd := rfl
@[simp] theorem State.tm_flag (f : RFld) (i : Nat) (b : Bool) : (s.flag f i b).tm = s.tm := rfl
@[simp] theorem State.work_flag (f : RFld) (i : Nat) (b : Bool) : (s.flag f i b).work = s.work := rfl
@[simp] theorem State.pea_flag (f : RFld) (i : Nat) (b : Bool) : (s.flag f i b).pea = s.pea := rfl
@[simp] theorem State.mix_flag (f : RFld) (i : Nat) (b : Bool) : (s.flag f i b).mix = s.mix := rfl
@[simp] theorem State.vid_flag (f : RFld) (i : Nat) (b : Bool) : (s.flag f i b).vid = s.vid := rfl
@[simp] theorem State.pending_flag (f : RFld) (i : Nat) (b : Bool) : (s.flag f i b).pending = s.pending := rfl
@[simp] theorem State.live_flag (f : RFld) (i : Nat) (b : Bool) : (s.flag f i b).live = s.live := rfl

@[simp] theorem State.clock_add (f : RFld) (i n : Nat) : (s.add f i n).clock = s.clock := rfl
@[simp] theorem State.freeCtr_add (f : RFld) (i n : Nat) : (s.add f i n).freeCtr = s.freeCtr := rfl
@[simp] theorem State.rst_add (f : RFld) (i n : Nat) : (s.add f i n).rst = s.rst := rfl
@[simp] theorem State.hart_add (f : RFld) (i n : Nat) : (s.add f i n).hart = s.hart := rfl
@[simp] theorem State.ctl_add (f : RFld) (i n : Nat) : (s.add f i n).ctl = s.ctl := rfl
@[simp] theorem State.err_add (f : RFld) (i n : Nat) : (s.add f i n).err = s.err := rfl
@[simp] theorem State.tim_add (f : RFld) (i n : Nat) : (s.add f i n).tim = s.tim := rfl
@[simp] theorem State.hbm_add (f : RFld) (i n : Nat) : (s.add f i n).hbm = s.hbm := rfl
@[simp] theorem State.iom_add (f : RFld) (i n : Nat) : (s.add f i n).iom = s.iom := rfl
@[simp] theorem State.sec_add (f : RFld) (i n : Nat) : (s.add f i n).sec = s.sec := rfl
@[simp] theorem State.srt_add (f : RFld) (i n : Nat) : (s.add f i n).srt = s.srt := rfl
@[simp] theorem State.ing_add (f : RFld) (i n : Nat) : (s.add f i n).ing = s.ing := rfl
@[simp] theorem State.fwd_add (f : RFld) (i n : Nat) : (s.add f i n).fwd = s.fwd := rfl
@[simp] theorem State.tm_add (f : RFld) (i n : Nat) : (s.add f i n).tm = s.tm := rfl
@[simp] theorem State.work_add (f : RFld) (i n : Nat) : (s.add f i n).work = s.work := rfl
@[simp] theorem State.pea_add (f : RFld) (i n : Nat) : (s.add f i n).pea = s.pea := rfl
@[simp] theorem State.mix_add (f : RFld) (i n : Nat) : (s.add f i n).mix = s.mix := rfl
@[simp] theorem State.vid_add (f : RFld) (i n : Nat) : (s.add f i n).vid = s.vid := rfl
@[simp] theorem State.pending_add (f : RFld) (i n : Nat) : (s.add f i n).pending = s.pending := rfl
@[simp] theorem State.live_add (f : RFld) (i n : Nat) : (s.add f i n).live = s.live := rfl

@[simp] theorem State.clock_inc (f : RFld) (i : Nat) : (s.inc f i).clock = s.clock := rfl
@[simp] theorem State.freeCtr_inc (f : RFld) (i : Nat) : (s.inc f i).freeCtr = s.freeCtr := rfl
@[simp] theorem State.rst_inc (f : RFld) (i : Nat) : (s.inc f i).rst = s.rst := rfl
@[simp] theorem State.hart_inc (f : RFld) (i : Nat) : (s.inc f i).hart = s.hart := rfl
@[simp] theorem State.ctl_inc (f : RFld) (i : Nat) : (s.inc f i).ctl = s.ctl := rfl
@[simp] theorem State.err_inc (f : RFld) (i : Nat) : (s.inc f i).err = s.err := rfl
@[simp] theorem State.tim_inc (f : RFld) (i : Nat) : (s.inc f i).tim = s.tim := rfl
@[simp] theorem State.hbm_inc (f : RFld) (i : Nat) : (s.inc f i).hbm = s.hbm := rfl
@[simp] theorem State.iom_inc (f : RFld) (i : Nat) : (s.inc f i).iom = s.iom := rfl
@[simp] theorem State.sec_inc (f : RFld) (i : Nat) : (s.inc f i).sec = s.sec := rfl
@[simp] theorem State.srt_inc (f : RFld) (i : Nat) : (s.inc f i).srt = s.srt := rfl
@[simp] theorem State.ing_inc (f : RFld) (i : Nat) : (s.inc f i).ing = s.ing := rfl
@[simp] theorem State.fwd_inc (f : RFld) (i : Nat) : (s.inc f i).fwd = s.fwd := rfl
@[simp] theorem State.tm_inc (f : RFld) (i : Nat) : (s.inc f i).tm = s.tm := rfl
@[simp] theorem State.work_inc (f : RFld) (i : Nat) : (s.inc f i).work = s.work := rfl
@[simp] theorem State.pea_inc (f : RFld) (i : Nat) : (s.inc f i).pea = s.pea := rfl
@[simp] theorem State.mix_inc (f : RFld) (i : Nat) : (s.inc f i).mix = s.mix := rfl
@[simp] theorem State.vid_inc (f : RFld) (i : Nat) : (s.inc f i).vid = s.vid := rfl
@[simp] theorem State.pending_inc (f : RFld) (i : Nat) : (s.inc f i).pending = s.pending := rfl
@[simp] theorem State.live_inc (f : RFld) (i : Nat) : (s.inc f i).live = s.live := rfl

@[simp] theorem State.clock_respond (h : Nat) (w : Word) : (s.respond h w).clock = s.clock := rfl
@[simp] theorem State.freeCtr_respond (h : Nat) (w : Word) : (s.respond h w).freeCtr = s.freeCtr := rfl
@[simp] theorem State.rst_respond (h : Nat) (w : Word) : (s.respond h w).rst = s.rst := rfl
@[simp] theorem State.ctl_respond (h : Nat) (w : Word) : (s.respond h w).ctl = s.ctl := rfl
@[simp] theorem State.err_respond (h : Nat) (w : Word) : (s.respond h w).err = s.err := rfl
@[simp] theorem State.tim_respond (h : Nat) (w : Word) : (s.respond h w).tim = s.tim := rfl
@[simp] theorem State.hbm_respond (h : Nat) (w : Word) : (s.respond h w).hbm = s.hbm := rfl
@[simp] theorem State.iom_respond (h : Nat) (w : Word) : (s.respond h w).iom = s.iom := rfl
@[simp] theorem State.sec_respond (h : Nat) (w : Word) : (s.respond h w).sec = s.sec := rfl
@[simp] theorem State.srt_respond (h : Nat) (w : Word) : (s.respond h w).srt = s.srt := rfl
@[simp] theorem State.ing_respond (h : Nat) (w : Word) : (s.respond h w).ing = s.ing := rfl
@[simp] theorem State.fwd_respond (h : Nat) (w : Word) : (s.respond h w).fwd = s.fwd := rfl
@[simp] theorem State.tm_respond (h : Nat) (w : Word) : (s.respond h w).tm = s.tm := rfl
@[simp] theorem State.work_respond (h : Nat) (w : Word) : (s.respond h w).work = s.work := rfl
@[simp] theorem State.pea_respond (h : Nat) (w : Word) : (s.respond h w).pea = s.pea := rfl
@[simp] theorem State.mix_respond (h : Nat) (w : Word) : (s.respond h w).mix = s.mix := rfl
@[simp] theorem State.vid_respond (h : Nat) (w : Word) : (s.respond h w).vid = s.vid := rfl
@[simp] theorem State.pending_respond (h : Nat) (w : Word) : (s.respond h w).pending = s.pending := rfl
@[simp] theorem State.regs_respond (h : Nat) (w : Word) : (s.respond h w).regs = s.regs := rfl
@[simp] theorem State.live_respond (h : Nat) (w : Word) : (s.respond h w).live = s.live := rfl

@[simp] theorem State.clock_accessFault (h : Nat) (k : AccessKind) (a : Nat) : (s.accessFault h k a).clock = s.clock := rfl
@[simp] theorem State.freeCtr_accessFault (h : Nat) (k : AccessKind) (a : Nat) : (s.accessFault h k a).freeCtr = s.freeCtr := rfl
@[simp] theorem State.rst_accessFault (h : Nat) (k : AccessKind) (a : Nat) : (s.accessFault h k a).rst = s.rst := rfl
@[simp] theorem State.ctl_accessFault (h : Nat) (k : AccessKind) (a : Nat) : (s.accessFault h k a).ctl = s.ctl := rfl
@[simp] theorem State.err_accessFault (h : Nat) (k : AccessKind) (a : Nat) : (s.accessFault h k a).err = s.err := rfl
@[simp] theorem State.tim_accessFault (h : Nat) (k : AccessKind) (a : Nat) : (s.accessFault h k a).tim = s.tim := rfl
@[simp] theorem State.hbm_accessFault (h : Nat) (k : AccessKind) (a : Nat) : (s.accessFault h k a).hbm = s.hbm := rfl
@[simp] theorem State.iom_accessFault (h : Nat) (k : AccessKind) (a : Nat) : (s.accessFault h k a).iom = s.iom := rfl
@[simp] theorem State.sec_accessFault (h : Nat) (k : AccessKind) (a : Nat) : (s.accessFault h k a).sec = s.sec := rfl
@[simp] theorem State.srt_accessFault (h : Nat) (k : AccessKind) (a : Nat) : (s.accessFault h k a).srt = s.srt := rfl
@[simp] theorem State.ing_accessFault (h : Nat) (k : AccessKind) (a : Nat) : (s.accessFault h k a).ing = s.ing := rfl
@[simp] theorem State.fwd_accessFault (h : Nat) (k : AccessKind) (a : Nat) : (s.accessFault h k a).fwd = s.fwd := rfl
@[simp] theorem State.tm_accessFault (h : Nat) (k : AccessKind) (a : Nat) : (s.accessFault h k a).tm = s.tm := rfl
@[simp] theorem State.work_accessFault (h : Nat) (k : AccessKind) (a : Nat) : (s.accessFault h k a).work = s.work := rfl
@[simp] theorem State.pea_accessFault (h : Nat) (k : AccessKind) (a : Nat) : (s.accessFault h k a).pea = s.pea := rfl
@[simp] theorem State.mix_accessFault (h : Nat) (k : AccessKind) (a : Nat) : (s.accessFault h k a).mix = s.mix := rfl
@[simp] theorem State.vid_accessFault (h : Nat) (k : AccessKind) (a : Nat) : (s.accessFault h k a).vid = s.vid := rfl
@[simp] theorem State.pending_accessFault (h : Nat) (k : AccessKind) (a : Nat) : (s.accessFault h k a).pending = s.pending := rfl
@[simp] theorem State.regs_accessFault (h : Nat) (k : AccessKind) (a : Nat) : (s.accessFault h k a).regs = s.regs := rfl
@[simp] theorem State.live_accessFault (h : Nat) (k : AccessKind) (a : Nat) : (s.accessFault h k a).live = s.live := rfl

@[simp] theorem State.clock_post (src q : Nat) (ws : List Word) : (s.post src q ws).clock = s.clock := rfl
@[simp] theorem State.freeCtr_post (src q : Nat) (ws : List Word) : (s.post src q ws).freeCtr = s.freeCtr := rfl
@[simp] theorem State.rst_post (src q : Nat) (ws : List Word) : (s.post src q ws).rst = s.rst := rfl
@[simp] theorem State.hart_post (src q : Nat) (ws : List Word) : (s.post src q ws).hart = s.hart := rfl
@[simp] theorem State.err_post (src q : Nat) (ws : List Word) : (s.post src q ws).err = s.err := rfl
@[simp] theorem State.tim_post (src q : Nat) (ws : List Word) : (s.post src q ws).tim = s.tim := rfl
@[simp] theorem State.hbm_post (src q : Nat) (ws : List Word) : (s.post src q ws).hbm = s.hbm := rfl
@[simp] theorem State.iom_post (src q : Nat) (ws : List Word) : (s.post src q ws).iom = s.iom := rfl
@[simp] theorem State.sec_post (src q : Nat) (ws : List Word) : (s.post src q ws).sec = s.sec := rfl
@[simp] theorem State.srt_post (src q : Nat) (ws : List Word) : (s.post src q ws).srt = s.srt := rfl
@[simp] theorem State.ing_post (src q : Nat) (ws : List Word) : (s.post src q ws).ing = s.ing := rfl
@[simp] theorem State.fwd_post (src q : Nat) (ws : List Word) : (s.post src q ws).fwd = s.fwd := rfl
@[simp] theorem State.tm_post (src q : Nat) (ws : List Word) : (s.post src q ws).tm = s.tm := rfl
@[simp] theorem State.work_post (src q : Nat) (ws : List Word) : (s.post src q ws).work = s.work := rfl
@[simp] theorem State.pea_post (src q : Nat) (ws : List Word) : (s.post src q ws).pea = s.pea := rfl
@[simp] theorem State.mix_post (src q : Nat) (ws : List Word) : (s.post src q ws).mix = s.mix := rfl
@[simp] theorem State.vid_post (src q : Nat) (ws : List Word) : (s.post src q ws).vid = s.vid := rfl
@[simp] theorem State.pending_post (src q : Nat) (ws : List Word) : (s.post src q ws).pending = s.pending := rfl
@[simp] theorem State.regs_post (src q : Nat) (ws : List Word) : (s.post src q ws).regs = s.regs := rfl
@[simp] theorem State.live_post (src q : Nat) (ws : List Word) : (s.post src q ws).live = s.live := rfl

@[simp] theorem State.clock_setTb (t : Nat) (b : TBase) : (s.setTb t b).clock = s.clock := rfl
@[simp] theorem State.freeCtr_setTb (t : Nat) (b : TBase) : (s.setTb t b).freeCtr = s.freeCtr := rfl
@[simp] theorem State.rst_setTb (t : Nat) (b : TBase) : (s.setTb t b).rst = s.rst := rfl
@[simp] theorem State.hart_setTb (t : Nat) (b : TBase) : (s.setTb t b).hart = s.hart := rfl
@[simp] theorem State.ctl_setTb (t : Nat) (b : TBase) : (s.setTb t b).ctl = s.ctl := rfl
@[simp] theorem State.err_setTb (t : Nat) (b : TBase) : (s.setTb t b).err = s.err := rfl
@[simp] theorem State.hbm_setTb (t : Nat) (b : TBase) : (s.setTb t b).hbm = s.hbm := rfl
@[simp] theorem State.iom_setTb (t : Nat) (b : TBase) : (s.setTb t b).iom = s.iom := rfl
@[simp] theorem State.sec_setTb (t : Nat) (b : TBase) : (s.setTb t b).sec = s.sec := rfl
@[simp] theorem State.srt_setTb (t : Nat) (b : TBase) : (s.setTb t b).srt = s.srt := rfl
@[simp] theorem State.ing_setTb (t : Nat) (b : TBase) : (s.setTb t b).ing = s.ing := rfl
@[simp] theorem State.fwd_setTb (t : Nat) (b : TBase) : (s.setTb t b).fwd = s.fwd := rfl
@[simp] theorem State.tm_setTb (t : Nat) (b : TBase) : (s.setTb t b).tm = s.tm := rfl
@[simp] theorem State.work_setTb (t : Nat) (b : TBase) : (s.setTb t b).work = s.work := rfl
@[simp] theorem State.pea_setTb (t : Nat) (b : TBase) : (s.setTb t b).pea = s.pea := rfl
@[simp] theorem State.mix_setTb (t : Nat) (b : TBase) : (s.setTb t b).mix = s.mix := rfl
@[simp] theorem State.vid_setTb (t : Nat) (b : TBase) : (s.setTb t b).vid = s.vid := rfl
@[simp] theorem State.pending_setTb (t : Nat) (b : TBase) : (s.setTb t b).pending = s.pending := rfl
@[simp] theorem State.regs_setTb (t : Nat) (b : TBase) : (s.setTb t b).regs = s.regs := rfl
@[simp] theorem State.live_setTb (t : Nat) (b : TBase) : (s.setTb t b).live = s.live := rfl

@[simp] theorem State.reg_respond (h : Nat) (w : Word) (r : Reg) (j : Nat) : (s.respond h w).reg r j = s.reg r j := rfl
@[simp] theorem State.get_respond (h : Nat) (w : Word) (g : RFld) (j : Nat) : (s.respond h w).get g j = s.get g j := rfl
@[simp] theorem State.reg_accessFault (h : Nat) (k : AccessKind) (a : Nat) (r : Reg) (j : Nat) : (s.accessFault h k a).reg r j = s.reg r j := rfl
@[simp] theorem State.get_accessFault (h : Nat) (k : AccessKind) (a : Nat) (g : RFld) (j : Nat) : (s.accessFault h k a).get g j = s.get g j := rfl
@[simp] theorem State.reg_post (src q : Nat) (ws : List Word) (r : Reg) (j : Nat) : (s.post src q ws).reg r j = s.reg r j := rfl
@[simp] theorem State.get_post (src q : Nat) (ws : List Word) (g : RFld) (j : Nat) : (s.post src q ws).get g j = s.get g j := rfl
@[simp] theorem State.reg_setTb (t : Nat) (b : TBase) (r : Reg) (j : Nat) : (s.setTb t b).reg r j = s.reg r j := rfl
@[simp] theorem State.get_setTb (t : Nat) (b : TBase) (g : RFld) (j : Nat) : (s.setTb t b).get g j = s.get g j := rfl

/-- A field of a register that an update replaced whole. -/
@[simp] theorem State.get_flag_self (f : RFld) (i : Nat) (b : Bool) (h : f.lo + 1 ≤ 64) (hl : f.len = 1) :
    (s.flag f i b).get f i = b2n b := by
  rw [State.flag, State.get_put_self _ _ _ _ (by omega), hl]
  cases b <;> rfl

/-- A counter after its event (00 R12). -/
theorem State.get_add_self (f : RFld) (i n : Nat) (h : f.lo + f.len ≤ 64) :
    (s.add f i n).get f i = (s.get f i + n) % 2 ^ f.len := State.get_put_self _ _ _ _ h

/-- A hart's last load. -/
@[simp] theorem State.resp_respond (h : Nat) (w : Word) : Tbl.at 0 (s.respond h w).hart.resp h = w := by
  simp [State.respond]

/-- The time base written. -/
@[simp] theorem State.tb_setTb (t : Nat) (b : TBase) : (s.setTb t b).tb t = b := by simp [State.tb, State.setTb]

/-- Every other time base stays. -/
theorem State.tb_setTb_ne {t u : Nat} (b : TBase) (h : u ≠ t) : (s.setTb t b).tb u = s.tb u := by
  simp [State.tb, State.setTb, Tbl.at_put_ne _ _ _ _ h]

/-- What a command gives while the part runs. -/
theorem State.whenLive_live (f : State → State) (h : s.live = true) :
    s.whenLive f = .next { f s with pending := s.pending } := by simp [State.whenLive, h]

/-- A command changes nothing in full reset or halted (16 R461, R466). -/
theorem State.whenLive_dead (f : State → State) (h : s.live = false) : s.whenLive f = .next s := by
  simp [State.whenLive, h]

end Sys2Proof.Machine
end

