-- ==== Sys2Proof/Laws/Commands.lean ====
section
/-! SUPPORT. What every command has in common: but for the pins of the part each acts only while the part runs, and then
gives a next state with the queue as it was. -/

namespace Sys2Proof.Machine

/-- A command held until it is free has the shape of its domain's other commands. -/
theorem State.whenReady_form {o : Out} {s : State} {f : State → State} (h : o = s.whenReady f) :
    ∃ g : State → State, o = s.whenLive g ∨ o = s.whenClk g := ⟨fun s => s.attempt f, .inl h⟩

theorem State.whenClkReady_form {o : Out} {s : State} {f : State → State} (h : o = s.whenClkReady f) :
    ∃ g : State → State, o = s.whenLive g ∨ o = s.whenClk g := ⟨fun s => s.attempt f, .inr h⟩

/-- The shape of every meaning but those of the pins (16 R460, R461, R466). -/
theorem exec_form (c : Instr) (s : State) (h : isPin c = false) :
    ∃ f : State → State, exec c s = s.whenLive f ∨ exec c s = s.whenClk f := by
  cases c
  case fullResetRelease => cases h
  case railUndervoltage => cases h
  case resetNAssert => cases h
  case resetNRelease => cases h
  case monitoredRailReturn => cases h
  case refclk100Return => cases h
  case trstNChange => cases h
  case clockLoss r =>
    obtain rfl : r = false := h
    refine ⟨fun s => let (v, s) := s.draw 2; s.raiseFree 4 13 0x40 v, .inl ?_⟩
    simp only [exec, execClockLoss, Bool.false_eq_true, if_false]
  all_goals
    simp only [exec]
    first
      | exact ⟨_, .inl rfl⟩
      | exact ⟨_, .inr rfl⟩
      | exact State.whenReady_form rfl
      | exact State.whenClkReady_form rfl

theorem State.whenClk_live (s : State) (f : State → State) (h : s.live = true) (hc : s.err.clkStopped = false) :
    s.whenClk f = .next { f s with pending := s.pending } := by simp [State.whenClk, h, hc]

theorem State.whenClk_dead (s : State) (f : State → State) (h : s.live = false) : s.whenClk f = .next s := by
  simp [State.whenClk, h]

/-- With nothing held, a command that does not come to wait for an access acts at once. -/
theorem State.attempt_free (s : State) (f : State → State) (h : s.free = true) (hb : (f s).hbm.blocked = none) :
    s.attempt f = f s := by
  have hn : s.stalls (f s) = false := by
    simp only [State.free, Bool.and_eq_true, List.all_eq_true, decide_eq_true_eq] at h
    simp only [State.stalls, List.any_eq_false, Bool.and_eq_true, decide_eq_true_eq, not_and]
    intro e _ hlt
    cases hv : Tbl.find s.ctl.crossing e.1 with
    | none => simp [Tbl.at, hv] at hlt
    | some v => exact absurd (h.2 _ (Tbl.mem_of_find hv)) (by simpa [Tbl.at, hv] using hlt)
  simp [State.attempt, hb, hn]

/-- Such a command while the part runs. -/
theorem State.whenReady_live (s : State) (f : State → State) (h : s.live = true) (hf : s.free = true)
    (hb : (f s).hbm.blocked = none) : s.whenReady f = .next { f s with pending := s.pending } := by
  simp [State.whenReady, State.whenLive, h, State.attempt_free s f hf hb]

/-- Ready by evaluation: no listed register holds RETRAINING. -/
def readyCheck (s : State) : Bool :=
  s.live && s.free && s.hbm.waiting.isEmpty && s.hbm.held.isEmpty &&
    s.regs.all fun e => e.1 % 512 ≠ Reg.ctorIdx .HBM_PC_STATE || fld e.2 0 3 ≠ 3

theorem ready_of_check {s : State} (h : readyCheck s = true) : Ready s := by
  simp only [readyCheck, Bool.and_eq_true, List.isEmpty_iff] at h
  obtain ⟨⟨⟨⟨hl, hf⟩, hw⟩, hh⟩, hr⟩ := h
  refine ⟨hl, hf, hw, hh, fun pc hp => ?_⟩
  simp only [State.get, State.reg, Tbl.at] at hp
  cases hv : Tbl.find s.regs (Reg.key .HBM_PC_STATE pc) with
  | none => simp [hv, Reg.resetAt, Reg.row, fld, wd, bitsOf] at hp
  | some v =>
    have hm := List.all_eq_true.mp hr _ (Tbl.mem_of_find hv)
    have hk : Reg.key .HBM_PC_STATE pc % 512 = Reg.ctorIdx .HBM_PC_STATE := by simp [Reg.key]; decide
    simp [hk] at hm
    exact hm (by simpa [hv] using hp)

/-- What a fold keeps, where each of its steps keeps it. -/
theorem foldl_keeps {α β γ : Type} (p : β → γ) (f : β → α → β) (h : ∀ b a, p (f b a) = p b) (l : List α) (b : β) :
    p (l.foldl f b) = p b := by
  induction l generalizing b with
  | nil => rfl
  | cons a l ih => simp only [List.foldl, ih, h]

/-- What holds through a fold, where each of its steps preserves it. -/
theorem foldl_inv {α β : Type} (p : β → Prop) (f : β → α → β) (h : ∀ b a, p b → p (f b a)) (l : List α) (b : β)
    (hb : p b) : p (l.foldl f b) := by
  induction l generalizing b with
  | nil => exact hb
  | cons a l ih => exact ih _ (h _ _ hb)

end Sys2Proof.Machine
end

