-- ==== Sys2Proof/Laws/Memory.lean ====
section
/-! SUPPORT. Laws of the byte memories: what a read leaves, what a read gives after a write, and that every memory
operation keeps the canonical form. -/

namespace Sys2Proof.Machine

/-! ## What leaves the byte memories -/

@[simp] theorem State.mems_setReg (s : State) (r : Reg) (i : Nat) (w : Word) : (s.setReg r i w).mems = s.mems := rfl
@[simp] theorem State.mems_add (s : State) (f : RFld) (i n : Nat) : (s.add f i n).mems = s.mems := rfl
@[simp] theorem State.mems_inc (s : State) (f : RFld) (i : Nat) : (s.inc f i).mems = s.mems := rfl
@[simp] theorem State.mems_post (s : State) (a q : Nat) (ws : List Word) : (s.post a q ws).mems = s.mems := rfl
@[simp] theorem State.mems_post1 (s : State) (a q c u x y : Nat) : (s.post1 a q c u x y).mems = s.mems := rfl
@[simp] theorem State.mems_accessFault (s : State) (h : Nat) (k : AccessKind) (a : Nat) :
    (s.accessFault h k a).mems = s.mems := rfl
@[simp] theorem State.mems_respond (s : State) (h : Nat) (w : Word) : (s.respond h w).mems = s.mems := rfl

@[simp] theorem State.mems_fileRecord (s : State) (c : Nat) (ws : List Word) : (s.fileRecord c ws).mems = s.mems := by
  unfold State.fileRecord
  dsimp only
  split
  · split <;> rfl
  · refine (foldl_keeps State.mems _ ?_ _ _).trans rfl
    intros; rfl

@[simp] theorem State.mems_trace (s : State) (ws : List Word) : (s.trace ws).mems = s.mems := by
  unfold State.trace; dsimp only; split <;> rfl

@[simp] theorem State.mems_fatal (s : State) (c : Nat) (b : Bool) : (s.fatal c b).mems = s.mems := by
  unfold State.fatal; split <;> rfl

/-- An error record leaves every byte of memory. -/
@[simp] theorem State.mems_raise (s : State) (b : Bool) (cls sub code inst : Nat) (w : Word) :
    (s.raise b cls sub code inst w).mems = s.mems := by
  unfold State.raise; dsimp only; split <;> simp

@[simp] theorem State.mems_countBursts (s : State) (f : RFld) (bs : List Nat) : (s.countBursts f bs).mems = s.mems := by
  unfold State.countBursts
  refine foldl_keeps State.mems _ ?_ _ _
  intros; rfl

@[simp] theorem State.mems_countLate (s : State) (r : HbmReq) : (s.countLate r).mems = s.mems := by
  unfold State.countLate; split <;> rfl

@[simp] theorem State.mems_block (s : State) (r : HbmReq) : (s.block r).mems = s.mems := rfl

@[simp] theorem State.mems_waitAt (s : State) (r : HbmReq) : (s.waitAt r).mems = s.mems := by
  unfold State.waitAt; split <;> rfl

/-- An access that passes its port leaves every byte. -/
@[simp] theorem State.mems_passPort (s : State) (r : HbmReq) : (s.passPort r).mems = s.mems := by
  unfold State.passPort; split <;> simp <;> rfl

@[simp] theorem State.mems_logUe (s : State) (b : Nat) : (s.logUe b).mems = s.mems := by
  unfold State.logUe
  split
  · dsimp only; rw [State.mems_raise]; rfl
  · rfl

@[simp] theorem State.mems_logUes (bs : List Nat) (s : State) : (bs.foldl State.logUe s).mems = s.mems :=
  foldl_keeps State.mems _ (fun t b => State.mems_logUe t b) _ _

/-- A read by physical address leaves every byte. -/
@[simp] theorem State.mems_physGet (s : State) (pa n : Nat) : (s.physGet pa n).st.mems = s.mems := by
  unfold State.physGet
  split
  · rfl
  · dsimp only
    split <;> simp

@[simp] theorem State.mems_physRead (s : State) (port stream pa n : Nat) :
    (s.physRead port stream pa n).st.mems = s.mems := by
  unfold State.physRead; dsimp only; split <;> simp

@[simp] theorem State.mems_physAny (s : State) (stream pa n : Nat) : (s.physAny stream pa n).st.mems = s.mems := by
  unfold State.physAny; split <;> simp

@[simp] theorem State.mems_walk (dom iova : Nat) (w : Bool) : ∀ (fuel l table : Nat) (named : Nat × Word)
    (keep : List CacheEnt) (s : State), (s.walk dom iova w fuel l table named keep).st.mems = s.mems
  | 0, _, _, _, _, _ => rfl
  | fuel + 1, l, table, named, keep, s => by
    have ih := State.mems_walk dom iova w fuel
    unfold State.walk
    split
    · rfl
    · dsimp only
      repeat' split
      all_goals simp [ih]

@[simp] theorem State.mems_walkRoot (s : State) (dom iova : Nat) (w : Bool) : (s.walkRoot dom iova w).st.mems = s.mems := by
  unfold State.walkRoot; dsimp only; split <;> simp

@[simp] theorem WalkOut.mems_commit (w : WalkOut) : w.commit.2.mems = w.st.mems := rfl

@[simp] theorem State.mems_dropPath (s : State) (dom iova : Nat) : (s.dropPath dom iova).mems = s.mems := rfl

/-- A translation leaves every byte. -/
@[simp] theorem State.mems_translate (s : State) (dom iova : Nat) (w : Bool) : (s.translate dom iova w).2.mems = s.mems := by
  unfold State.translate
  dsimp only
  repeat' split
  all_goals simp

@[simp] theorem State.mems_iomFault (s : State) (q : Src) (iova : Nat) (w : Bool) (x : XFault) :
    (s.iomFault q iova w x).mems = s.mems := by
  unfold State.iomFault
  dsimp only
  split
  · rfl
  · split <;> rfl

@[simp] theorem State.mems_vreadGo (q : Src) : ∀ (fuel iova n : Nat) (acc : List Byte) (s : State),
    (s.vreadGo q fuel iova n acc).st.mems = s.mems
  | 0, _, _, _, _ => rfl
  | fuel + 1, iova, n, acc, s => by
    have ih := State.mems_vreadGo q fuel
    unfold State.vreadGo
    split
    · rfl
    · have ht := State.mems_translate s q.domain iova false
      dsimp only
      split
      · next he => rw [he] at ht; simpa using ht
      · next he =>
        rw [he] at ht
        split <;> simp [ih] <;> exact ht

/-- A translated read leaves every byte. -/
@[simp] theorem State.mems_vread (s : State) (q : Src) (iova n : Nat) : (s.vread q iova n).st.mems = s.mems :=
  State.mems_vreadGo ..

/-- A line filled into the L2 leaves every byte. -/
@[simp] theorem State.mems_fillLine (s : State) (h l : Nat) : (s.fillLine h l).mems = s.mems := by
  have hr : ((s.physRead 9 h (l * 64) 64).st.inc F.HBM_PORT_RD_CNT.CNT 9).mems = s.mems := by simp
  unfold State.fillLine
  split
  · rfl
  · dsimp only
    split <;> exact hr

@[simp] theorem State.mems_fillLines (s : State) (h : Nat) (z : Zone) (a n : Nat) :
    (s.fillLines h z a n).mems = s.mems := by
  unfold State.fillLines
  split
  · exact foldl_keeps State.mems _ (fun t l => State.mems_fillLine t h l) _ _
  · rfl

/-! ## What a write keeps -/

/-- The canonical form depends on the byte memories alone. -/
theorem Memory.wf_congr {s t : State} (h : t.mems = s.mems) : Memory.wf t = Memory.wf s := by simp [Memory.wf, h]

theorem Memory.wf_iff (s : State) : Memory.wf s = true ↔ Tbl.wf 0 s.hbm.mem = true ∧ Tbl.wf 0 s.ctl.scratch = true
    ∧ Tbl.wf 0 s.ctl.mailbox = true ∧ Tbl.wf 0 s.tm.buf = true ∧ Tbl.wf 0 s.sec.flash = true := by
  simp [Memory.wf, State.mems]

/-- The machine after reset. -/
theorem Memory.wf_reset : Memory.wf State.reset = true := rfl

theorem Memory.wf_storeBytes (s : State) (off : Nat) (bs : List Byte) (h : Memory.wf s = true) :
    Memory.wf (s.storeBytes off bs) = true := by
  rw [Memory.wf_iff] at h ⊢
  exact ⟨Tbl.wf_putList _ _ _ _ h.1, h.2⟩

@[simp] theorem State.mems_queueWrite (s : State) (off n : Nat) : (s.queueWrite off n).mems = s.mems := rfl

/-- A write by physical address. -/
theorem Memory.wf_physPut (s : State) (pa : Nat) (bs : List Byte) (h : Memory.wf s = true) :
    Memory.wf (s.physPut pa bs).st = true := by
  unfold State.physPut
  split
  · exact h
  · split
    · exact h
    · dsimp only
      split
      · dsimp only
        split
        · exact h
        · exact Memory.wf_storeBytes _ _ _ h
      · dsimp only
        rw [Memory.wf_congr ((State.mems_queueWrite ..).trans (State.mems_countBursts ..))]
        exact Memory.wf_storeBytes _ _ _ h

/-- A write of a port's stream. -/
theorem Memory.wf_physWrite (s : State) (port stream pa : Nat) (bs : List Byte) (h : Memory.wf s = true) :
    Memory.wf (s.physWrite port stream pa bs).st = true := by
  unfold State.physWrite
  dsimp only
  split
  · exact (Memory.wf_congr (State.mems_block ..)).trans h
  · exact Memory.wf_physPut _ _ _ ((Memory.wf_congr (State.mems_passPort ..)).trans h)

/-- A write of a ring or of the management port. -/
theorem Memory.wf_physAnyWrite (s : State) (stream pa : Nat) (bs : List Byte) (h : Memory.wf s = true) :
    Memory.wf (s.physAnyWrite stream pa bs).st = true := by
  unfold State.physAnyWrite
  split
  · rw [Memory.wf_iff] at h ⊢
    exact ⟨h.1, Tbl.wf_putList _ _ _ _ h.2.1, h.2.2⟩
  · exact (Memory.wf_congr (State.mems_add ..)).trans (Memory.wf_physWrite _ _ _ _ _ h)

theorem Memory.wf_vwriteGo (q : Src) : ∀ (fuel iova : Nat) (bs : List Byte) (n : Nat) (s : State), Memory.wf s = true →
    Memory.wf (s.vwriteGo q fuel iova bs n).st = true
  | 0, _, _, _, _, h => h
  | fuel + 1, iova, bs, n, s, h => by
    have ih := Memory.wf_vwriteGo q fuel
    unfold State.vwriteGo
    split
    · exact h
    · have ht := State.mems_translate s q.domain iova true
      dsimp only
      split
      · next he => rw [he] at ht; exact (Memory.wf_congr ((State.mems_iomFault ..).trans ht)).trans h
      · next he =>
        rw [he] at ht
        have hw := fun a b => Memory.wf_physWrite _ q.port q.stream a b ((Memory.wf_congr ht).trans h)
        split
        · exact ih _ _ _ _ ((Memory.wf_congr (State.mems_add ..)).trans (hw _ _))
        · exact (Memory.wf_congr (State.mems_add ..)).trans (hw _ _)

/-- A translated write. -/
theorem Memory.wf_vwrite (s : State) (q : Src) (iova : Nat) (bs : List Byte) (h : Memory.wf s = true) :
    Memory.wf (s.vwrite q iova bs).st = true := Memory.wf_vwriteGo _ _ _ _ _ _ h

/-- A modified line of the L2 that loses its data. -/
theorem Memory.wf_loseData (s : State) (l : Nat) (h : Memory.wf s = true) : Memory.wf (s.loseData l) = true := by
  unfold State.loseData
  split
  · exact h
  · rw [Memory.wf_iff] at h ⊢
    exact ⟨Tbl.wf_putList _ _ _ _ h.1, h.2⟩

theorem Memory.wf_evictLine (s : State) (l : Nat) (h : Memory.wf s = true) : Memory.wf (s.evictLine l) = true := by
  unfold State.evictLine
  dsimp only
  split
  · exact h
  · split
    · exact (Memory.wf_congr (State.mems_raise ..)).trans (Memory.wf_loseData _ _ h)
    · exact h

/-- A line that the L2 gives up. -/
theorem Memory.wf_l2Turn (s : State) (h : Memory.wf s = true) : Memory.wf s.l2Turn = true := by
  unfold State.l2Turn
  dsimp only
  split
  · exact h
  · split
    · exact h
    · split
      · exact h
      · exact Memory.wf_evictLine _ _ h

theorem Memory.wf_afterHbm (s : State) (z : Zone) (h : Memory.wf s = true) : Memory.wf (s.afterHbm z) = true := by
  unfold State.afterHbm
  split
  · exact Memory.wf_l2Turn _ h
  · exact h

/-- A hart's load. -/
theorem Memory.wf_hartLoad (s : State) (h : Nat) (p : Priv) (z : Zone) (a n : Nat) (hs : Memory.wf s = true) :
    Memory.wf (s.hartLoad h p z a n) = true := by
  have hf := (Memory.wf_congr (State.mems_fillLines s h z a n)).trans hs
  unfold State.hartLoad
  dsimp only
  split <;> exact Memory.wf_afterHbm _ _ hf

/-- A hart's store. -/
theorem Memory.wf_hartStore (s : State) (h : Nat) (p : Priv) (z : Zone) (a n : Nat) (w : Word) (hs : Memory.wf s = true) :
    Memory.wf (s.hartStore h p z a n w) = true := by
  have hf := (Memory.wf_congr (State.mems_fillLines s h z a n)).trans hs
  unfold State.hartStore
  rw [Memory.wf_iff] at hs hf
  cases z <;> dsimp only
  case mailbox =>
    split
    · exact (Memory.wf_congr (State.mems_accessFault ..)).trans ((Memory.wf_iff _).2 hs)
    · exact (Memory.wf_iff _).2 ⟨hs.1, hs.2.1, Tbl.wf_putList _ _ _ _ hs.2.2.1, hs.2.2.2⟩
  case scratch => exact (Memory.wf_iff _).2 ⟨hs.1, Tbl.wf_putList _ _ _ _ hs.2.1, hs.2.2⟩
  case hbm => exact Memory.wf_afterHbm _ _ ((Memory.wf_iff _).2 ⟨Tbl.wf_putList _ _ _ _ hf.1, hf.2⟩)
  all_goals exact (Memory.wf_iff _).2 hs

/-- Firmware's writes of scratch and the root of trust's of the mailbox. -/
theorem Memory.wf_scrPut (s : State) (off : Nat) (bs : List Byte) (h : Memory.wf s = true) :
    Memory.wf (s.scrPut off bs) = true := by
  rw [Memory.wf_iff] at h ⊢
  exact ⟨h.1, Tbl.wf_putList _ _ _ _ h.2.1, h.2.2⟩

theorem Memory.wf_mbxPut (s : State) (off : Nat) (bs : List Byte) (h : Memory.wf s = true) :
    Memory.wf (s.mbxPut off bs) = true := by
  rw [Memory.wf_iff] at h ⊢
  exact ⟨h.1, h.2.1, Tbl.wf_putList _ _ _ _ h.2.2.1, h.2.2.2⟩

/-- A training pattern. -/
theorem Memory.wf_trnPattern (s : State) (pc : Nat) (h : Memory.wf s = true) : Memory.wf (s.trnPattern pc) = true := by
  unfold State.trnPattern
  exact foldl_inv (Memory.wf · = true) _ (fun _ _ hm => Memory.wf_storeBytes _ _ _ hm) _ _ h

theorem Tbl.wf_putCells : ∀ (cs : List Nat) (bs : List Byte) (t : Tbl Byte), Tbl.wf 0 t = true →
    Tbl.wf 0 (putCells t cs bs) = true
  | [], _, _, h => h
  | _ :: cs, _, _, h => Tbl.wf_putCells cs _ _ (Tbl.wf_putList _ _ _ _ h)

theorem State.mems_takeCells : ∀ (n : Nat) (s : State) (acc : List Nat), (State.takeCells n s acc).2.mems = s.mems
  | 0, _, _ => rfl
  | n + 1, s, acc => by
    have ih := State.mems_takeCells n
    unfold State.takeCells
    split
    · rfl
    · split
      · rfl
      · dsimp only; rw [ih]; unfold State.raiseMax; split <;> rfl

/-- A frame admitted to the packet buffer. -/
theorem Memory.wf_admit (s : State) (c n : Nat) (bs : List Byte) (h : Memory.wf s = true) :
    Memory.wf (s.admitFrame c n bs).2 = true := by
  have ht := (Memory.wf_congr (State.mems_takeCells (ceilDiv n 256) s [])).trans h
  unfold State.admitFrame
  dsimp only
  split
  · exact h
  · split
    · exact ht
    · rw [Memory.wf_iff] at ht ⊢
      exact ⟨ht.1, ht.2.1, ht.2.2.1, Tbl.wf_putCells _ _ _ ht.2.2.2.1, ht.2.2.2.2⟩

/-- A frame whose cells are taken as it arrives leaves every byte. -/
@[simp] theorem State.mems_admitPart (s : State) (c n : Nat) : (s.admitPart c n).2.mems = s.mems := by
  have ht := State.mems_takeCells (ceilDiv n 256) s []
  unfold State.admitPart
  dsimp only
  split
  · rfl
  · split <;> exact ht

/-- HBM drawn again at the end of a full reset. -/
theorem Memory.wf_fullReset (s t : State) (h : Memory.wf s = true) (he : execFullResetRelease s = .next t) :
    Memory.wf t = true := by
  unfold execFullResetRelease at he
  split at he
  · cases he
    rw [Memory.wf_iff] at h ⊢
    refine ⟨?_, rfl, rfl, rfl, h.2.2.2.2⟩
    refine foldl_inv (Tbl.wf 0 · = true) _ (fun m e hm => ?_) _ _ rfl
    split
    · exact Tbl.wf_put _ _ _ _ hm
    · exact hm
  · cases he; exact h

/-! ## The memories of pods and mixing engines -/

/-- A store to a pod memory is read back. -/
theorem Pea.load_store_self (p : Pea) (sp : PeaSpace) (i : Nat) (bs : List Byte) :
    (p.store sp i bs).load sp i bs.length = bs := by
  cases sp <;> exact Tbl.getList_putList ..

/-- A store to a pod memory leaves the bytes outside it. -/
theorem Pea.load_store_out (p : Pea) (sp sq : PeaSpace) (i j n : Nat) (bs : List Byte)
    (h : sq ≠ sp ∨ j + n ≤ i ∨ i + bs.length ≤ j) : (p.store sp i bs).load sq j n = p.load sq j n := by
  cases sp <;> cases sq <;>
    first
      | rfl
      | exact Tbl.getList_putList_out _ _ _ _ _ _ (h.resolve_left (by simp))

/-- A store keeps the canonical form of the pod memories. -/
theorem Pea.wf_store (p : Pea) (sp : PeaSpace) (i : Nat) (bs : List Byte)
    (h : Tbl.wf 0 p.x = true ∧ Tbl.wf 0 p.y = true ∧ Tbl.wf 0 p.shared = true) :
    Tbl.wf 0 (p.store sp i bs).x = true ∧ Tbl.wf 0 (p.store sp i bs).y = true
      ∧ Tbl.wf 0 (p.store sp i bs).shared = true := by
  cases sp
  · exact ⟨Tbl.wf_putList _ _ _ _ h.1, h.2⟩
  · exact ⟨h.1, Tbl.wf_putList _ _ _ _ h.2.1, h.2.2⟩
  · exact ⟨h.1, h.2.1, Tbl.wf_putList _ _ _ _ h.2.2⟩

/-- A write of sample memory keeps its canonical form. -/
theorem Mix.wf_write : ∀ (ws : List (BitVec 32)) (m : Mix) (a : Nat), Tbl.wf 0 m.smem = true →
    Tbl.wf 0 (m.write a ws).smem = true
  | [], _, _, h => h
  | _ :: ws, _, _, h => Mix.wf_write ws _ _ (Tbl.wf_put _ _ _ _ h)

end Sys2Proof.Machine
end

