-- ==== Sys2Proof/Laws/Time.lean ====
section
/-! SUPPORT. What one CLK_TIME cycle can change: the clock, the time bases with the end of a slew, and registers. -/

namespace Sys2Proof.Machine

theorem State.tickTb_tim (s0 s : State) (t : Nat) : (s0.tickTb s t).tim =
    { s.tim with tbs := (s0.tickTb s t).tim.tbs, slewDone := (s0.tickTb s t).tim.slewDone } := by
  apply Tim.ext
  case tbs => rfl
  case slewDone => rfl
  all_goals unfold State.tickTb; split <;> rfl

/-- A cycle of one time base changes registers, the time bases and the ends of slews. -/
theorem State.tickTb_frame (s0 s : State) (t : Nat) : s0.tickTb s t = { s with
    regs := (s0.tickTb s t).regs
    tim := { s.tim with tbs := (s0.tickTb s t).tim.tbs, slewDone := (s0.tickTb s t).tim.slewDone } } := by
  apply State.ext
  case regs => rfl
  case tim => exact State.tickTb_tim ..
  all_goals unfold State.tickTb; split <;> rfl

/-- The time base after its cycle. -/
theorem State.tickTb_tb (s0 s : State) (t : Nat) : (s0.tickTb s t).tb t = s0.nextTb t := by
  unfold State.tickTb; split <;> simp [State.tb, State.setTb]

/-- Other time bases stay. -/
theorem State.tickTb_tb_ne (s0 s : State) {t u : Nat} (h : u ≠ t) : (s0.tickTb s t).tb u = s.tb u := by
  unfold State.tickTb; split <;> simp [State.tb, State.setTb, Tbl.at_put_ne _ _ _ _ h]

theorem State.ticks_frame (s0 : State) (l : List Nat) : ∀ s : State, l.foldl (fun u i => s0.tickTb u i) s =
    { s with
      regs := (l.foldl (fun u i => s0.tickTb u i) s).regs
      tim := { s.tim with
        tbs := (l.foldl (fun u i => s0.tickTb u i) s).tim.tbs
        slewDone := (l.foldl (fun u i => s0.tickTb u i) s).tim.slewDone } } := by
  induction l with
  | nil => intro s; rfl
  | cons t l ih =>
    intro s
    simp only [List.foldl]
    rw [ih, State.tickTb_frame]

theorem State.ticks_tb_notMem (s0 : State) (l : List Nat) (u : Nat) (h : u ∉ l) :
    ∀ s : State, (l.foldl (fun v i => s0.tickTb v i) s).tb u = s.tb u := by
  induction l with
  | nil => intro s; rfl
  | cons t l ih =>
    intro s
    simp only [List.mem_cons, not_or] at h
    simp only [List.foldl, ih h.2, State.tickTb_tb_ne s0 s h.1]

theorem State.ticks_tb (s0 : State) (l : List Nat) (u : Nat) (hn : l.Nodup) (h : u ∈ l) :
    ∀ s : State, (l.foldl (fun v i => s0.tickTb v i) s).tb u = s0.nextTb u := by
  induction l with
  | nil => cases h
  | cons t l ih =>
    intro s
    simp only [List.foldl]
    rcases List.mem_cons.1 h with rfl | h
    · rw [State.ticks_tb_notMem s0 l _ (List.nodup_cons.1 hn).1, State.tickTb_tb]
    · exact ih (List.nodup_cons.1 hn).2 h _

/-- A running part's cycle. -/
theorem State.tick_frame (s : State) : s.tick = { s with
    clock := s.tick.clock
    regs := s.tick.regs
    tim := { s.tim with tbs := s.tick.tim.tbs, slewDone := s.tick.tim.slewDone } } := by
  unfold State.tick; split
  · rw [State.ticks_frame]
  · rfl

/-- Each time base takes its next value. -/
theorem State.tick_tb (s : State) (h : (s.live && s.rst.refclk) = true) {t : Nat} (ht : t < 8) :
    s.tick.tb t = s.nextTb t := by
  unfold State.tick; rw [if_pos h]
  exact State.ticks_tb s _ t List.nodup_range (List.mem_range.2 ht) s

theorem State.tick_clock (s : State) (h : (s.live && s.rst.refclk) = true) : s.tick.clock = s.clock + 1 := by
  unfold State.tick; rw [if_pos h]

/-- The counters of waiting cycles change registers alone. -/
theorem State.add_frame (s : State) (f : RFld) (i n : Nat) : s.add f i n = { s with regs := (s.add f i n).regs } := rfl

theorem regsOnly_trans {s t u : State} (h1 : t = { s with regs := t.regs }) (h2 : u = { t with regs := u.regs }) :
    u = { s with regs := u.regs } := h2.trans (by rw [h1])

theorem State.coreCycles_frame (s : State) (d k : Nat) (c : Core) :
    s.coreCycles d k c = { s with regs := (s.coreCycles d k c).regs } := by
  unfold State.coreCycles
  cases c.run.isSome
  · rfl
  · cases c.stalled
    · exact State.add_frame ..
    · exact regsOnly_trans (State.add_frame ..) (State.add_frame ..)

theorem foldl_regs {α : Type} (f : State → α → State) (h : ∀ s a, f s a = { s with regs := (f s a).regs }) (l : List α) :
    ∀ s : State, l.foldl f s = { s with regs := (l.foldl f s).regs } := by
  induction l with
  | nil => intro s; rfl
  | cons a l ih => intro s; simp only [List.foldl]; rw [ih, h]

theorem iteAdd_frame (b : Prop) [Decidable b] (s : State) (f : RFld) (i n : Nat) :
    (if b then s.add f i n else s) = { s with regs := (if b then s.add f i n else s).regs } := by
  split
  · exact State.add_frame ..
  · rfl

theorem State.countCycles_frame (s : State) : s.countCycles = { s with regs := s.countCycles.regs } := by
  unfold State.countCycles
  split
  · rfl
  · have h1 := foldl_regs (fun u (e : Nat × Core) => u.coreCycles (peaCycles s.clock) e.1 e.2)
      (fun u e => State.coreCycles_frame ..) s.pea.cores s
    have h2 := foldl_regs (fun u (e : Nat × List Submit) =>
      if e.2 = [] then u else u.add F.PEA_POD_SUBMIT_HOLD_CNT.CNT e.1 (peaCycles s.clock))
      (fun u e => by split; · rfl
                     · exact State.add_frame ..) s.work.port
    have h3 := foldl_regs (fun u p => if s.injHeld p then u.add F.PEA_POD_INJ_HOLD_CNT.CNT p (peaCycles s.clock) else u)
      (fun u e => iteAdd_frame ..) (List.range 32)
    dsimp only
    rw [iteAdd_frame, h3, h2, h1]

theorem State.countVid_frame (s : State) : s.countVid = { s with regs := s.countVid.regs } := by
  unfold State.countVid State.holdCycles
  split
  · rfl
  · apply foldl_regs
    intro u e
    split
    · exact iteAdd_frame ..
    · rfl

end Sys2Proof.Machine
end

