-- ==== Sys2Proof/Tests/Slice0.lean ====
section
/-! SUPPORT. Tests by evaluation. The ill-formed commands that the check refuses; then, for each statement with premises, a
state and operands that meet the premises of its clauses together, with what the rule says follows there: expected values
are worked out by hand from the rules named. -/

namespace Sys2Proof.Tests

set_option Elab.async false

open Sys2Proof.Machine

/-- A state with fields of registers set: field, instance, value. -/
def set (s : State) (l : List (RFld × Nat × Nat)) : State := l.foldl (fun t x => t.put x.1 x.2.1 x.2.2) s

/-- A state with registers set: register, instance, word. -/
def put (s : State) (l : List (Reg × Nat × Word)) : State := l.foldl (fun t x => t.setReg x.1 x.2.1 x.2.2) s

/-- The outcome is a next state of which p holds. -/
def goes (o : Out) (p : State → Bool) : Bool :=
  match o with
  | .next t => p t
  | .fault _ => false
  | .refused _ => false

/-- The command completes in a state of which p holds. -/
def gives (c : Instr) (s : State) (p : State → Bool) : Bool := goes (exec c s) p

/-- The machine right after reset, which is live. -/
def up : State := State.reset

/-- A read of the first four bytes of HBM. -/
def req0 : HbmReq := { port := 0, stream := 0, write := false, addr := 2 ^ 40, len := 4, data := [] }

/-- Nothing but registers of a list changed. -/
def only (s t : State) (rs : List (Reg × Nat)) : Bool :=
  decide (t = { s with regs := t.regs }) &&
    decide (t.regs.filter (fun e => rs.all fun r => r.1.key r.2 ≠ e.1) = s.regs.filter fun e => rs.all fun r => r.1.key r.2 ≠ e.1)

/-! ## The check of commands -/

/-- One ill-formed command for each check: widths, frames, producers, margins, readings, measurements, tokens, requests. -/
theorem test_refused_forms : (
    [Instr.registerWrite 0 .m 0 3 0, .errorResponseAccess 0 .fetch 0 8, .frameArrival 0 [0, 0, 0] .good, .eventItemPost 0,
     .eventItemPost 15, .evqFlush 0 [1, 15], .hbmInfo 0 [], .thermalReading [], .thermalReading (List.replicate 23 25), .thermalReading (32768 :: List.replicate 23 25),
     .rateLockUpdate 0 0 (2 ^ 63), .secUnlock [], .errorDetection 0 1 0 0, .errorDetection 1 256 0 0,
     .hbmRequest 0 [{ req0 with addr := 2 ^ 40 + 61 }], .hbmRequest 0 [{ req0 with write := true, data := [1] }]]).all
      (fun i => !i.wellFormed) = true := by decide +kernel

/-- One ill-formed command for each bound: the first value out of range. -/
theorem test_refused_bounds : (
    [Instr.registerWrite 8 .m 0 8 0, .registerWrite 0 .m (2 ^ 46) 8 0, .prtGrpCfgWrite 32 0, .prtPortCfgWrite 256 0,
     .pipelineSlot 8, .install (2 ^ 20), .subscriptionDecision 16, .carInit (2 ^ 17), .txRingFrame 16, .cartRetire (2 ^ 32),
     .coachWrite (2 ^ 16), .wdPoolCfgWrite 16 true 0, .standardBundle 512, .hbmRd 0 4, .podMemDataAccess 0 32 true 0,
     .mixTick 8, .parameterWrite 0 4096 0, .packet 64, .encode 32, .hintEntryMove 0 256, .compose 16, .refresh 64,
     .readTrain 0 (2 ^ 38) true, .setNow 8, .inputEdge 18 true 0, .inputEdge 0 true 4, .outputRise 3,
     .evqHeadRead 0 .m 64 0 0, .evqHeadRead 0 .m 0 (2 ^ 64) 0, .mdioRead (2 ^ 16), .mgtLinkChange true 3 true,
     .railUndervoltage 3]).all (fun i => !i.wellFormed) = true := by decide +kernel

theorem test_accepted_bounds : (
    [Instr.registerWrite 7 .m (2 ^ 46 - 1) 1 0, .install (2 ^ 20 - 1), .subscriptionDecision 15, .readTrain 63 (2 ^ 38 - 1) true,
     .inputEdge 17 false 3, .eventItemPost 14, .hbmRequest 63 [{ req0 with port := 11, addr := 2 ^ 40 + 60, write := true, data := [1, 2, 3, 4] }],
     .thermalReading (32767 :: List.replicate 23 (-32768))]).all Instr.wellFormed = true := by decide +kernel

/-! ## The queue, full reset, time -/

/-- StepRunsFront, EveryStepGoes, QueueIsFifo: two commands run in the order they came. -/
theorem test_queue : goes (core.run 2 { up with pending := [.timXsnap, .trstNChange false, .swap] }) (fun t =>
    t.pending == [.swap] && !t.rst.trstLow) = true := by decide +kernel

/-- DeadPartHolds: in full reset two commands change nothing but the queue. -/
theorem test_dead : (
    let s := { up with rst := { up.rst with step := 4 }, pending := [.swap, .clockLoss false, .resetNAssert] }
    !s.live && (s.pending.take 2).all (fun c => !isPin c)
      && goes (core.run 2 s) fun t => t == { s with pending := [.resetNAssert] }) = true := by decide +kernel

/-- SecondFatalHalts (R460, R461). -/
theorem test_second_fatal : (
    let t := up.raise false 4 9 0x41 0 7
    bitAt (t.reg .ERR_STATUS 0).toNat 3 && t.err.faultN && !t.rst.halted && (t.raise false 4 9 0x41 0 7).rst.halted) = true := by
  decide +kernel

/-- FullReset (R465, R466): each way in, release, and each pin that lets it go on. -/
theorem test_full_reset : (
    let held := { up with rst := { up.rst with step := 2, resetN := false } }
    let dark := { up with rst := { up.rst with step := 3, refclk := false } }
    let low := { up with rst := { up.rst with step := 2, railsLow := [2] } }
    let due := { up with err := { up.err with resetDue := some 0 } }
    gives .resetNAssert up (fun t => !t.live && t.rst.step == 2) && gives (.railUndervoltage 2) up (fun t => t.rst.railsLow == [2])
      && gives (.ctlReset 0x52530001) up (fun t => t.rst.step == 4) && gives (.ctlReset 0x52520001) up (fun t => t == up)
      && gives .fatalResetTimer due (fun t => t.rst.step == 4 && t.err.resetDue == none)
      && gives .resetNRelease held (fun t => t.rst.step == 4) && gives .refclk100Return dark (fun t => t.rst.step == 4)
      && gives .resetNRelease { held with rst := { held.rst with refclk := false } } (fun t => t.rst.step == 3)
      && gives .monitoredRailReturn low (fun t => t.rst.step == 4 && t.rst.railsLow == [])
      && gives (.clockLoss true) { up with rst := { up.rst with step := 4 } } (fun t => t.rst.step == 3 && !t.rst.refclk)
      && gives .resetNAssert { up with hbm := { up.hbm with owed := [(0, 3)], repair := [(1, 2)] } } (fun t => t.hbm == { mem := t.hbm.mem })
      && gives (.trstNChange false) held (fun t => !t.rst.trstLow)) = true := by decide +kernel

/-- IdleAdvancesTime (R381, R384): a time base set one ns before the second; RATE_ADJ 0. -/
theorem test_idle : (
    let s := up.setTb 7 ⟨5, 999999999 * 2 ^ 48, 0⟩
    s.live && s.rst.refclk && s.pending == [] && (s.tb 7).rem == 0
      && goes (step s) fun t => t.clock == 1 && t.tb 7 == ⟨6, 0, 0⟩) = true := by decide +kernel

/-- TimeBaseCommands, SET (R385): NS at its bound; with an edge selected the PPS forms wait; after SET_DONE a refusal. -/
theorem test_set : (
    let s := set up [(F.TIM_TB_SET_SEC.SEC, 3, 77), (F.TIM_TB_SET_NS.NS, 3, 999999999),
      (F.TIM_TB_SET_NS.FRAC, 3, 65535), (F.TIM_IN_CFG.EDGE, 0, 1), (F.TIM_IN_CFG.EDGE, 1, 1)]
    gives (.setNow 3) s (fun t => t.tb 3 == ⟨77, 999999999 * 2 ^ 48 + 65535 * 2 ^ 32, 0⟩ && t.isSet F.TIM_TB_STATUS.SET_DONE 3
        && gives (.setAtPps1 3) t fun u => u.get F.TIM_TB_STATUS.RESULT 3 == 1 && u.tim == t.tim)
      && s.ppsUsable 0 && s.ppsUsable 1 && gives (.setAtPps0 3) s (fun t => t.isSet F.TIM_TB_CMD.GO 3 && t.tim == s.tim)
      && gives (.setAtPps1 3) s (fun t => t.get F.TIM_TB_CMD.OP 3 == 3)) = true := by decide +kernel

/-- TimeBaseCommands, slew and reads (R387 to R389): an offset of −1; a latched nanosecond value; a snapshot. -/
theorem test_slew_read : (
    let s := (set up [(F.TIM_TB_STATUS.SET_DONE, 2, 1)]).setTb 2 ⟨9, 5 * 2 ^ 48, 0⟩
    let ended := { s with tim := { s.tim with slewDone := [(2, 4)] } }
    gives (.timTbSlewOffWrite 2 0xFFFFFFFFFFFF) s (fun t => t.tb 2 == ⟨9, 5 * 2 ^ 48, -(2 ^ 32)⟩
        && t.isSet F.TIM_TB_STATUS.SLEWING 2) && gives (.timTbSlewOffWrite 3 1) s (fun t => t == s)
      && gives (.slewDone 2) ended (fun t => t.tim.slewDone == [])
      && gives (.timTbNowSecRead 4 2) s (fun t => t.hart.resp == [(4, 9)]
        && gives (.timTbNowNsRead 4 2) (t.setTb 2 ⟨10, 0, 0⟩) fun u => u.hart.resp == [(4, 5 * 65536)])
      && gives (.timTbNowNsRead 4 2) s (fun t => t.hart.resp == [(4, 5 * 65536)])
      && gives .timXsnap s (fun t => t.get F.TIM_XSNAP_SEC.SEC 2 == 9 && t.get F.TIM_XSNAP_SEC.SEC 7 == 0)) = true := by
  decide +kernel

theorem test_seconds : ∀ t, (up.tb t).sec < 2 ^ 48 := fun _ => by show 0 < 2 ^ 48; decide

/-- TimePins, inputs (R397, R398): an edge exactly MIN_NS after the last; one ns sooner; the other polarity; 2 s. -/
theorem test_inputs : (
    let s := { set up [(F.TIM_IN_CFG.EDGE, 17, 1), (F.TIM_IN_CFG.MIN_NS, 17, 100), (F.TIM_IN_CFG.EDGE, 1, 3)] with
      clock := 2000000000, tim := { up.tim with lastEdge := [(17, 2000000001 - 100)] } }
    let late := { s with tim := { s.tim with lastEdge := [(17, 2000000001 - 99)] } }
    let waits := set s [(F.TIM_TB_CMD.GO, 7, 1), (F.TIM_TB_CMD.OP, 7, 3)]
    gives (.inputEdge 17 true 0) s (fun t => t.get F.TIM_IN_EVT_CNT.CNT 17 == 1 && t.tim.lastEdge == [(17, 2000000001)])
      && gives (.inputEdge 17 true 0) late (fun t => t.get F.TIM_IN_IGN_CNT.CNT 17 == 1 && t.tim == late.tim)
      && gives (.inputEdge 17 false 0) s (fun t => only s t [(.TIM_IN_STATUS, 17)] && t.get F.TIM_IN_STATUS.LEVEL 17 == 0)
      && waits.ppsUsable 1 && waits.awaitsPps 1 7
      && gives (.ppsLost 1) waits (fun t => t.isSet F.TIM_IN_STATUS.LOST 1 && !t.isSet F.TIM_TB_CMD.GO 7
        && t.get F.TIM_TB_STATUS.RESULT 7 == 2)) = true := by decide +kernel

/-- TimePins, accepted edges (R385, R397): a GPIO stamp to 1 ns, a PPS stamp a quarter back; a SET at the edge, 1/2 ns before. -/
theorem test_edges : (
    let b := { set up [(F.TIM_IN_CFG.EDGE, 17, 1), (F.TIM_IN_CFG.EDGE, 1, 3), (F.TIM_IN_STATUS.LOST, 1, 1)] with clock := 2000000000 }
    let s := b.setTb 0 ⟨5, 7 * 2 ^ 48 + 2 ^ 47, 0⟩
    let waits := set s [(F.TIM_TB_CMD.GO, 7, 1), (F.TIM_TB_CMD.OP, 7, 3), (F.TIM_TB_SET_SEC.SEC, 7, 40)]
    gives (.inputEdge 17 true 0) s (fun t => t.reg .TIM_IN_LAST_SEC 17 == 5 && t.reg .TIM_IN_LAST_NS 17 == 7 * 65536)
      && gives (.inputEdge 1 false 1) s (fun t => t.reg .TIM_IN_LAST_NS 1 == 7 * 65536 + 16384 && !t.isSet F.TIM_IN_STATUS.LOST 1
        && t.get F.TIM_IN_EVT_CNT.CNT 1 == 1)
      && waits.awaitsPps 1 7 && gives (.inputEdge 1 true 2) waits (fun t => t.isSet F.TIM_TB_STATUS.SET_DONE 7
        && !t.isSet F.TIM_TB_CMD.GO 7 && t.tb 7 == ⟨40, 2 ^ 47, 0⟩)) = true := by decide +kernel

/-- TimePins, outputs (R399): a period of 20 ns and a width of 19 and of 20; the rise and the fall. -/
theorem test_outputs : (
    let s := set up [(F.TIM_OUT_PERIOD.NS, 2, 20)]
    let on := { set s [(F.TIM_OUT_CFG.EN, 2, 1), (F.TIM_OUT_CFG.WIDTH_NS, 2, 19)] with tim := { up.tim with high := [(2, true)] } }
    gives (.timOutCfgWrite 2 (1 + 20 * 16)) s (fun t => t.isSet F.TIM_OUT_CFG.CFG_ERR 2 && !t.isSet F.TIM_OUT_CFG.EN 2)
      && gives (.timOutCfgWrite 2 (1 + 19 * 16)) s (fun t => !t.isSet F.TIM_OUT_CFG.CFG_ERR 2 && t.isSet F.TIM_OUT_CFG.EN 2)
      && gives (.outputRise 2) on (fun t => t.tim.fallAt == [(2, 19 * 65536)] && t.tim.nextRise == [(2, 20 * 65536)])
      && gives (.outputFall 2) on (fun t => t.tim.high == [])) = true := by decide +kernel

/-- TimePins, sources (R382, R383, R391): 9,989 edges lose the source, 9,990 do not; block lock lost; a pop. -/
theorem test_rate : (
    let s := set up [(F.TIM_TB_CFG.SRC, 7, 1), (F.TIM_TB_CFG.SRC, 0, 2), (F.TIM_TB_CFG.GRP, 0, 31)]
    let q := { s with tim := { s.tim with txq := [(255, [(1, 2), (3, 4)])] } }
    gives (.rateLockUpdate 7 9989 5) s (fun t => t.isSet F.TIM_TB_STATUS.SRC_LOST 7 && t.rateAdj 7 == 0)
      && gives (.rateLockUpdate 7 9990 64) s (fun t => !t.isSet F.TIM_TB_STATUS.SRC_LOST 7 && t.tim.tbs == [])
      && gives (.blockLock 31 false) s (fun t => t.isSet F.TIM_TB_STATUS.SRC_LOST 0 && !t.locked 31)
      && gives (.blockLock 31 true) s (fun t => t.locked 31)
      && gives (.timTxqPop 255 1) q (fun t => t.tim.txq == [(255, [(3, 4)])])) = true := by decide +kernel

/-! ## Accesses, ports, ingress, media encryption -/

/-- Fields of records set: record, field, value. -/
def recs (t : Tbl Word) (l : List (Nat × RecF × Nat)) : Tbl Word := l.foldl (fun t x => recSet t x.1 x.2.1 x.2.2) t

/-- A frame of 64 bytes, FCS included: IPv4, UDP from port 1000 to 2000, RTP with SSRC 0x11223344. -/
def rtpFrame : List Byte :=
  [0, 0, 0, 0, 0, 0, 0, 0, 0, 0, 0, 0, 8, 0, 69, 0, 0, 44, 0, 0, 0, 0, 64, 17, 102, 191, 10, 0, 0, 1, 10, 0, 0,
   2, 3, 232, 7, 208, 0, 24, 0, 0, 128, 96, 0, 1, 0, 0, 0, 0, 17, 34, 51, 68, 9, 9, 9, 9, 0, 0, 0, 0, 0, 0]

/-- Context i installed for rtpFrame's stream. -/
def installed (s : State) (i : Nat) : State :=
  match parseFrame (rtpFrame.take 60) with
  | .media rtcp u => { s with ing := { s.ing with
      installed := [(i, true)], keys := putWords [] 6 i 0 (keyOf (rtpFrame.take 60) rtcp u) } }
  | .malformed => s
  | .reason _ => s

/-- RegisterCodes: each register of the lists is found at its address, in a window that answers. -/
theorem test_register_places : ((plainRegs ++ clearingRegs).all fun r => regAt r.row.base == some (r, 0) && r.row.base % 8 == 0
    && decide (0x20000000 ≤ r.row.base ∧ r.row.base < 0x30000000) && up.answers r.row.base) = true := by decide +kernel

/-- RegisterCodes (R7, R8): a write sets RW bits and clears W1C bits written 1; a read clears an RC field. -/
theorem test_register_codes : (
    let s := set up [(F.CTL_RYU_PEND.PEND, 0, 7), (F.TM_BUF_PEAK.PEAK, 0, 9)]
    gives (.registerWrite 0 .m (Reg.row .CTL_RYU_PEND).base 8 5) s (fun t => t.get F.CTL_RYU_PEND.PEND 0 == 2)
      && gives (.rcRegisterRead 7 .m (Reg.row .TM_BUF_PEAK).base 8) s (fun t => t.hart.resp == [(7, 9)]
        && t.get F.TM_BUF_PEAK.PEAK 0 == 0)) = true := by decide +kernel

/-- AccessesAnswered (R5, R23 to R25, R403): each kind at a hole; widths and places at their bounds; a cell's bytes. -/
theorem test_accesses : (
    let s := { up with tm := { up.tm with buf := [(0x5FFFFFE, 0xAB), (0x5FFFFFF, 0xCD)] } }
    [AccessKind.fetch, .load, .store, .amo].all (fun k => up.refusesAccess k 0x40000 4)
      && gives (.errorResponseAccess 7 .fetch 0x40000 4) up (fun t => t.hart.cause == [(7, 1)] && t.hart.mtval == [(7, 0x40000)])
      && [0x20000000, 0x30FFFFFC, 0x3FFFC, 0x40000, 0xFFFFFC, 0x4000000000, 0x4005FFFFFC].all (fun a =>
        gives (.registerWrite 0 .m a 4 1) up fun t => t.hart.cause == [(0, 7)] && t.hart.mtval == [(0, wd a)])
      && [0x20000000, 0x40000].all (fun a => gives (.rcRegisterRead 0 .m a 4) up fun t => t.hart.cause == [(0, 5)])
      && !up.refusesAccess .amo 0x08000002 4 && gives (.errorResponseAccess 0 .amo 0x08000002 4) up (fun t => t.hart.cause == [(0, 6)])
      && gives (.packetBufferDebugRead 0 0x4000000001 2) up (fun t => t.hart.cause == [(0, 5)])
      && gives (.packetBufferDebugRead 0 0x4005FFFFFE 2) s (fun t => t.hart.resp == [(0, 0xCDAB)])) = true := by decide +kernel

/-- ScratchStoreLoad: the last byte of the range, and a doubleword. -/
theorem test_scratch : (up.ctl.poisoned == [] && gives (.registerWrite 3 .s 0x080FFFFF 1 0x1FF) up (fun t =>
    t.ctl.scratch == [(0xFFFFF, 0xFF)] && gives (.rcRegisterRead 3 .s 0x080FFFFF 1) t fun u => u.hart.resp == [(3, 0xFF)])
      && gives (.registerWrite 3 .s 0x08000000 8 (2 ^ 63)) up (fun t => t.ctl.scratch == [(7, 0x80)])) = true := by decide +kernel

/-- PortSetup (R33, R34, R150): a listed pair on idle lanes; one that is not listed; a lane in use; a length below its
bound; a queue released. -/
theorem test_ports : (
    let used := set up [(F.PRT_PORT_CFG.TX_EN, 255, 1)]
    let q := { used with tm := { used.tm with queues := [(2047, [{ depth := 1 }])] } }
    up.isPort 255 && gives (.prtGrpCfgWrite 31 0x10) up (fun t => t.get F.PRT_GRP_CFG.LANE_RATE 31 == 1
        && !t.isSet F.PRT_GRP_CFG.CFG_ERR 31) && gives (.prtGrpCfgWrite 31 0x11) up (fun t => t.isSet F.PRT_GRP_CFG.CFG_ERR 31)
      && gives (.prtGrpCfgWrite 31 0x10) used (fun t => t.isSet F.PRT_GRP_CFG.CFG_ERR 31)
      && gives (.prtPortCfgWrite 255 (1517 * 64 + 2)) used (fun t => t.get F.PRT_PORT_CFG.MAX_LEN 255 == 1518)
      && gives (.prtPortCfgWrite 255 (9217 * 64)) up (fun t => t.get F.PRT_PORT_CFG.MAX_LEN 255 == 9216)
      && gives (.prtPortCfgWrite 255 0) q (fun t => t.tm.queues == [])) = true := by decide +kernel

/-- FrameArrives (R34, R36): each case at its bound. -/
theorem test_mac : (
    let s := set up [(F.PRT_PORT_CFG.RX_EN, 255, 1)]
    let z (n : Nat) : List Byte := List.replicate n 0
    let counts (bytes : List Byte) (fcs : FcsCheck) (f : RFld) := gives (.frameArrival 255 bytes fcs) s fun t => t.get f 255 == 1
    let full := { s with ing := { s.ing with fifo := [(31, [⟨248, z 32705, .good, 0⟩])] } }
    gives (.frameArrival 254 rtpFrame .good) s (fun t => t == s) && counts (z 63) .good F.PRT_RX_RUNT_CNT.CNT
      && counts (z 1519) .good F.PRT_RX_OVERSIZE_CNT.CNT && counts (z 1518) .badEarly F.PRT_RX_FCS_CNT.CNT
      && counts (z 12 ++ [0x88, 8] ++ z 50) .good F.PRT_RX_PAUSE_CNT.CNT
      && gives (.frameArrival 255 rtpFrame .good) s (fun t => (t.fifo 31).length == 1 && t.get F.PRT_RX_OCT_CNT.CNT 255 == 64)
      && gives (.frameArrival 255 rtpFrame .good) full (fun t => t.get F.PRT_GRP_RX_OVF_CNT.CNT 31 == 1
        && (t.fifo 31).length == 1)) = true := by decide +kernel

/-- PipelineTakes (R40, R44, R55 to R57): an idle slot; a malformed frame; a miss; a policed stream without tokens; the
scrub's refill. -/
theorem test_pipeline : (
    let s := { up with ing := { up.ing with fifo := [(31, [⟨248, rtpFrame, .good, 0⟩])] } }
    let bad := { up with ing := { up.ing with fifo := [(31, [⟨248, rtpFrame.set 24 0, .good, 0⟩])] } }
    let t0 := installed s 5
    let poor := { t0 with ing := { t0.ing with recs := recs [] [(5, Ctx.POL_EN, 1)] } }
    let scrub := { poor with clock := 5, ing := { poor.ing with scrub := 5, recs := recs [] [(5, Ctx.POL_EN, 1), (5, Ctx.POL_BURST, 1),
      (5, Ctx.POL_RATE, 2 ^ 30), (5, Ctx.TOKENS, 7)] } }
    up.nextGroup 7 == none && gives (.pipelineSlot 7) up (fun t => t.regs == up.regs && t.tm == up.tm)
      && s.nextGroup 7 == some 3 && gives (.pipelineSlot 7) bad (fun t => t.get F.ING_PORT_PARSE_DROP_CNT.CNT 248 == 1)
      && gives (.pipelineSlot 7) s (fun t => t.get F.ING_PORT_MISS_CNT.CNT 248 == 1 && t.fifo 31 == [])
      && gives (.pipelineSlot 7) poor (fun t => recGet t.ing.stats 5 Ctx.MATCHED == 1 && recGet t.ing.stats 5 Ctx.OCTETS == 64
        && recGet t.ing.stats 5 Ctx.DROPPED == 1 && t.tm == poor.tm)
      && gives .policerScrub scrub (fun t => t.ctx 5 Ctx.TOKENS == 2 ^ 32 && t.ing.scrub == 6)) = true := by decide +kernel

/-- ContextCommands (R46, R47, R49): each result. -/
theorem test_contexts : (
    let s := put up [(.ING_CTX_DATA, 1, 4), (.ING_CTX_DATA, 7, 3 * 2 ^ 32)]
    let last := 2 ^ 20 - 1
    let r (c : Instr) (s : State) (k : Nat) := gives c s fun t => t.get F.ING_CTX_STATUS.RESULT 0 == k
    let here := { s with ing := { s.ing with installed := [(last, true)], keys := [(last * 6 + 1, 4)] } }
    gives (.install last) s (fun t => t.inst last && t.ctx last Ctx.GEN == 1 && t.ctx last Ctx.TOKENS == 3 * 2 ^ 32
        && recWords t.ing.keys 6 last == [0, 4, 0, 0, 0, 0]) && r (.install last) up 5 && r (.install last) here 1
      && r (.install 0) here 3 && r (.remove last) here 0 && r (.update last) here 0
      && [Instr.remove 0, .update 0, .read 0, .readStats 0].all (fun c => r c here 2)
      && gives (.read last) here (fun t => t.reg .ING_CTX_DATA 1 == 4) && r (.readStats last) here 0) = true := by decide +kernel

/-- A packet of stream 5, generation 0, whose frame check and authentication are open. -/
def open5 (verdict : Nat) : Pkt :=
  { tag := [5, 0, 0, 0], cells := [7], holds := 1, l4 := 0, pay := 0, extSeq := 3, extTs := 0, fcsOpen := true, authOpen := true
    srtp := { suite := 1, index := 2 ^ 48 - 1, verdict := verdict, replayOn := true } }

/-- FailedPacketEnds, AuthenticPacketOnce (R37, R82, R84): a copy in transmission, one queued and a cart; the last index. -/
theorem test_packets : (
    let s := installed up 5
    let f : QFrame := { pkt := some 9, depth := 1 }
    let st (v : Nat) := { s with
      tm := { s.tm with pkts := [(9, some (open5 v))], used := [7], queues := [(3, [f, { depth := 1 }])], tx := [(1, some { queue := 0, frame := f, bytes := [], t0 := 0, t1 := 0 })] }
      fwd := { s.fwd with queue := [(2, [⟨[], 9, false, 0⟩])] }
      srt := { s.srt with inRec := recs [] [(5, SIn.REPLAY_EN, 1)] } }
    (st 0).staleGen (open5 0) == false && (st 0).isReplay 5 true (2 ^ 48 - 1) == false
      && gives (.frameFcsFail 9) (st 0) (fun t => t.get F.PRT_RX_FCS_CNT.CNT 0 == 1 && (t.queue 0 3).all (fun f => f.pkt == none)
        && t.workQueue 2 == [])
      && gives (.authVerdict 9) (st 1) (fun t => t.get F.SRT_IN_AUTH_FAIL_CNT.CNT 0 == 1 && t.sin 5 SIn.FAIL_CNT == 1
        && (t.queue 0 3).all (fun f => f.pkt == none) && t.workQueue 2 == [])
      && gives (.authVerdict 9) { st 0 with tm := { (st 0).tm with pkts := [(9, some { open5 0 with short := true })] } } (fun t =>
        t.get F.TM_BUF_EXH_CNT.CNT 0 == 1 && t.workQueue 2 == [])
      && gives (.authVerdict 9) { st 0 with err := { (st 0).err with poison := [(1, 5, 0)] } } (fun t =>
        t.get F.FWD_STALE_CNT.CNT 0 == 1 && t.workQueue 2 == [])
      && gives (.authVerdict 9) (st 0) (fun t => t.sin 5 SIn.AUTH_VALID == 1 && t.sin 5 SIn.AUTH_IDX == 2 ^ 48 - 1
        && t.isReplay 5 true (2 ^ 48 - 1))) = true := by decide +kernel

/-- StreamKeys (R69 to R74): the last key set and records, each refusal. -/
theorem test_keys : (
    let s := put up [(.SRT_DATA, 0, 6), (.SRT_DATA, 10, 9)]
    let bad := put up [(.SRT_DATA, 0, 7)]
    let k := { up with srt := { up.srt with keys := recs [] [(0, Key.VALID, 1)] } }
    let r (c : Instr) (s : State) (n : Nat) := gives c s fun t => t.get F.SRT_STATUS.RESULT 0 == n
    gives (.keyWrite 262143) s (fun t => t.key 262143 Key.VALID == 1 && t.key 262143 Key.SUITE == 6
        && t.key 262143 Key.LIFE_LIMIT == 9) && r (.keyWrite 0) bad 2 && gives (.keyErase 0) k (fun t => t.srt.keys == [])
      && gives (.keyRead 0) k (fun t => t.reg .SRT_DATA 0 == 128)
      && [Instr.keyWrite 262144, .keyErase 262144, .keyRead 262144].all (fun c => r c up 1)
      && [Instr.inInit 1048575, .inUpdate 0, .inRead 0, .outInit 131071, .outUpdate 0, .outRead 0].all (fun c => r c k 0)
      && [Instr.inInit 0, .inUpdate 0, .outInit 0, .outUpdate 0].all (fun c => r c up 3)
      && [Instr.outInit 131072, .outUpdate 131072, .outRead 131072].all (fun c => r c k 1)) = true := by decide +kernel

/-! ## Forwarding, carriages, transmission -/

/-- HBM of one pseudo-channel in service; IOVAs 0 to 2 MiB − 1 of domain 0 are cached as the first bytes of HBM. -/
def hbmUp (s : State) : State :=
  { set s [(F.HBM_STATUS.NPC, 0, 1), (F.HBM_PC_MASK.MASK, 0, 1), (F.HBM_PC_STATE.STATE, 0, 2), (F.HBM_CTL.EN, 0, 1)] with
    iom := { s.iom with cache := [⟨0, 2, 0, wd (2 ^ 40 + 15)⟩] } }

/-- HBM bytes set from offset o. -/
def bytes (s : State) (o : Nat) (bs : List Byte) : State :=
  { s with hbm := { s.hbm with mem := Tbl.putList 0 s.hbm.mem o bs } }

/-- PipelineTakes, stored packets (R51 to R58, 05 R152): rtpFrame of context 5, alone and injected, where the buffer has room;
the cell taken is a free value, so what is stored is for the proof. -/
theorem test_stored : (
    let t0 := installed up 5
    let s := { t0 with ing := { t0.ing with fifo := [(31, [⟨248, rtpFrame, .good, 0⟩])] } }
    let j := { t0 with ing := { t0.ing with injq := [(7, [⟨5, (rtpFrame.take 58).drop 42, wd (2 ^ 19 + 9 * 2 ^ 4)⟩])] } }
    let found := match parseFrame (rtpFrame.take 60) with
      | .media false u => s.findKey (keyOf (rtpFrame.take 60) false u) == some 5 && decide (u.off + u.len ≤ 60)
      | _ => false
    found && s.live && s.free && s.nextGroup 7 == some 3 && Tbl.at [] s.ing.injq 7 == [] && !s.poisoned 0 5 && !s.poisoned 1 5
      && s.ctx 5 Ctx.POL_EN == 0 && s.sin 5 SIn.NEXT_VALID == 0 && s.key (s.sin 5 SIn.KSID) Key.SUITE == 0
      && decide (s.occ < s.get F.TM_BUF_THR.THR (s.ctx 5 Ctx.DCLASS) ∧ s.occ + 1 ≤ cellCount)
      && j.nextGroup 7 == none && j.inst 5 && !j.poisoned 0 5) = true := by decide +kernel

/-- PipelineTakes, frames delivered (R59 to R62): an ARP frame, reason 1, in a ring of one free buffer of 256 bytes, and in a ring
that is off. -/
theorem test_delivered : (
    let arp : List Byte := List.replicate 12 1 ++ [8, 6] ++ List.replicate 50 2
    let b := bytes (hbmUp up) 0 (leBytes 8 4096)
    let f (s : State) := { s with ing := { s.ing with fifo := [(31, [⟨248, arp, .good, 0⟩])] } }
    let s := set (f b) [(F.ING_RING_CFG.EN, 0, 1), (F.ING_RING_CFG.LOG2_SIZE, 0, 6), (F.ING_RING_CFG.BUFSZ, 0, 1),
      (F.ING_RING_TAIL.TAIL, 0, 1)]
    let c := s.rxRing (.media 0)
    readyCheck s && decide (parseFrame (arp.take 60) = .reason 1) && s.get F.ING_RING_MAP.RING 1 == 0 && s.nextGroup 7 == some 3
      && decide (s.occ < s.get F.TM_BUF_THR.THR (s.get F.ING_PORT_CFG.DCLASS_DEF 248)) && s.ing.ringWait == []
      && c.en && c.head % c.size != c.tail % c.size && c.bufsz == 256 && !((f b).rxRing (.media 0)).en) = true := by decide +kernel

/-- Source 5 leads itself and forwards. -/
def lead5 (s : State) : State :=
  let t := installed s 5
  { t with fwd := { t.fwd with src := recs [] [(5, FSrc.FWD_EN, 1), (5, FSrc.LEAD_SCID, 5)] } }

/-- ForwardingTables, sources and rule blocks (R102, R118, R131): each result. -/
theorem test_sources : (
    let l := lead5 up
    let r (c : Instr) (s : State) (k : Nat) := gives c s fun t => t.get F.FWD_STATUS.RESULT 0 == k
    let w := put l [(.FWD_DATA, 0, wd (2 ^ 63 + 5 * 2 ^ 43)), (.FWD_DATA, 2, wd (200 * 2 ^ 56))]
    let rb := put up [(.FWD_DATA, 0, wd (2 ^ 48 + 1))]
    l.leaderOk 5 && gives (.srcWrite 5) w (fun t => t.src 5 FSrc.FB_MIN == 200 && t.src 5 FSrc.LEAD_SCID == 5)
      && r (.srcWrite 5) (put l [(.FWD_DATA, 0, wd (6 * 2 ^ 43))]) 3 && r (.srcWrite 6) w 2 && r (.srcRead 6) w 2
      && gives (.srcRead 5) l (fun t => t.reg .FWD_DATA 0 == wd (2 ^ 63 + 5 * 2 ^ 43))
      && gives (.rbLoad 255) rb (fun t => recWord t.fwd.rules 16 255 0 == wd (2 ^ 48 + 1)) && r (.rbLoad 255) up 5
      && r (.rbRead 255) up 0 && [Instr.rbLoad 0, .rbRead 256].all (fun c => r c rb 7)) = true := by decide +kernel

/-- ForwardingTables, conferences (R104, R106): three slots of eight kept; the last conference and the next index. -/
theorem test_conferences : (
    let s := put { up with fwd := { up.fwd with slots := [(16383 * 8 + 2, some ⟨1, 2, 3⟩), (16383 * 8 + 3, some ⟨4, 5, 6⟩)] } }
      [(.FWD_DATA, 0, wd (2 ^ 63 + 2 * 2 ^ 60 + 63 * 64))]
    let r (c : Instr) (s : State) (k : Nat) := gives c s fun t => t.get F.FWD_STATUS.RESULT 0 == k
    gives (.confWrite 16383) s (fun t => t.conf 16383 Conf.EVQ == 63 && t.slotAt 16383 2 == some ⟨1, 2, 3⟩ && t.slotAt 16383 3 == none)
      && gives (.talkerClear 16383) s (fun t => t.fwd.slots == []) && r (.confRead 16383) s 0
      && [Instr.confWrite 16384, .confRead 16384, .talkerClear 16384].all (fun c => r c s 7)
      && gives .talkerSweep { s with fwd := { s.fwd with slots := [(0, some ⟨1, 0, 0⟩)] } } (fun t =>
        t.slotAt 0 0 == some ⟨1, 0, 0⟩)) = true := by decide +kernel

/-- Subscriptions (R111, R115, R131, R133): the last subscription, each result. -/
theorem test_subscriptions : (
    let l := lead5 up
    let i := 2 ^ 20 - 1
    let r (c : Instr) (s : State) (k : Nat) := gives c s fun t => t.get F.FWD_STATUS.RESULT 0 == k
    let w := put l [(.FWD_DATA, 0, wd (1 * 2 ^ 25 + 3 * 2 ^ 20 + 2 * 2 ^ 17)), (.FWD_DATA, 1, wd (9 * 2 ^ 32)), (.FWD_DATA, 4, 5)]
    let v := { w with fwd := { w.fwd with sub := recs [] [(i, FSub.VALID, 1)], leadOf := [(i, 5)], lists := [(45, [7, i])] } }
    let j : Job := ⟨9, 5, [], [], [⟨i, 0, [], 0, 0, 0, 0⟩]⟩
    gives (.subAdd i) w (fun t => t.sub i FSub.VALID == 1 && t.sub i FSub.OUT_SSRC == 9 && t.sub i FSub.KF_WAIT == 1
        && t.sub i FSub.CUR_SL == 1 && t.sub i FSub.CUR_TL == 0 && t.fwd.lists == [(45, [i])] && t.src 5 FSrc.SUBS == 1)
      && r (.subAdd i) v 1 && r (.subAdd i) up 3 && [Instr.subUpdate 0, .subRemove 0, .subRead 0].all (fun c => r c v 2)
      && gives (.subUpdate i) v (fun t => t.sub i FSub.MAX_SL == 1 && t.get F.FWD_STATUS.RESULT 0 == 0)
      && r (.subUpdate i) (put v [(.FWD_DATA, 0, wd (2 ^ 44))]) 6
      && gives (.subRemove i) v (fun t => t.isSet F.FWD_CMD.GO 0 && t.fwd.lists == [(45, [7])] && t.fwd.removing == some ⟨i, []⟩)
      && r (.subRead i) v 0 && gives .subRemoveDone { v with fwd := { v.fwd with removing := some ⟨i, []⟩ } } (fun t =>
        !t.isSet F.FWD_CMD.GO 0 && t.fwd.removing == none)
      && gives .subRemoveDone { v with fwd := { v.fwd with removing := some ⟨i, [(3, 9)]⟩, jobs := [(3, [j])] } } (fun t =>
        t.fwd.removing == some ⟨i, [(3, 9)]⟩)) = true := by decide +kernel

/-- ForwardingDecides (R98, R99, R130): a stale packet, one with no destination, one decided already; hints at 100 ms. -/
theorem test_decisions : (
    let at_ (s : State) (p : Pkt) := { s with tm := { s.tm with pkts := [(9, some p)] } }
    let p := open5 0
    let l := lead5 up
    let sub := { l with
      fwd := { l.fwd with src := recs l.fwd.src [(5, FSrc.LADDER, 1), (5, FSrc.ENC, 31)], sub := recs [] [(7, FSub.VALID, 1)], lists := [(45, [7])] } }
    let soon := { sub with clock := 100000000, fwd := { sub.fwd with hintTime := [(5, 2)] } }
    let due := { sub with clock := 100000000, fwd := { sub.fwd with hintTime := [(5, 1)] } }
    gives (.forwardingDecision 9) (at_ up p) (fun t => t.get F.FWD_STALE_CNT.CNT 0 == 1)
      && gives (.forwardingDecision 9) (at_ (installed up 5) p) (fun t => t.get F.FWD_NODEST_CNT.CNT 0 == 1 && t.fwd == up.fwd)
      && gives (.forwardingDecision 9) (at_ l { p with decided := true }) (fun t => t.regs == l.regs && t.fwd == l.fwd)
      && gives (.subscriptionDecision 15) up (fun t => t == up) && sub.rungs 5 == [1, 0, 0]
      && [sub, due].all (fun s => gives (.rateHint 5) s fun t => (t.hint (31 * 256)).counts == [1, 0, 0])
      && gives (.rateHint 5) soon (fun t => t == soon)) = true := by decide +kernel

/-- ReplicationStep (R93, R100, R121): in KF_WAIT and outside the operating point a copy is dropped; at rest it opens the
output. -/
theorem test_replication : (
    let l := lead5 up
    let st (p : Pkt) (wait : Nat) := { l with
      tm := { l.tm with pkts := [(9, some { p with jobs := 1 })] }
      fwd := { l.fwd with sub := recs [] [(7, FSub.VALID, 1), (7, FSub.KF_WAIT, wait), (7, FSub.OUT_EXT, 2 ^ 48 - 1)]
                          jobs := [(15, [⟨9, 5, recWords l.fwd.src 4 5, recWords l.ing.recs 8 5, [⟨7, 0, [], 0, 0, 0, 0⟩]⟩])] } }
    let tl1 := (open5 0).set Tag.TL 1
    (l.seen tl1 5).inside 0 0 == false && (l.seen tl1 5).spatial == false && (l.seen (open5 0) 5).inside 0 0
      && [0, 1].all (fun w => gives (.subscriptionDecision 15) (st tl1 w) fun t => t.get F.FWD_SEL_DROP_CNT.CNT 7 == 1
        && t.sub 7 FSub.KF_WAIT == w && t.fwd.jobs == [])
      && gives (.subscriptionDecision 15) (st (open5 0) 0) (fun t => t.sub 7 FSub.OUT_VALID == 1 && t.sub 7 FSub.CUR_SCID == 5
        && t.sub 7 FSub.LAST_IN == 3 && t.sub 7 FSub.OUT_EXT == 0 && t.get F.FWD_COPY_CNT.CNT 7 == 1)) = true := by decide +kernel

/-- ForwardingTables, the sweep (R107): a talker 5 ms old under IDLE_4MS 1 goes with its notice, one 4 ms old stays. -/
theorem test_sweep : (
    let s := { up with clock := 5000000
                       fwd := { up.fwd with slots := [(0, some ⟨1, 0, 0⟩), (1, some ⟨2, 0, 1⟩)]
                                            conf := recs [] [(0, Conf.EN, 1), (0, Conf.NM1, 1), (0, Conf.IDLE_4MS, 1), (0, Conf.NOTICE_EN, 1)] } }
    s.since16 0 == 5 && gives .talkerSweep s (fun t => t.slotAt 0 0 == none && t.slotAt 0 1 == some ⟨2, 0, 1⟩
      && (Tbl.at [] t.ctl.crossing 4).length == 1)) = true := by decide +kernel

/-- ForwardingDecides, jobs and talkers (R99, R100, R105, R108): a job on walker 0; a score that enters the free slot; the
quietest talker challenged, then replaced; a talker that holds its slot; a talker cart. -/
theorem test_talkers : (
    let l := lead5 up
    let loud := ((open5 0).set Tag.LVL_VALID 1).set Tag.LEVEL 27
    let st (p : Pkt) (f : List (Nat × RecF × Nat)) (slots : Tbl (Option Talker)) := { l with
      clock := 50000000
      tm := { l.tm with pkts := [(9, some p)] }
      ing := { l.ing with recs := recs [] [(5, Ctx.SCREEN, 1)], score := [(6, 5 * 256)] }
      fwd := { l.fwd with conf := recs [] ([(0, Conf.EN, 1), (0, Conf.MIN_SCORE, 50), (0, Conf.IDLE_4MS, 255)] ++ f), slots := slots } }
    let full := [(0, some (Talker.mk 6 0 0))]
    let challenged := st loud [(0, Conf.ENTER_MS, 50), (0, Conf.HYST, 1)] full
    let sent := { l with tm := { l.tm with pkts := [(9, some (open5 0))] }
                         fwd := { l.fwd with lists := [(45, [7]), (53, [8])], sub := recs [] [(7, FSub.VALID, 1), (8, FSub.VALID, 1)] } }
    let cart := { sent with
      fwd := { sent.fwd with
        src := recs sent.fwd.src [(5, FSrc.TALKER_CART, 1)], conf := recs [] [(0, Conf.EN, 1)], slots := [(0, some ⟨5, 0, 0⟩)] } }
    let run (s : State) := gives (.forwardingDecision 9) s
    run sent (fun t => (Tbl.at [] t.fwd.jobs 0).map (fun j => j.subs.map JobSub.sbid) == [[7]]
        && (Tbl.at [] t.fwd.jobs 8).map (fun j => j.subs.map JobSub.sbid) == [[8]] && (Tbl.at [] t.fwd.jobs 1).length == 0)
      && run (st loud [] []) (fun t => t.score 5 == 25600 && t.slotAt 0 0 == some ⟨5, 50, 50⟩)
      && run (st (open5 0) [] []) (fun t => t.score 5 == 0 && t.slotAt 0 0 == none)
      && run challenged (fun t => Tbl.at none t.ing.ch 5 == some 50 && t.slotAt 0 0 == some ⟨6, 0, 0⟩)
      && run { challenged with ing := { challenged.ing with ch := [(5, some 0)] } } (fun t =>
        t.slotAt 0 0 == some ⟨5, 50, 50⟩ && Tbl.at none t.ing.ch 5 == none)
      && run (st loud [] [(0, some ⟨5, 3, 4⟩)]) (fun t => t.slotAt 0 0 == some ⟨5, 3, 50⟩)
      && run cart (fun t => (t.workQueue 0).length == 1 && t.get F.FWD_CART_CNT.CNT 0 == 1)) = true := by decide +kernel

/-- ReplicationStep, order and keyframes (R119 to R121): gaps of 1 and of 100; late packets; the end of a wait at S0 and in a
simulcast group; a raise toward what is pending. -/
theorem test_replication_order : (
    let l := lead5 up
    let word := recWord (recs [] [(7, FSub.MAX_SL, 3), (7, FSub.MAX_TL, 7)]) 8 7 0
    let run (p : Pkt) (ctx : List (Nat × RecF × Nat)) (f : List (RecF × Nat)) (q : State → Bool) := gives (.subscriptionDecision 15)
      { l with
        tm := { l.tm with pkts := [(9, some { p with jobs := 1 })] }
        ing := { l.ing with recs := recs [] ctx }
        fwd := { l.fwd with
          sub := recs [] (f.map fun x => (7, x))
          jobs := [(15, [⟨9, 5, recWords l.fwd.src 4 5, recWords l.ing.recs 8 5, [⟨7, word, [], 0, 0, 0, 0⟩]⟩])] } }
      fun t => t.fwd.jobs == [] && q t
    let p (e : Nat) := { open5 0 with extSeq := e }
    let layer (sl swp : Nat) := (((p 3).set Tag.LAYER_VALID 1).set Tag.SL sl).set Tag.SWP swp
    let opened (last seen : Nat) := [(FSub.OUT_VALID, 1), (FSub.CUR_SCID, 5), (FSub.LAST_IN, last), (FSub.SEEN, seen), (FSub.OUT_EXT, 40)]
    run (p 12) [] (opened 10 1) (fun t => t.sub 7 FSub.OUT_EXT == 42 && t.sub 7 FSub.LAST_IN == 12 && t.sub 7 FSub.SEEN == 5)
      && run (p 111) [] (opened 10 1) (fun t => t.sub 7 FSub.OUT_EXT == 105)
      && run (p 9) [] (opened 40 1) (fun t => t.sub 7 FSub.OUT_EXT == 40 && t.sub 7 FSub.SEEN == 2 ^ 31 + 1 && t.get F.FWD_COPY_CNT.CNT 7 == 1)
      && run (p 8) [] (opened 40 1) (fun t => t.get F.FWD_LATE_DROP_CNT.CNT 7 == 1 && t.get F.FWD_COPY_CNT.CNT 7 == 0)
      && run (layer 0 1) [] [(FSub.KF_WAIT, 1), (FSub.CUR_SL, 2), (FSub.CUR_TL, 1)] (fun t => t.sub 7 FSub.KF_WAIT == 0
        && t.sub 7 FSub.CUR_SL == 0 && t.sub 7 FSub.PEND_VALID == 1 && t.sub 7 FSub.PEND_SL == 2 && t.sub 7 FSub.PEND_TL == 1)
      && run (layer 2 1) [(5, Ctx.SL_FIXED_EN, 1)] [(FSub.KF_WAIT, 1), (FSub.CUR_SL, 2)] (fun t => t.sub 7 FSub.KF_WAIT == 0)
      && run (layer 1 1) [(5, Ctx.SL_FIXED_EN, 1)] [(FSub.KF_WAIT, 1), (FSub.CUR_SL, 2)] (fun t => t.sub 7 FSub.KF_WAIT == 1)
      && run (layer 1 1) [] [(FSub.PEND_VALID, 1), (FSub.PEND_SL, 1)] (fun t => t.sub 7 FSub.CUR_SL == 1
        && t.sub 7 FSub.PEND_VALID == 0 && t.get F.FWD_UP_CNT.CNT 7 == 1)) = true := by decide +kernel

/-- ReplicationStep, rules and kinds (R112, R113, R118, R119, R125): each action at its bound; RTCP; MIX_FOLLOW; DECODE. -/
theorem test_replication_rules : (
    let l := lead5 up
    let run (kind rtcpFwd act : Nat) (p : Pkt) (f : List (RecF × Nat)) (q : State → Bool) := gives (.subscriptionDecision 15)
      { l with
        clock := 9000000
        tm := { l.tm with pkts := [(9, some { p with jobs := 1 })] }
        fwd := { l.fwd with
          sub := recs [] (f.map fun x => (7, x))
          jobs := [(15, [⟨9, 5, recWords (recs l.fwd.src [(5, FSrc.MIXROLE, 1)]) 4 5, recWords l.ing.recs 8 5,
            [⟨7, recWord (recs [] [(7, FSub.KIND, kind), (7, FSub.MAX_SL, 3), (7, FSub.MAX_TL, 3), (7, FSub.RTCP_FWD, rtcpFwd)]) 8 7 0,
              if act = 0 then [] else [1, wd (act * 2 ^ 12)], 0, 0, 0, 0⟩]⟩])] } }
      fun t => t.fwd.jobs == [] && q t
    let p := ((open5 0).set Tag.LAYER_VALID 1).set Tag.TL 0
    let at_ (sl tl : Nat) := [(FSub.CUR_SL, sl), (FSub.CUR_TL, tl)]
    let cur (t : State) (sl tl : Nat) := t.sub 7 FSub.CUR_SL == sl && t.sub 7 FSub.CUR_TL == tl
    run 0 0 1 p (at_ 2 1) (fun t => cur t 2 0 && t.sub 7 FSub.T_DOWN == 9 && t.get F.FWD_DOWN_CNT.CNT 7 == 1)
      && run 0 0 1 p (at_ 2 0) (fun t => cur t 1 0) && run 0 0 2 p (at_ 2 1) (fun t => cur t 1 1)
      && run 0 0 3 p (at_ 2 1) (fun t => cur t 0 0) && run 0 0 3 p (at_ 0 0) (fun t => t.get F.FWD_DOWN_CNT.CNT 7 == 0)
      && run 0 0 4 p (at_ 2 1) (fun t => t.sub 7 FSub.PEND_SL == 2 && t.sub 7 FSub.PEND_TL == 2 && t.sub 7 FSub.PEND_VALID == 1)
      && run 0 0 4 p (at_ 2 3) (fun t => t.sub 7 FSub.PEND_SL == 3 && t.sub 7 FSub.PEND_TL == 3)
      && run 0 0 5 p (at_ 2 1) (fun t => t.sub 7 FSub.PEND_SL == 3 && t.sub 7 FSub.PEND_TL == 1)
      && run 0 0 4 p ((FSub.SUSP, 1) :: at_ 2 1) (fun t => t.sub 7 FSub.SUSP == 0 && t.sub 7 FSub.KF_WAIT == 1 && cur t 0 0)
      && run 0 0 6 p (at_ 2 1) (fun t => t.sub 7 FSub.SUSP == 1 && t.get F.FWD_SEL_DROP_CNT.CNT 7 == 1)
      && run 0 0 7 p (at_ 2 1) (fun t => cur t 2 1 && t.get F.FWD_SEL_DROP_CNT.CNT 7 == 1)
      && [1, 0].all (fun r => run 0 r 0 (p.set Tag.RTCP 1) [(FSub.OUT_VALID, 1)] fun t => t.get F.FWD_COPY_CNT.CNT 7 == r)
      && run 2 0 0 p [] (fun t => t.sub 7 FSub.OUT_VALID == 1)
      && run 1 0 0 (p.set Tag.SL 3) (at_ 3 3) (fun t => (t.workQueue 0).length == 1)
      && run 1 0 0 (p.set Tag.TL 4) (at_ 3 3) (fun t => t.get F.FWD_SEL_DROP_CNT.CNT 7 == 1)) = true := by decide +kernel

/-- CarriageCommands (R135 to R145): the last carriage; a reserved bit. -/
theorem test_carriages : (
    let c := 131071
    let s := { put up [(.TM_DATA, 0, wd (2 ^ 63 + 2 ^ 50)), (.TM_DATA, 9, wd (3 * 2 ^ 32))] with
      tm := { up.tm with scrub := c, car := recs [] [(c, Car.SHP_EN, 1), (c, Car.BURST, 2)] } }
    let r (i : Instr) (s : State) (k : Nat) := gives i s fun t => t.get F.TM_STATUS.RESULT 0 == k
    gives (.carInit c) s (fun t => t.tokens c == 3 * 2 ^ 32 && t.car c Car.EN == 1) && r (.carUpdate c) s 0
      && [Instr.carInit c, .carUpdate c].all (fun i => r i (put s [(.TM_DATA, 0, 1)]) 1)
      && gives (.tokenReset c) s (fun t => t.tokens c == 2 * 2 ^ 32) && r (.carRead c) s 0 && r (.carStats c) s 0
      && gives .shaperScrub s (fun t => t.tm.scrub == 0 && t.tokens c ≤ 2 * 2 ^ 32)) = true := by decide +kernel

/-- Transmission, selection and end (R147, R148): the head of queue 3; a frame of 10 bytes counts 64; a verdict open. -/
theorem test_transmit : (
    let f : QFrame := { body := List.replicate 10 1, ring := true, cells := [4], depth := 1 }
    let q := { up with tm := { up.tm with used := [4], queues := [(255 * 8 + 3, [f, f])] } }
    let x : TxFrame := { queue := 3, frame := f, bytes := padFrame f.body, t0 := 0, t1 := 0 }
    let busy := { up with tm := { up.tm with used := [4, 5], tx := [(255, some x)] } }
    let waits := { up with tm := { up.tm with pkts := [(9, some (open5 0))], tx := [(255, some { x with frame := { f with pkt := some 9 } })] } }
    gives (.transmitSelection 255) q (fun t => (t.sending 255).map (fun y => y.bytes) == some (padFrame f.body) && t.queue 255 3 == [f]
        && (t.sending 255).map (fun y => y.t1) == some (q.lineTime 255 64))
      && gives (.transmitSelection 255) busy (fun t => t == busy)
      && gives (.frameTransmitEnd 255) busy (fun t => t.tm.used == [5] && t.get F.PRT_TX_OCT_CNT.CNT 255 == 64
        && t.get F.TM_Q_TX_FRM_CNT.CNT 2043 == 1 && t.tm.tx == [])
      && gives (.frameTransmitEnd 255) waits (fun t => t == waits)) = true := by decide +kernel

/-- Transmission, the round robin and gates (R148, R155, R157, R160): the queue in turn, an empty credit that goes on, a closed
gate, a head longer than every opening. -/
theorem test_round_robin : (
    let f : QFrame := { body := List.replicate 100 1, ring := true, cells := [4], depth := 1 }
    let s (q : Nat) := { up with tm := { up.tm with used := [4], queues := [(255 * 8 + q, [f])], ptr := [(255, 4)] } }
    let both := { up with tm := { up.tm with used := [4], queues := [(255 * 8 + 4, [f, f]), (255 * 8 + 5, [f])], ptr := [(255, 4)] } }
    let poor := { both with tm := { both.tm with credited := [(255 * 8 + 4, true)], deficit := [(255 * 8 + 4, 7)] } }
    let gate (x : State) (open_ dur : Nat) := { x with tm := { x.tm with gclAct := [(255, some ⟨0, dur + 10, [(open_, dur), (0, 10)]⟩)] } }
    let sends (x : State) (q : Nat) (p : State → Bool) := gives (.transmitSelection 255) x fun t =>
      (t.sending 255).map (fun y => (y.queue, y.bytes)) == some (q, f.body) && p t
    up.isPort 255 && sends (s 4) 4 (fun t => Tbl.at 4 t.tm.ptr 255 == 5 && Tbl.at 0 t.tm.deficit 2044 == 0)
      && sends both 4 (fun t => Tbl.at 0 t.tm.deficit 2044 == (up.quantum 255 4 : Int) - 104
        && Tbl.at 4 t.tm.ptr 255 == 4)
      && sends poor 5 (fun t => Tbl.at 0 t.tm.deficit 2044 == 7)
      && gives (.transmitSelection 255) (gate (s 3) 0xF7 1000000) (fun t => t.sending 255 == none && t.queue 255 3 == [])
      && sends (gate (s 3) 8 1000000) 3 (fun t => t.queue 255 3 == [])
      && gives (.transmitSelection 255) (gate (s 3) 8 1) (fun t => t.get F.TM_PORT_GATE_DROP_CNT.CNT 255 == 1 && t.queue 255 3 == []))
      = true := by decide +kernel

/-- Transmission, copies and stamps (03 R87, R494, 13 R391, R394): a copy under SUITE 0 and one without a valid key set; a Sync
message stamped in place, and one that runs beyond the frame; a PTP 1 frame's stamp. -/
theorem test_egress : (
    let f : QFrame := { pkt := some 9, depth := 1, srtp := 1, cgid := 3 }
    let pk : Pkt := { open5 0 with fcsOpen := false, authOpen := false, l4 := 42, pay := 16, srtp := {} }
    let s := { up with tm := { up.tm with pkts := [(9, some (((pk.set Tag.LEN 62).set Tag.SCID 5)))], used := [7], queues := [(255 * 8, [f])]
                                          buf := Tbl.putList 0 [] (7 * 256) (rtpFrame.take 58) } }
    let keyed := { s with srt := { s.srt with keys := recs [] [(0, Key.VALID, 1)] } }
    let sync (off : Nat) : State := { up with
      tm := { up.tm with used := [4], queues := [(255 * 8, [{ body := List.replicate 60 3, ring := true, cells := [4], depth := 1, ptp := 2, ptpOff := off }])] } }
    let x : TxFrame := { queue := 0, frame := { body := rtpFrame.take 60, ring := true, cells := [4], depth := 1, ptp := 1, ptpId := 77 }
                         bytes := rtpFrame.take 60, t0 := 0, t1 := 0, stamp := 5 * 65536000000000 + 9 }
    keyed.frameCheck f == 0 && s.frameCheck f != 0 && keyed.key (keyed.egressKey f) Key.SUITE == 0
      && gives (.transmitSelection 255) keyed (fun t => (t.sending 255).map (fun y => y.bytes) == some (padFrame (keyed.buildFrame 3 (keyed.clearPayload f)))
        && t.get F.SRT_OUT_PKT_CNT.CNT 31 == 1)
      && (keyed.clearPayload f).drop 12 == [9, 9, 9, 9]
      && gives (.transmitSelection 255) s (fun t => t.sending 255 == none && t.queue 255 0 == [])
      && gives (.transmitSelection 255) (sync 16) (fun t => (t.sending 255).map (fun y => (slice y.bytes 50 10, slice y.bytes 24 8)) ==
        some (beBytes 6 (t.portTime 255 / 65536000000000) ++ beBytes 4 (t.portTime 255 / 65536 % 1000000000), List.replicate 8 3))
      && gives (.transmitSelection 255) (sync 17) (fun t => t.get F.TIM_ONESTEP_SKIP_CNT.CNT 255 == 1
        && (t.sending 255).map (fun y => y.bytes) == some (List.replicate 60 3))
      && gives (.frameTransmitEnd 255) { up with tm := { up.tm with used := [4], tx := [(255, some x)] } } (fun t =>
        t.tim.txq == [(255, [(wd (77 * 2 ^ 56 + 5), 9)])] && t.tm.sent == [(255, some (wireBytes (rtpFrame.take 60) true, true))]))
      = true := by decide +kernel

/-- Transmission, rings and held carts (R153, R161 to R163): a ring of one frame of 4 bytes; a cart behind 512 others. -/
theorem test_rings : (
    let b := bytes (hbmUp up) 0 (leBytes 8 4096 ++ leBytes 8 (2 ^ 15 + 4))
    let s := set b [(F.TM_TXR_CFG.EN, 15, 1), (F.TM_TXR_CFG.LOG2_SIZE, 15, 5), (F.TM_TXR_TAIL.TAIL, 15, 1)]
    let cart (n : Nat) : FwdCart := ⟨[], 9, true, n⟩
    let h := set { up with tm := { up.tm with pkts := [(9, some (open5 0))] }, fwd := { up.fwd with queue := [(7, (List.range 513).map cart)] } }
      [(F.TM_BUF_THR.THR, 0, 0)]
    readyCheck s && decide ((s.ringRead (s.txRing (.media 15)) 0 24).stop = .ok)
      && gives (.txRingFrame 15) b (fun t => t == b) && gives .heldPacketDrop up (fun t => t == up)
      && (oldestCart h.heldCarts).map (fun c => c.2.order) == some 512 && gives .heldPacketDrop h (fun t =>
        (t.workQueue 7).length == 512 && t.get F.FWD_WQ_DROP_CNT.CNT 7 == 1)) = true := by decide +kernel

/-- GateLists (R156 to R159): a list due at its base, one whose base has passed, one refused; start and entry. -/
theorem test_gates : (
    let s := set up [(F.TM_GCL_CFG.LEN, 255, 1), (F.TM_GCL_CFG.CYCLE, 255, 100), (F.TM_GCL_BASE_NS.NS, 255, 7),
      (F.TM_GCL_ENTRY.INTERVAL, 255 * 128, 100)]
    let late := s.setTb (s.get F.PRT_PORT_CFG.TB 255) ⟨0, 8 * 2 ^ 48, 0⟩
    let g : Gcl := ⟨7, 100, [(255, 50), (1, 50)]⟩
    let pend := { late with tm := { late.tm with gclPend := [(255, some g)] } }
    let act := { late.setTb (s.get F.PRT_PORT_CFG.TB 255) ⟨0, 57 * 2 ^ 48, 0⟩ with tm := { late.tm with gclAct := [(255, some g)] } }
    gives (.load 255) s (fun t => t.tm.gclPend == [(255, some ⟨7, 100, [(0, 100)]⟩)] && !t.isSet F.TM_GCL_STATUS.LATE 255)
      && gives (.load 255) late (fun t => t.tm.gclPend == [(255, some ⟨307, 100, [(0, 100)]⟩)] && t.isSet F.TM_GCL_STATUS.LATE 255)
      && gives (.load 254) s (fun t => t.isSet F.TM_GCL_STATUS.REFUSED 254 && t.tm == s.tm)
      && gives (.disable 255) pend (fun t => t.tm.gclPend == []) && gives (.gclStart 255) pend (fun t => t.tm.gclAct == [(255, some g)])
      && gives (.gclStart 255) { s with tm := pend.tm } (fun t => t.tm == pend.tm)
      && gives (.gclEntryChange 255) act (fun t => t.get F.TM_GCL_STATUS.CUR 255 == 1)) = true := by decide +kernel

/-! ## The dispatcher -/

/-- Words of a cart: type, coach, word 1. -/
def cartWords (ty coid w1 : Nat) : List Word := [wd (ty * 2 ^ 56 + coid * 2 ^ 40), wd w1, 0, 0, 0, 0, 0, 0]

/-- A fence, and a Pea cart for pod 31 that starts at bundle 5. -/
def fence : List Word := cartWords 0x40 0 0
def peaCart : List Word := cartWords 0x01 0 (2 ^ 63 + 5)

/-- A state whose store holds carts. -/
def store (s : State) (cs : List Cart) : State := { s with work := { s.work with seq := 100, store := cs } }

/-- A state with a core replaced. -/
def core (s : State) (k : Nat) (c : Core) : State := { s with pea := { s.pea with cores := [(k, c)] } }

/-- CartAcceptance (R170, R171, R173): the last pod's port, each answer of a submission. -/
theorem test_acceptance : (
    let on := set up [(F.WD_CFG.EN, 0, 1)]
    let s := { on with work := { on.work with port := [(31, [⟨511, fence, 3⟩])] } }
    let sub (s : State) := put s ((fence.zipIdx).map fun e => (.WD_SUB_DATA, 56 + e.2, e.1))
    let r (s : State) (k : Nat) := gives (.wdSubGo 7) s fun t => t.get F.WD_SUB_RESULT.RESULT 7 == k
    s.canAccept && s.nextProducer == some 39 && !s.malformed (producerKind 39) fence
      && gives .cartAccept s (fun t => t.work.seq == 1 && t.work.store.map (fun c => c.words) == [fence] && t.work.turn == 39)
      && gives .cartAccept on (fun t => t == on) && gives .cartAccept up (fun t => t == up)
      && r (sub up) 4 && r on 3 && r (sub s) 2 && r (sub on) 1 && !on.malformed .software fence && !on.hardwareHeld && !on.aged
      && on.get F.WD_CFG.SW_RSV 0 < 16384) = true := by decide +kernel

/-- Dispatches (R182, R184, R187, R201, R224): a Pea cart to the only enabled core, a fence, an engine cart, a saved cart
and a pre-emption; a gap. -/
theorem test_dispatch : (
    let c : Cart := { seq := 99, words := peaCart, st := .ready }
    let s := set (store up [c]) [(F.PEA_CORE_CFG.EN, 511, 1)]
    let f : Cart := { seq := 99, words := fence, st := .ready }
    let e : Cart := { seq := 99, words := cartWords 0x10 0 0, st := .ready }
    let eng := set (store up [e]) [(F.WD_POOL_CFG.KIND, 0, 1), (F.WD_POOL_MASK.MASK, 0, 2 ^ 63)]
    let z : Cart := { seq := 99, words := peaCart, st := .suspended, unit := 511 }
    let res := core (store up [z]) 511 { slot0 := some { seq := 99, words := peaCart, pc := 77 } }
    let v : Cart := { seq := 98, words := peaCart, st := .running, unit := 511 }
    let n : Cart := { c with st := .running, unit := 511 }
    let pre := core (store up [v, n]) 511 { run := some { seq := 98, words := peaCart, pc := 66 }, saving := some 99 }
    firstAction s.candidates == some (.start c 511) && firstAction eng.candidates == some (.engine e 63)
      && firstAction (store up [f]).candidates == some (.fence f) && firstAction res.candidates == some (.resume z 511)
      && [s, eng, store up [f], res].all (fun s => s.unplaced == none)
      && gives .dispatch { s with work := { s.work with gap := 1 } } (fun t => t.pea == s.pea)
      && gives .dispatch s (fun t => t.get F.WD_DISPATCH_CNT.CNT 0 == 1 && ((t.core 511).run.map fun r => (r.seq, r.pc)) == some (99, 5))
      && gives .dispatch eng (fun t => (t.cart 99).map (fun d => (d.st, d.unit)) == some (.running, 63))
      && gives .dispatch (store up [f]) (fun t => (t.cart 99).map (fun d => (d.st, d.status)) == some (.ended, 0))
      && gives .dispatch res (fun t => ((t.core 511).run.map fun r => r.pc) == some 77 && t.get F.WD_RESUME_CNT.CNT 0 == 1)
      && gives (.preemptSave 511) pre (fun t => ((t.core 511).run.map fun r => r.pc) == some 5
        && ((t.core 511).slot0.map fun r => r.pc) == some 66 && (t.cart 98).map (fun d => d.st) == some .suspended)) = true := by
  decide +kernel

/-- CartEnds (R176, R193, R195): a fence that notifies; the ages at their bounds. -/
theorem test_cart_ends : (
    let c : Cart := { seq := 5, words := [wd (0x40 * 2 ^ 56 + 2 ^ 32 + 9 * 2 ^ 24), 0, 0, 0, 0, 0, 0, 0], st := .ended, status := 3 }
    let s := store up [c]
    let w : Cart := { c with st := .waiting }
    let at_ (n : Nat) (c : Cart) : State := { store up [c] with work := { (store up [c]).work with seq := 5 + n } }
    s.mayRetire c && gives (.cartRetire 5) s (fun t => t.work.store == [] && (Tbl.at [] t.ctl.crossing 5).length == 1)
      && gives (.cartRetire 5) (store up [w]) (fun t => t == store up [w])
      && gives (.ageNotice 5) (at_ (2 ^ 30) w) (fun t => (t.cart 5).map (fun d => d.aged) == some true)
      && gives (.ageNotice 5) { at_ (2 ^ 30) w with work := { (at_ (2 ^ 30) w).work with gap := 2 } } (fun t =>
        t.work.heldOut.length == 1 && t.ctl == up.ctl)
      && gives (.ageNotice 5) (at_ (2 ^ 30 - 1) w) (fun t => t == at_ (2 ^ 30 - 1) w)
      && gives (.cartExpire 5) (at_ expiryAge w) (fun t => (t.cart 5).map (fun d => d.status) == some 4)
      && gives (.cartExpire 5) (at_ (expiryAge - 1) w) (fun t => t == at_ (expiryAge - 1) w)) = true := by decide +kernel

/-- DispatcherCommands, coaches (R176, R198, R199): each result; a cancelled cart. -/
theorem test_coaches : (
    let c : Cart := { seq := 5, words := cartWords 0x40 65535 0 }
    let s := put (store up [c]) [(.WD_DATA, 0, wd (2 ^ 62))]
    let r (i : Instr) (s : State) (k : Nat) := gives i s fun t => t.get F.WD_STATUS.RESULT 0 == k
    gives (.coachWrite 9) s (fun t => t.coachRec 9 == wd (2 ^ 62) && t.get F.WD_STATUS.RESULT 0 == 0) && r (.coachWrite 65535) s 1
      && r (.coachWrite 9) (put s [(.WD_DATA, 0, wd (3 * 2 ^ 62))]) 4 && r (.coachWrite 9) (put s [(.WD_DATA, 0, 1)]) 4
      && r (.coachWrite 65535) (put (store up [c]) [(.WD_DATA, 0, wd (2 ^ 56))]) 1
      && gives (.coachWrite 65535) (put (store up [c]) [(.WD_DATA, 0, 0)]) (fun t => (t.cart 5).map (fun d => d.st) == some .ready)
      && gives (.coachWrite 65535) (put (store up [c]) [(.WD_DATA, 0, wd (2 ^ 61))]) (fun t => t.coachRec 65535 == wd (2 ^ 61)
        && (t.cart 5).map (fun d => d.st) == some .waiting)
      && gives (.coachWrite 0) s (fun t => t.work == s.work) && s.coachCarts 65535 == [c]
      && gives (.coachRead 65535) s (fun t => t.reg .WD_DATA 1 == wd (5 * 2 ^ 32 + 1))
      && gives (.coachCancel 65535) s (fun t => (t.cart 5).map (fun d => d.status) == some 3)) = true := by decide +kernel

/-- DispatcherCommands, the fault list (R188 to R190): the last entry parked, armed and free. -/
theorem test_fault_list : (
    let c (st : CartSt) : Cart := { seq := 5, words := peaCart, st := st, unit := 511, slot := 1 }
    let s (st : CartSt) := core (store up [c st]) 511 { slot1 := some { seq := 5, words := peaCart, pc := 9, parkedOn := some 2 } }
    let r (i : Instr) (s : State) (k : Nat) := gives i s fun t => t.get F.WD_STATUS.RESULT 0 == k
    ((s .parked).faultEntry 1023).isSome && up.faultEntry 1023 == none && [Instr.fltRearm 1023, .fltCancel 1023].all (fun i => r i up 2)
      && gives (.fltRearm 1023) (s .parked) (fun t => (t.cart 5).map (fun d => d.st) == some .armed) && r (.fltRearm 1023) (s .armed) 2
      && gives (.fltCancel 1023) (s .armed) (fun t => (t.core 511).slot1 == none && (t.cart 5).map (fun d => d.status) == some 3)
      && gives (.fltRead 1023) (s .parked) (fun t => t.reg .WD_DATA 0 == wd (2 ^ 63 + 5) && t.reg .WD_DATA 2 == 9)) = true := by
  decide +kernel

/-- PoolsAndSides (R185, R200 to R203): a pool idle and busy; each side; both; SWAP and its end. -/
theorem test_pools_sides : (
    let busy := store up [{ seq := 5, words := cartWords 0x10 0 (15 * 2 ^ 16), st := .running }]
    let gap (n : Nat) := { up with work := { up.work with gap := n } }
    let auto := { up with ctl := { up.ctl with ryuAccepted := 16 } }
    gives (.wdPoolCfgWrite 15 false 3) up (fun t => t.get F.WD_POOL_CFG.KIND 15 == 3 && !t.isSet F.WD_POOL_CFG.CFG_ERR 15)
      && gives (.wdPoolCfgWrite 15 true 9) up (fun t => t.reg .WD_POOL_MASK 15 == 9)
      && gives (.wdPoolCfgWrite 15 false 3) busy (fun t => t.isSet F.WD_POOL_CFG.CFG_ERR 15 && t.get F.WD_POOL_CFG.KIND 15 == 0)
      && !up.isSet F.WD_LOCK_STATUS.A_OFF 0 && !up.isSet F.WD_LOCK_STATUS.B_OFF 0 && up.work.gap == 0
      && gives (.sideMismatch true false) (gap 2) (fun t => t.work.gap == 1)
      && gives (.sideMismatch false false) (up.flagSide 1) (fun t => t.work.gap == 1)
      && gives (.sideMismatch false false) up (fun t => t.work.gap == 3)
      && gives .swap up (fun t => t.work.gap == 2 && t.isSet F.WD_LOCK_CMD.SWAP 0) && gives .swap (gap 1) (fun t => t == gap 1)
      && gives .autoSwap auto (fun t => t.work.gap == 2) && gives .autoSwap up (fun t => t == up)
      && gives .switchoverRelease (gap 1) (fun t => t.work.gap == 0 && (Tbl.at [] t.ctl.crossing 5).length == 1)
      && gives .swapDone (gap 2) (fun t => t.work.gap == 0 && t.isSet F.WD_LOCK_STATUS.ACTIVE 0)) = true := by decide +kernel

/-! ## Pea cores -/

/-- Core 511 runs cart 99 with the registers r; the bundle at its PC is w. -/
def pea (r : PeaRun) (w : Word) : State :=
  let s := core (store up [{ seq := 99, words := peaCart, st := .running, unit := 511 }]) 511 { run := some r }
  { s with pea := { s.pea with prog := Tbl.put 0 [] (511 * 4096 + r.pc) w } }

/-- Registers at bundle 5: g1 = 7, g2 = 9, p0 = 2. -/
def r0 : PeaRun := { seq := 99, words := peaCart, pc := 5, g := [(1, 7), (2, 9)], pu := [(0, 2)] }

/-- The bundle is legal and issues next. -/
def issues (r : PeaRun) (w : Word) : Bool :=
  let s := pea r w
  s.live && !s.err.clkStopped && s.issuable 511 == some r && decide (r.pc < 4096) && s.bundle 511 r == w && bundleLegal w

/-- The bundle issues, and p holds of the cart's registers after it. -/
def runs (c : Instr) (r : PeaRun) (w : Word) (p : PeaRun → Bool) : Bool :=
  issues r w && gives c (pea r w) fun t => (t.core 511).run.map p == some true

/-- The bundle issues and raises an exception: code and address. -/
def raises (c : Instr) (r : PeaRun) (w : Word) (code addr : Nat) : Bool :=
  issues r w && !r.moving && gives c (pea r w) fun t => (t.core 511).run == none &&
    (t.cart 99).map (fun d => d.result) == some (wd (code * 2 ^ 56 + r.pc * 2 ^ 32 + addr))

/-- Bundles, standard (R241 to R251): ADD g3, g1, g2; LDW of p0 = 2 is misaligned in X, then in Y; no bundle past 4,095;
a reserved form. -/
theorem test_standard : (
    let add := wd (0x01 * 2 ^ 52 + 3 * 2 ^ 47 + 1 * 2 ^ 42 + 2 * 2 ^ 37)
    let ldw : Nat := 2 * 2 ^ 12 + 4 * 2 ^ 4
    runs (.standardBundle 511) r0 add (fun r => r.gr 3 == 16 && r.pc == 6)
      && runs (.standardBundle 511) { r0 with pu := [] } (wd (ldw * 2 ^ 16)) (fun r => r.gr 4 == 0)
      && raises (.standardBundle 511) r0 (wd (ldw * 2 ^ 16)) 3 2 && raises (.standardBundle 511) r0 (wd ldw) 3 2
      && gives (.standardBundle 511) (pea { r0 with pc := 4096 } 0) (fun t => (t.cart 99).map (fun d => d.result) ==
        some (wd (4 * 2 ^ 56 + 4095 * 2 ^ 32)))
      && !bundleLegal (wd (0x56 * 2 ^ 52)) && gives (.standardBundle 511) (pea r0 (wd (0x56 * 2 ^ 52))) (fun t =>
        (t.cart 99).map (fun d => d.result) == some (wd (2 ^ 56 + 5 * 2 ^ 32)))) = true := by decide +kernel

/-- Bundles, staged and long (R243, R247, R261): guard 7 with STG 0 and with STG 129; LDI, LDIP, ADDIL, CMPIL. -/
theorem test_staged_long : (
    let add := 3 * 2 ^ 62 + 7 * 2 ^ 59 + 0x01 * 2 ^ 52 + 3 * 2 ^ 47 + 1 * 2 ^ 42 + 2 * 2 ^ 37
    let long (op d v : Nat) := wd (2 ^ 62 + op * 2 ^ 55 + d * 2 ^ 50 + v * 2 ^ 16)
    let ldw : Nat := 2 * 2 ^ 12 + 4 * 2 ^ 4
    let stg : PeaRun := { r0 with flags := withStg 0 129, loops := [⟨4, 9, 2, false, 3, 0⟩], lc := [(0, 3)] }
    runs (.stagedBundle 511) r0 (wd add) (fun r => r.gr 3 == 0 && r.pc == 6) && runs (.stagedBundle 511) stg (wd add) (fun r => r.gr 3 == 16)
      && runs (.stagedBundle 511) r0 (wd (add + 7 * 2 ^ 16 + ldw * 2 ^ 16)) (fun r => r.gr 3 == 0 && r.gr 4 == 0)
      && runs (.stagedBundle 511) { r0 with flags := withStg 0 1, pu := [] } (wd (add - 7 * 2 ^ 59 + (7 + ldw) * 2 ^ 16)) (fun r => r.gr 3 == 16)
      && raises (.stagedBundle 511) { r0 with flags := withStg 0 2 } (wd (add + (1 + ldw) * 2 ^ 16)) 3 2
      && raises (.stagedBundle 511) { r0 with flags := withStg 0 2 } (wd (add + (7 + ldw) * 2 ^ 16 + 1 + ldw)) 3 2
      && runs (.ldi 511) r0 (long 1 31 0xFFFFFFFF) (fun r => r.gr 31 == 0xFFFFFFFF)
      && runs (.ldip 511) r0 (long 2 31 0xFFFFFF) (fun r => r.ptr 31 == 0xFFFFFF)
      && runs (.addil 511) r0 (long 3 1 0xFFFFFFF9) (fun r => r.gr 1 == 0)
      && runs (.cmpil 511) r0 (long 4 1 7) (fun r => r.gr 1 == 7 && r.flags.toNat % 2 == 1)) = true := by decide +kernel

/-- PeaArithmetic, accumulators (R213): a store at the bounds of 16 bits, and one past each. -/
theorem test_acc_store : (
    let a (z : Int) := BitVec.ofInt 72 (z * 2 ^ 8)
    accStore (a 32767) 8 16 false == (32767, false) && accStore (a 32768) 8 16 false == (32767, true)
      && accStore (a (-32768)) 8 16 false == (-32768, false) && accStore (a (-32769)) 8 16 false == (-32768, true)
      && accStore (BitVec.ofInt 72 (5 * 2 ^ 8 + 128)) 8 16 true == (6, false)
      && accStore (BitVec.ofInt 72 (6 * 2 ^ 8 + 128)) 8 16 true == (6, false)) = true := by decide +kernel

/-- ControlBundles (R262, R263, R266, R267): each transfer, in and out of a loop's end bundle; LOOP with a count and with 0. -/
theorem test_control : (
    let op (c rest : Nat) := wd (2 ^ 63 + c * 2 ^ 56 + rest)
    let ends : PeaRun := { r0 with loops := [⟨3, 5, 1, false, 2, 0⟩], lc := [(0, 2)] }
    runs (.controlNop 511) r0 (op 0 0) (fun r => r.pc == 6) && runs (.br 511) r0 (op 1 4095) (fun r => r.pc == 4095)
      && runs (.brc 511) r0 (op 2 77) (fun r => r.pc == 77 || r.pc == 6)
      && condHolds 1 r0.flags != condHolds 0 r0.flags && runs (.brc 511) r0 (op 2 (2 ^ 52 + 77)) (fun r => r.pc == 77 || r.pc == 6)
      && runs (.call 511) r0 (op 3 (31 * 2 ^ 46 + 77)) (fun r => r.pc == 77 && r.gr 31 == 6)
      && runs (.jr 511) r0 (op 4 (2 * 2 ^ 46)) (fun r => r.pc == 9)
      && runs (.loop 511) r0 (op 5 (65535 * 2 ^ 16 + 9)) (fun r => r.pc == 6 && r.loops == [⟨6, 9, 1, false, 65535, 0⟩])
      && runs (.loop 511) r0 (op 5 9) (fun r => r.pc == 10) && raises (.loop 511) r0 (op 5 (2 ^ 16 + 5)) 5 0
      && ends.atEnd && [(Instr.br 511, op 1 0), (.brc 511, op 2 0), (.call 511, op 3 0), (.jr 511, op 4 0)].all (fun x =>
        raises x.1 ends x.2 5 0)) = true := by decide +kernel

/-- HardwareLoops (R217 to R219, R266): a rotating loop at its end with two iterations left, and with one. -/
theorem test_loops : (
    let l : PeaLoop := ⟨3, 5, 1, true, 2, 0⟩
    let r (n : Nat) : PeaRun := { r0 with loops := [l], lc := [(0, n)] }
    (r 2).advance.pc == 3 && (r 2).advance.rot == 15 && Tbl.at 0 (r 2).advance.lc 0 == 1 && (r 1).advance.pc == 6
      && (r 1).advance.loops == [] && ((r 2).branch 6).loops == [] && ((r 2).branch 5).loops == [l]) = true := by decide +kernel

/-- CartServices (R225, R226, R230): EXIT, DMA, DWAIT and SUBMIT; each waits on a busy channel; ADDR and ALIGN. -/
theorem test_services : (
    let op (c rest : Nat) := wd (2 ^ 63 + c * 2 ^ 56 + rest)
    let busy : PeaRun := { r0 with chans := [(3, { active := true })] }
    let at_ (n : Nat) : PeaRun := { r0 with g := [(1, BitVec.ofNat 32 n)] }
    let stalls (c : Instr) (r : PeaRun) (w : Word) := issues r w && gives c (pea r w) fun t => (t.core 511).stalled && (t.core 511).run == some r
    let desc := leBytes 8 (2 * 2 ^ 60 + 4) ++ leBytes 16 0
    let good := { pea (at_ 0) (op 7 (3 * 2 ^ 52 + 2 ^ 46)) with pea := { (pea (at_ 0) (op 7 (3 * 2 ^ 52 + 2 ^ 46))).pea with x := Tbl.putList 0 [] (511 * 65536) desc } }
    issues r0 (op 6 (2 ^ 52)) && gives (.exit 511) (pea r0 (op 6 (2 ^ 52))) (fun t => (t.core 511).run == none
        && (t.cart 99).map (fun d => (d.status, d.result)) == some (1, wd (7 * 2 ^ 32)))
      && stalls (.exit 511) busy (op 6 0) && stalls (.dma 511) { busy with g := [] } (op 7 (3 * 2 ^ 52 + 2 ^ 46))
      && stalls (.dwait 511) busy (op 8 (3 * 2 ^ 52)) && raises (.dma 511) (at_ 0x7FE1) (op 7 (2 ^ 46)) 2 0x7FE1
      && raises (.dma 511) r0 (op 7 (2 ^ 46)) 3 7 && raises (.dma 511) (at_ 0x7FE0) (op 7 (2 ^ 46)) 6 0
      && !dmaRefused 511 (at_ 0) (bytesWords 3 desc) && gives (.dma 511) good (fun t =>
        (t.core 511).run.map (fun r => (Tbl.at {} r.chans 3).active) == some true)
      && runs (.dwait 511) r0 (op 8 (31 * 2 ^ 46)) (fun r => r.pc == 6)
      && issues (at_ 64) (op 9 (2 ^ 46 + 31 * 2 ^ 41)) && gives (.submit 511) (pea (at_ 64) (op 9 (2 ^ 46 + 31 * 2 ^ 41))) (fun t =>
        (Tbl.at [] t.work.port 31).map (fun b => (b.core, b.dest)) == [(511, 31)] && (t.core 511).submitting)) = true := by
  decide +kernel

/-- A transfer of core 511 on channel 3: descriptor words 0 to 2. -/
def moving (s : State) (ws : List Word) : State :=
  core s 511 { run := some { r0 with pkt := some 9, chans := [(3, { desc := ws, active := true })] } }

/-- PodTransfers, local (R227, R232, R233): each kind moves 4 bytes; a full injection queue. -/
theorem test_transfers : (
    let d (k remote : Nat) := [wd (k * 2 ^ 60 + 4), wd remote, 0]
    let p := { up with tm := { up.tm with buf := [(7 * 256, 0xAB)], used := [7], pkts := [(9, some (open5 0))] } }
    let ended (n : Nat) (t : State) := (t.core 511).run.map (fun r => ((Tbl.at {} r.chans 3).active, (Tbl.at {} r.chans 3).done)) == some (false, n)
    let fwd (s : State) := core s 511 { run := ((s.core 511).run.map fun r => { r with words := cartWords 0x02 0 0 }) }
    let full := { up with ing := { up.ing with injq := [(7, List.replicate 256 ⟨0, [], 0⟩)] } }
    let y (s : State) := { s with pea := { s.pea with x := Tbl.putList 0 [] (511 * 65536) [1, 2, 3, 4] } }
    let smp := { up with mix := { up.mix with smem := [(1, 0x01020304)] } }
    gives (.pktRd 511 3) (moving p (d 3 0)) (fun t => ended (min 4 ((p.pktBytes (open5 0)).length)) t)
      && gives (.pktFree 511 3) (fwd (moving p (d 4 0))) (fun t => ended 0 t && t.tm.used == [])
      && gives (.pktFree 511 3) (fwd { moving p (d 4 0) with tm := { p.tm with pkts := [(9, some { open5 0 with holds := 2 })] } }) (fun t =>
        ended 0 t && t.tm.used == [7])
      && gives (.inject 511 3) (y (moving up (d 5 (7 * 2 ^ 20 + 5)))) (fun t => ended 4 t && Tbl.at [] t.ing.injq 7 == [⟨5, [1, 2, 3, 4], 0⟩])
      && gives (.inject 511 3) (moving full (d 5 (7 * 2 ^ 20))) (fun t => (Tbl.at [] t.ing.injq 7).length == 256)
      && gives (.smpWr 511 3) (y (moving up (d 6 4))) (fun t => ended 4 t && t.mix.smem == [(1, 0x04030201)])
      && gives (.smpRd 511 3) (moving smp (d 7 4)) (fun t => ended 4 t && t.pea.load .x (511 * 65536) 4 == [4, 3, 2, 1])) = true := by
  decide +kernel

/-- PodTransfers, HBM and the window (R232, R234, R239): a read, a write, a fault. -/
theorem test_pod_hbm : (
    let d (k iova : Nat) := [wd (k * 2 ^ 60 + 4), wd iova, 0]
    let h := bytes (hbmUp up) 0 [1, 2, 3, 4]
    let src : Src := ⟨6, 511, 0, 2047⟩
    ((h.vread src 0 4).stop == .ok) && gives (.hbmRd 511 3) (moving h (d 1 0)) (fun t => t.pea.load .x (511 * 65536) 4 == [1, 2, 3, 4])
      && gives (.hbmWr 511 3) (moving h (d 2 4)) (fun t => t.hbm.mem == (bytes (hbmUp up) 0 [1, 2, 3, 4]).hbm.mem)
      && (up.vread src 0 4).stop == .xlate && [(Instr.hbmRd 511 3, false), (.hbmWr 511 3, true)].all (fun x =>
        gives x.1 (moving up (d (if x.2 then 2 else 1) 0)) fun t => (t.core 511).run.map (fun r => (Tbl.at {} r.chans 3).fault) == some (some (0, x.2)))) = true := by
  decide +kernel

/-- PodTransfers, held accesses and the pod memory window (R234, R239). -/
theorem test_pod_window : (
    let held := set (hbmUp up) [(F.HBM_PC_STATE.STATE, 0, 3)]
    let m := moving held [wd (2 ^ 60 + 4), 0, 0]
    let win (sp a : Nat) := set up [(F.PEA_POD_MEM_ADDR.SPACE, 31, sp), (F.PEA_POD_MEM_ADDR.ADDR, 31, a), (F.PEA_POD_MEM_ADDR.CORE_MASK, 31, 0x8000),
      (F.PEA_POD_MEM_ADDR.CORE, 31, 15)]
    ((held.vread ⟨6, 511, 0, 2047⟩ 0 4).st.hbm.blocked).isSome && gives (.hbmRd 511 3) m (fun t =>
        t == { m with hbm := { m.hbm with held := t.hbm.held } } && t.hbm.held.length == 1)
      && gives (.podMemDataAccess 0 31 true 5) (win 3 1048568) (fun t => t.get F.PEA_POD_MEM_ADDR.ADDR 31 == 0
        && t.pea.load .shared (31 * 2 ^ 20 + 1048568) 8 == leBytes 8 5)
      && gives (.podMemDataAccess 0 31 true 5) (win 0 65528) (fun t => t.get F.PEA_POD_MEM_ADDR.ADDR 31 == 0
        && t.pea.x == [(511 * 65536 + 65528, 5)] && !t.isSet F.PEA_POD_MEM_STATUS.MEM_ERR 31)
      && gives (.podMemDataAccess 0 31 true 5) (set (win 1 8) [(F.PEA_CORE_CFG.EN, 511, 1)]) (fun t => t.pea.y == []
        && t.isSet F.PEA_POD_MEM_STATUS.MEM_ERR 31)
      && gives (.podMemDataAccess 0 31 true 5) (win 2 8) (fun t => t.pea.prog == [(511 * 4096 + 1, 5)])
      && gives (.podMemDataAccess 0 31 false 0) (win 2 32760) (fun t => t.get F.PEA_POD_MEM_ADDR.ADDR 31 == 0 && t.pea == up.pea)
      && gives (.podMemDataAccess 0 31 true 5) (win 2 32768) (fun t => t.pea == up.pea && t.isSet F.PEA_POD_MEM_STATUS.MEM_ERR 31)) = true := by
  decide +kernel

/-! ## Voxotte -/

/-- Engine 7 runs block 3 with the registers of m; its program is the header words and then w. -/
def mixing (hdr : List Word) (w : Nat) (m : MixEng) : State :=
  { up with mix := { up.mix with engs := [(7, { m with prog := Tbl.putList 0 [] 0 (hdr ++ [wd w]), run := some { block := 3 } })] } }

/-- A header with no descriptors. -/
def bare : List Word := [0, 0, 0, 0]

/-- The instruction is next and is of the operation, and p holds after it. -/
def mixes (c : Instr) (s : State) (op : Nat) (p : State → Bool) : Bool :=
  s.live && (s.mixEng 7).run == some { block := 3 } && mixOp ((s.activeImage 7).instr 0) == op
    && gives c s fun t => p t && (t.mixEng 7).run.map (fun r => r.pos) == some 1

/-- MixArithmetic, accumulators (R277 to R280): lane 7 of domain 0; sums saturate; a gain by parameter; ramped gains. -/
theorem test_accumulators : (
    let m : MixEng := { a := [(7, BitVec.ofInt 48 (2 ^ 47 - 1)), (55, 5)], w := [(7, 3)], used := [(4095, 16384)] }
    let i (op rest : Nat) := mixing bare (op * 2 ^ 58 + rest) m
    let acc (t : State) (x : Int) := t.mixAcc 7 0 7 == x
    mixes (.mixAclr 7) (i 0x08 0) 0x08 (fun t => acc t 0 && t.mixAcc 7 1 7 == 5)
      && mixes (.mixAmov 7) (i 0x09 (2 ^ 42)) 0x09 (fun t => acc t 5)
      && mixes (.mixAadd 7) (i 0x0A (2 ^ 42)) 0x0A (fun t => acc t (2 ^ 47 - 1) && t.get F.MIX_ENG_SAT_CNT.CNT 7 == 1)
      && mixes (.mixAsub 7) (i 0x0B (2 ^ 42)) 0x0B (fun t => acc t (2 ^ 47 - 6))
      && mixes (.mixMac 7) (i 0x0C (2 ^ 45 + 2 ^ 41 + 4095 * 2 ^ 25)) 0x0C (fun t => t.mixAcc 7 1 7 == 5 + 3 * 16384)
      && mixes (.mixMsu 7) (i 0x0D (2 ^ 45 + 0xFFFF * 2 ^ 25)) 0x0D (fun t => t.mixAcc 7 1 7 == 8)
      && mixes (.macr 7) (i 0x0E (2 ^ 45 + 8 * 2 ^ 25 + 16 * 2 ^ 9)) 0x0E (fun t => t.mixAcc 7 1 7 == 5 + 3 * 16)
      && mixes (.msur 7) (i 0x0F (2 ^ 45 + 8 * 2 ^ 25 + 16 * 2 ^ 9)) 0x0F (fun t => t.mixAcc 7 1 7 == 5 - 3 * 16)) = true := by
  decide +kernel

/-- MixArithmetic, work registers (R278, R281, R284): ATW rounds a half to even; a bridge of two taps, 0.5 each. -/
theorem test_work_registers : (
    let m : MixEng := { a := [(7, 6)], w := [(7, 3), (14, 10), (15, 20)] }
    let i (op rest : Nat) := mixing bare (op * 2 ^ 58 + rest) m
    let brg : List Word := [0, wd (2 ^ 30), 0, 0, wd (100 * 2 ^ 44 + 1 * 2 ^ 42 + 2 * 2 ^ 32), wd (8192 + 8192 * 65536)]
    mixes (.atw 7) (i 0x10 (15 * 2 ^ 52 + 2 * 2 ^ 3)) 0x10 (fun t => t.mixLane 7 15 7 == 2)
      && mixes (.wmov 7) (i 0x11 (15 * 2 ^ 52)) 0x11 (fun t => t.mixLane 7 15 7 == 3)
      && mixes (.wclr 7) (i 0x12 0) 0x12 (fun t => t.mixLane 7 0 7 == 0)
      && mixes (.bdn 7) (mixing brg (0x14 * 2 ^ 58 + 2 ^ 56 + 15 * 2 ^ 52) m) 0x14 (fun t => t.mixLane 7 15 7 == 15)
      && mixes (.bup 7) (mixing brg (0x15 * 2 ^ 58 + 15 * 2 ^ 52) m) 0x15 (fun t => t.mixLane 7 15 15 == 2)
      && mixes (.mixNop 7) (i 0 0) 0 (fun t => t.mix.smem == []) && gives (.mixEnd 7) (i 1 0) (fun t =>
        (t.mixEng 7).run.map (fun r => r.ended) == some true)) = true := by decide +kernel

/-- RingsSpoolsCarts, rings (R274, R275): a fresh slot, a stale one; a slot written from W and from an accumulator. -/
theorem test_mix_rings : (
    let buf : List Word := [0, wd (2 ^ 52), 0, 0, wd (40 * 2 ^ 44 + 2 * 2 ^ 31)]
    let half : List Word := [0, wd (2 ^ 52), 0, 0, wd (40 * 2 ^ 44 + 2 * 2 ^ 31 + 2 ^ 41)]
    let m : MixEng := { a := [(7, 6)], w := [(7, 3)] }
    let s (op rest : Nat) := mixing buf (op * 2 ^ 58 + rest) m
    let fresh := { s 2 (15 * 2 ^ 52 + 2 ^ 28) with mix := { (s 2 (15 * 2 ^ 52 + 2 ^ 28)).mix with smem := [(40, 2), (41, 77), (49, 2)] } }
    mixes (.rd 7) fresh 2 (fun t => t.mixLane 7 15 0 == 77)
      && mixes (.rd 7) (s 2 (15 * 2 ^ 52)) 2 (fun t => t.mixLane 7 15 0 == 0 && t.get F.MIX_ENG_STALE_CNT.CNT 7 == 1)
      && mixes (.rd 7) { fresh with mix := { fresh.mix with bad := [45] } } 2 (fun t => t.mixLane 7 15 0 == 0 && t.get F.MIX_ENG_STALE_CNT.CNT 7 == 1)
      && mixes (.wr 7) { s 3 0 with mix := { (s 3 0).mix with bad := [51] } } 3 (fun t => t.mix.bad == [])
      && mixes (.wr 7) (mixing half (3 * 2 ^ 58) { w := [(0, 0x7FFFFF), (1, -256), (2, 384)] }) 3 (fun t =>
        t.mix.smem == [(46, 3), (47, 0xFFFF7FFF), (48, 2), (51, 3)])
      && mixes (.wr 7) (s 3 0) 3 (fun t => t.mix.smem == [(50, 3), (58, 3), (59, 3)])
      && mixes (.wra 7) (s 4 (2 * 2 ^ 22)) 4 (fun t => t.mix.smem == [(50, 3), (58, 2), (59, 3)])) = true := by decide +kernel

/-- RingsSpoolsCarts, spools and carts (R287 to R289): a slot queued, a full queue; a write and one that faults; CART. -/
theorem test_spools : (
    let spl : List Word := [0, wd (2 ^ 40), 0, 0, 4096, wd (2 * 2 ^ 4)]
    let x : SpoolSlot := ⟨0, 0, 64, [0x01020304]⟩
    let full : MixEng := { spools := List.replicate 1024 x, carts := List.replicate 64 [] }
    let cart : List Word := [0, wd (2 ^ 23), 0, 0, wd (2 ^ 56), 0, 0, 0, 0, 0, 0, 0]
    let w := 0x18 * 2 ^ 58 + 1 * 2 ^ 12 + 1 * 2 ^ 2
    let q (s : State) := { s with mix := { s.mix with engs := [(7, { spools := [x, x] })] } }
    [(Instr.spl 7, 5), (.splw 7, 6)].all (fun c =>
        mixes c.1 (mixing spl (c.2 * 2 ^ 58) {}) c.2 (fun t => (t.mixEng 7).spools.map (fun y => y.iova) == [4096 + 40])
          && mixes c.1 (mixing spl (c.2 * 2 ^ 58) full) c.2 (fun t => t.get F.MIX_ENG_SPL_DROP_CNT.CNT 7 == 1))
      && gives (.spoolSlotWrite 7) (q (hbmUp up)) (fun t => t.hbm.mem == [(64, 4), (65, 3), (66, 2), (67, 1)])
      && gives (.spoolSlotWrite 7) (q up) (fun t => (t.mixEng 7).spools == [] && (t.mixEng 7).faulted == [0])
      && mixes (.cart 7) (mixing cart w {}) 0x18 (fun t => (t.mixEng 7).carts == [[wd (2 ^ 56), 0, 0, 0, 0, 0, 0, 3]])
      && mixes (.cart 7) (mixing cart w full) 0x18 (fun t => t.get F.MIX_ENG_CART_DROP_CNT.CNT 7 == 1)
      && mixes (.cart 7) (mixing cart (0x18 * 2 ^ 58 + 1 * 2 ^ 12) {}) 0x18 (fun t => (t.mixEng 7).carts == [])) = true := by decide +kernel

/-- MixBlocks (R270, R295, R298): a tick of an idle engine, of one with an image due, of one that runs; the block's end. -/
theorem test_blocks : (
    let s (l : List (RFld × Nat × Nat)) (m : MixEng) : State :=
      { (set up ([(F.MIX_CFG.EN, 0, 1), (F.MIX_ENG_CTL.EN, 7, 1)] ++ l)).setTb 0 ⟨0, 4000000 * 2 ^ 48, 0⟩ with
        mix := { up.mix with engs := [(7, m)] } }
    let on := (F.MIX_ENG_STATUS.ACT_VALID, 7, 1)
    let ends (n : Nat) : MixEng := { run := some { block := 3, ended := true, cycles := 9 }, tick := some n, passed := 3, first := true }
    (s [] {}).mixBlock == 4 && gives (.mixTick 7) (s [on] {}) (fun t => (t.mixEng 7).run == some { block := 4 }
        && t.isSet F.MIX_ENG_STATUS.RUNNING 7)
      && gives (.mixTick 7) (s [(F.MIX_ENG_STATUS.PEND, 7, 1), (F.MIX_ENG_START_BLK.BLK, 7, 4)] {}) (fun t =>
        (t.mixEng 7).swaps == 1 && t.get F.MIX_ENG_STATUS.ACT_SLOT 7 == 0 && (t.mixEng 7).run == some { block := 4 })
      && gives (.mixTick 7) (s [on] { run := some { block := 3 } }) (fun t => t.get F.MIX_ENG_OVR_CNT.CNT 7 == 1)
      && gives (.mixTick 7) up (fun t => t == up)
      && gives (.blockEnd 7) (s [on] (ends 3)) (fun t => (t.mixEng 7).run == none && t.get F.MIX_ENG_CYC_MAX.MAX 7 == 9)
      && gives (.blockEnd 7) (s [on] (ends 5)) (fun t => (t.mixEng 7).run == some { block := 5 } && t.get F.MIX_ENG_SKIP_CNT.CNT 7 == 1)
      && gives (.blockEnd 7) (mixing bare 0 {}) (fun t => t == mixing bare 0 {})) = true := by decide +kernel

/-- MixControl, ARM and DISARM (R291 to R294): an image of one END, with its CRC-32; a bad CHECK; too near; BUSY. -/
theorem test_arm : (
    let img := [wd (0x5658 * 2 ^ 48 + 2 ^ 40 + 2 ^ 16), 0, 0x5EB0808E, 0, wd (2 ^ 58)]
    let s := { up with mix := { up.mix with engs := [(7, { prog := Tbl.putList 0 [] 0 img })] } }
    let far := set s [(F.MIX_ENG_SWAP_IDX.IDX, 7, 3 * 48)]
    let busy := set s [(F.MIX_ENG_STATUS.PEND, 7, 1)]
    let r (c : Instr) (s : State) (k : Nat) := gives c s fun t => t.get F.MIX_ENG_CMD_STATUS.RESULT 7 == k
    (⟨(s.mixEng 7).prog, s.idleSlot 7 * 32768⟩ : Image).badWord == none && r (.arm 7) busy 4 && r (.arm 7) up 1 && r (.arm 7) s 3
      && gives (.arm 7) far (fun t => t.isSet F.MIX_ENG_STATUS.PEND 7 && t.get F.MIX_ENG_START_BLK.BLK 7 == 3)
      && r (.disarm 7) s 5 && gives (.disarm 7) busy (fun t => !t.isSet F.MIX_ENG_STATUS.PEND 7)) = true := by decide +kernel

/-- MixControl, loads and windows (R274, R293, R297): the last address of each wraps. -/
theorem test_mix_windows : (
    let s := set up [(F.MIX_ENG_LOAD_ADDR.ADDR, 7, 32767), (F.MIX_SMEM_ADDR.ADDR, 0, 2 ^ 20 - 1)]
    let busy := set s [(F.MIX_ENG_STATUS.PEND, 7, 1)]
    gives (.mixEngLoadDataWrite 7 5) s (fun t => (t.mixEng 7).prog == [(32767, 5)] && t.get F.MIX_ENG_LOAD_ADDR.ADDR 7 == 0)
      && gives (.mixEngLoadDataWrite 7 5) busy (fun t => t.isSet F.MIX_ENG_STATUS.LOAD_ERR 7 && t.mix == s.mix)
      && gives (.mixEngLoadDataRead 1 7) s (fun t => t.get F.MIX_ENG_LOAD_ADDR.ADDR 7 == 0)
      && gives (.parameterWrite 7 4095 0x18000) s (fun t => (t.mixEng 7).param == [(4095, 0x8000)] && (t.mixEng 7).used == [])
      && gives (.mixEngCtlWrite 7 1) s (fun t => t.isSet F.MIX_ENG_CTL.EN 7 && (t.mixEng 7).passed == s.mixBlock)
      && gives (.mixSmemDataAccess 1 true 5) s (fun t => t.mix.smem == [(2 ^ 20 - 1, 5)] && t.get F.MIX_SMEM_ADDR.ADDR 0 == 0)
      && gives (.mixSmemDataAccess 1 false 5) s (fun t => t.mix == s.mix && t.get F.MIX_SMEM_ADDR.ADDR 0 == 0)) = true := by decide +kernel

/-- ProductRemoved (R280): lane 7 of 8 holds 5, times 3 by the last parameter, and by a ramp from 8 to 16. -/
theorem test_product_removed : (
    let m (a : Int) : MixEng := { a := [(55, BitVec.ofInt 48 a)], w := [(7, 3)], used := [(4095, 16384)] }
    let i (op rest : Nat) (a : Int) := mixing bare (op * 2 ^ 58 + 2 ^ 45 + rest) (m a)
    let one := 2 ^ 41 + 4095 * 2 ^ 25
    let two := 8 * 2 ^ 25 + 16 * 2 ^ 9
    let p := 3 * 16
    let acc (t : State) (x : Int) := t.mixAcc 7 1 7 == x
    mixes (.mixMac 7) (i 0x0C one 5) 0x0C (fun t => acc t (5 + 3 * 16384))
      && mixes (.mixMsu 7) (i 0x0D one (5 + 3 * 16384)) 0x0D (fun t => acc t 5)
      && mixes (.macr 7) (i 0x0E two 5) 0x0E (fun t => acc t (5 + p))
      && mixes (.msur 7) (i 0x0F two (5 + p)) 0x0F (fun t => acc t 5)) = true := by
  decide +kernel

/-! ## Video

Where the stream or ladder of a cart is a free value (log 46), a test gives what holds for one value of it. -/

/-- A record of n words with fields set. -/
def record (n : Nat) (l : List (RecF × Nat)) : List Word := l.foldl (fun ws x => wordsSet ws x.1 x.2) (List.replicate n 0)

/-- Engine e runs a cart; words stand at offset o of HBM. -/
def engine (ty e : Nat) (w : List Word) (o : Nat) (r : List Word) : State :=
  bytes (store (hbmUp up) [{ seq := 99, words := wd (ty * 2 ^ 56) :: w, st := .running, unit := e }]) o (wordBytes r)

/-- The cart that engine runs. -/
def cart (ty e : Nat) (w : List Word) : Cart := { seq := 99, words := wd (ty * 2 ^ 56) :: w, st := .running, unit := e }

/-- Cart 99 has ended with a status. -/
def ended (t : State) (k : Nat) : Bool := (t.cart 99).map (fun d => (d.st, d.status)) == some (.ended, k)

/-- A stream record in range. -/
def stream5 : List (RecF × Nat) := [(DRec.NPIC, 24), (DRec.LOG2_BSB, 24), (DRec.PITCH, 32)]

/-- The engine's work on stream n of a state. -/
def decAt (s : State) (e n : Nat) : Dec :=
  let rd := ({ st := s, q := s.decSrc e } : Vio).words (s.decRecord n) 16
  { io := rd.2, stream := n, recw := rd.1, ds := Tbl.at {} rd.2.st.vid.streams n, eng := e }

/-- DecodeCarts (R309, R318): a cart of the last engine is found; the record of stream 5 read whole, in and out of range. -/
theorem test_stream_records : (
    let s (op : Nat) (l : List (RecF × Nat)) := set (engine 0x10 63 [wd op] 640 (record 16 l)) [(F.VDEC_STBL.LOG2_N, 0, 20)]
    let d (op : Nat) (l : List (RecF × Nat)) := decAt (s op l) 63 5
    let o (op : Nat) := d op ((DRec.OPEN, 1) :: stream5)
    let two : List DecFrame := [{ ts := 1, sl := 0, pkts := [] }, { ts := 2, sl := 0, pkts := [] }]
    let f := two.foldl (fun y f => (y.close f).lose 0) { o 3 with ds := { frames := two } }
    !(s 2 []).err.clkStopped && readyCheck (s 2 []) && [2, 3, 4, 5].all (fun op => (s op []).engineOp 1 63 op == some (cart 0x10 63 [wd op])
        && (d op []).io.ok && (d op []).get DRec.OPEN == 0 && (o op).get DRec.OPEN == 1)
      && badStream ((d 2 []).recw.take 7) && !badStream ((d 2 stream5).recw.take 7)
      && f.ds.frames == [] && f.get DRec.LOST_CNT == 2 && f.get DRec.BROKEN == 1 && f.writeBack.io.ok
      && ((d 2 stream5).map fun u => { u with freeCtr := u.freeCtr + 1 }).writeBack.io.ok
      && ((o 4).set DRec.OPEN 0).writeBack.io.ok && ((o 5).io.read 4096 100).2.ok) = true := by decide +kernel

/-- DecodeCarts, packets (R309): no such stream, one that is not open, a stale generation, a forged packet. -/
theorem test_packet_carts : (
    let w : List Word := [1, wd (7 * 2 ^ 11 + 8), 5, 0, 0, 0, 0]
    let s (l : List (RecF × Nat)) := set (engine 0x11 63 w 640 (record 16 (stream5 ++ l))) [(F.VDEC_STBL.LOG2_N, 0, 3)]
    let p : Cart := { cart 0x11 63 w with pkt := some 9 }
    let forged := s [(DRec.OPEN, 1), (DRec.SCID, 7), (DRec.GEN, 1)]
    let packet : Pkt := { tag := [wd (2 ^ 58), 0, 0, 0], cells := [], holds := 1, l4 := 42, pay := 0, extSeq := 0, extTs := 0 }
    let held := { forged with tm := { forged.tm with pkts := [(9, some packet)] } }
    decStream p == 5 && ((p.pkt.bind held.pkt).map fun k => k.is Tag.AUTH_FAIL) == some true &&
      (s []).engineOp 1 63 1 == some (cart 0x11 63 w)
      && gives (.packet 63) (s []) (fun t => (t.cart 99).map (fun d => d.st) == some .ended && t.get F.VDEC_ENG_ERR_CNT.CNT 63 == 1
        && t.hbm == (s []).hbm)
      && gives (.packet 63) (set (s []) [(F.VDEC_STBL.LOG2_N, 0, 2)]) (fun t => t.get F.VDEC_ENG_ERR_CNT.CNT 63 == 1)
      && gives (.packet 63) (s [(DRec.OPEN, 1), (DRec.SCID, 7), (DRec.GEN, 2)]) (fun t => t.get F.VDEC_ENG_ERR_CNT.CNT 63 == 1)
      && (decAt held 63 5).writeBack.io.ok && gives (.packet 63) { held with work := { held.work with store := [p] } } (fun t =>
        ended t 0 && t.get F.VDEC_ENG_PKT_CNT.CNT 63 == 1)) = true := by
  decide +kernel

/-- An RTP packet of M bit m whose payload is a list of bytes. -/
def rtpOf (m : Nat) (pay : List Byte) : List Byte := [0x80, BitVec.ofNat 8 (m * 128 + 96), 0, 1, 0, 0, 0, 0, 0, 0, 0, 0] ++ pay

/-- DecodeCarts, packets of each codec (R310): a slice, STAP-A, FU-A start and end, a reserved type; H.265 single, AP, FU; VP8
start of a frame; VP9 start and end; nothing of an empty payload. -/
theorem test_depacketize : (
    let p (codec m : Nat) (pay : List Byte) := depacketize codec 0 none none (rtpOf m pay)
    let is (x : Piece) (good first last : Bool) (bs : List Byte) := x.good == good && (!good || (x.first == first && x.last == last && x.bytes == bs))
    is (p 0 0 [0x41, 0x9A]) true true false [0, 0, 0, 1, 0x41, 0x9A] && is (p 0 1 [0x41, 0x1A]) true false true [0, 0, 0, 1, 0x41, 0x1A]
      && is (p 0 0 [0x78, 0, 2, 0x67, 0x42, 0, 1, 0x68]) true true false [0, 0, 0, 1, 0x67, 0x42, 0, 0, 0, 1, 0x68]
      && is (p 0 0 [0x78, 0, 3, 0x67, 0x42]) false false false []
      && is (p 0 0 [0x7C, 0x85, 0x88]) true true false [0, 0, 0, 1, 0x65, 0x88] && is (p 0 1 [0x7C, 0x45, 7, 8]) true false true [7, 8]
      && is (p 0 0 [0x1E]) false false false [] && is (p 0 0 [0x6E, 1, 2]) true false false []
      && is (p 1 0 [0x26, 1, 0x80]) true true false [0, 0, 0, 1, 0x26, 1, 0x80]
      && is (p 1 0 [0x60, 1, 0, 3, 0x40, 1, 9, 0, 3, 0x42, 1, 9]) true true false [0, 0, 0, 1, 0x40, 1, 9, 0, 0, 0, 1, 0x42, 1, 9]
      && is (p 1 0 [0x62, 1, 0x93, 0x80]) true true false [0, 0, 0, 1, 0x26, 1, 0x80]
      && is (p 1 1 [0x62, 1, 0x53, 5]) true false true [5]
      && is (p 2 1 [0x10, 0xAA]) true true true [0xAA] && is (p 2 0 [0x90, 0x80, 0x85, 1, 0xAA]) true true false [0xAA]
      && is (p 3 0 [0x0C, 0xAA]) true true true [0xAA]
      && [0, 1, 2, 3].all (fun c => !(p c 0 []).good)) = true := by decide +kernel

/-- DecodeCarts, AssemblyHoldsTwo (R311, R312): a packet of a frame that is over counts late; one of a frame in assembly joins
it; one of no structure of the codec ends it, where the engine's own areas take no access. -/
theorem test_assembly (hr : ∀ n k, Config.areaReads n k = []) (hw : ∀ n k, Config.areaWrites n k = []) : (
    let s := engine 0x10 63 [1] 640 (record 16 ((DRec.OPEN, 1) :: stream5))
    let two : List DecFrame := [{ ts := 1, sl := 0, pkts := [] }, { ts := 2, sl := 0, pkts := [] }]
    let d := { decAt s 63 5 with ds := { frames := two, past := [(7, 0)] } }
    let slice := rtpOf 0 [0x41, 0x9A]
    (d.assemble 7 0 1 0 slice).ds == d.ds && (d.assemble 7 0 1 0 slice).get DRec.LATE_CNT == 1
      && (d.assemble 2 0 1 5 slice).writeBack.io.ok && ((d.assemble 2 0 1 5 slice).ds.frames.map fun f => (f.ts, f.ingress, f.pkts)) ==
        [(1, 0, []), (2, 5, [(1, true, false, [0, 0, 0, 1, 0x41, 0x9A])])]
      && ((d.assemble 2 0 1 5 (rtpOf 0 [0x1E])).ds.frames.map fun f => f.ts) == [1]) = true := by
  simp only [Dec.assemble, Vio.touch, Vio.look, hr, hw, List.filter_nil, List.foldl_nil]
  decide +kernel

/-- A ladder record in range: MODE 1, 64 by 64, 60 frames a second. -/
def ladder5 : List (RecF × Nat) :=
  [(LRec.MODE, 1), (LRec.SRC_W, 64), (LRec.SRC_H, 64), (LRec.FPS, 60), (LRec.MAX_PAY, 175), (LRec.CTX_BASE, 0x40000)]

/-- Engine 31 runs a cart of an opcode on ladder 5, whose record is r; the source at 0x10000 has word 0 and word 7. -/
def encoder (op : Nat) (w2 : Word) (r : List (RecF × Nat)) (w0 w7 : Word) : State :=
  let s := engine 0x30 31 [wd op, w2, 0x10000, 0, 2, 0, 77] 640 (record 16 r)
  bytes s 0x10000 (wordBytes [w0, pictureWord1 64 64 1 0 1, 0, 0, 0, 0, 0, w7])

/-- The cart of encoder. -/
def encCart (op : Nat) (w2 : Word) : Cart := cart 0x30 31 [wd op, w2, 0x10000, 0, 2, 0, 77]

/-- EncodeCarts, ladders (R320, R323): records in and out of range; a hint entry of the last ladder; VENC_KF_CMD. -/
theorem test_ladders : (
    let s (op : Nat) (r : List (RecF × Nat)) := encoder op 0 r 77 77
    let rd (r : List (RecF × Nat)) := ((s 0x20 r).encIo 31).words ((s 0x20 r).ladderRecord 5) 7
    let w := ((s 0x22 ladder5).encIo 31).word 704
    let x := { up with fwd := { up.fwd with hints := [(31 * 256 + 255, some ⟨[1, 2, 3], 5⟩)] } }
    [0x20, 0x22].all (fun op => (s op []).engineOp 3 31 op == some (encCart op 0)) && (rd []).2.ok && badLadder (rd []).1
      && !badLadder (rd ladder5).1 && ((rd ladder5).2.put 704 [1, 0, 0, 0, 0, 0, 0, 0]).ok && (w.2.put 704 [0]).ok
      && gives (.hintEntryMove 31 255) x (fun t => t.hintEnt 8191 == ⟨[1, 2, 3], 5⟩ && t.fwd.hints == [])
      && gives (.vencKfCmdWrite (wd (31 * 2 ^ 16 + 255 * 2 ^ 8 + 6))) up (fun t => (t.hintEnt 8191).pend == 6)) = true := by
  decide +kernel

/-- EncodeCarts, sources (R321): a record that is not open; an open one with its source whole, or torn; a follower that is
in time and one that is not. -/
theorem test_sources_of_encode (hr : ∀ n k, Config.areaReads n k = []) (hw : ∀ n k, Config.areaWrites n k = []) : (
    let s := encoder 0x21 0 ((LRec.OPEN, 1) :: ladder5) 77 77
    let rd (s : State) := (s.encIo 31).words (s.ladderRecord 5) 16
    let j : EncJob := { seq := 99, ladder := 5, record := 640, words := (rd s).1, hint := (rd s).2.st.hintEnt 5, start := s.clock }
    let look (w0 w7 : Word) :=
      let u := (encoder 0x21 0 ((LRec.OPEN, 1) :: ladder5) w0 w7).setJob 31 (some j)
      let w0 := (u.encIo 31).word 0x10000
      let w7 := w0.2.word (0x10000 + 56)
      let w1 := w7.2.word (0x10000 + 8)
      (w0.1, w7.1, w1)
    let w1 := (look 77 77).2.2
    let late (n : Nat) := { encoder 0x21 (wd (2 ^ 39)) [] 0 0 with clock := n, vid := { up.vid with jobs := [(31, some { j with start := 0 })] } }
    s.encJob 31 == none && s.engineOp 3 31 0x21 == some (encCart 0x21 0) && encFrameId (encCart 0x21 0) == 77
      && cartIova (encCart 0x21 0) 3 == 0x10000 && wordsGet (rd s).1 LRec.OPEN == 1
      && wordsGet (rd (encoder 0x21 0 [] 0 0)).1 LRec.OPEN == 0 && (rd s).2.ok
      && w1.2.ok && !srcMismatch j w1.1 && (look 77 77).1 == 77 && (look 77 77).2.1 == 77 && (look 77 78).2.1 == 78
      && ((w1.2.readPicture 0x10000 64 64 1).2.touch 0x40000 (ladderArea j.words)).ok
      && followTime (encCart 0x21 (wd (2 ^ 39))) == 2000000 && (late 2000000).encJob 31 == some { j with start := 0 }
      && gives (.encodeSrcTimeout 31) (late 2000000) (fun t => (t.cart 99).map (fun d => d.st) == some .ended)
      && gives (.encodeSrcTimeout 31) (late 1999999) (fun t => t == late 1999999)) = true := by
  simp only [Vio.touch, Vio.look, hr, hw, List.filter_nil, List.foldl_nil]
  decide +kernel

/-- EncodeCarts, acceptance (R322, R326): a torn source; a full injection queue; the last packet in. -/
theorem test_acceptance_of_encode : (
    let j : EncJob := { seq := 99, ladder := 5, record := 640, words := [], hint := {}, start := 0, got := true }
    let x : EncDone := ⟨[1, 2, 3], { since := 4 }, 3, 5⟩
    let s (j : EncJob) (w7 : Word) :=
      let u := encoder 0x21 0 ladder5 77 w7
      { u with vid := { u.vid with jobs := [(31, some j)], hints := [(5, ⟨[0, 0, 0], 7⟩)] } }
    let i : Inj := ⟨0, [], 0⟩
    let full := s { j with done := some x, out := [i] } 77
    let held := { full with ing := { full.ing with injq := [(0, List.replicate 256 i)] } }
    readyCheck (s j 77) && (s j 77).encJob 31 == some j && gives (.encodeFrameAccept 31) (s j 78) (fun t => t.vid.jobs == []
        && t.get F.VENC_ENG_DISC_CNT.CNT 31 == 1 && Tbl.at 0 t.hbm.mem (640 + 88) == 1)
      && injDepth ≤ (Tbl.at [] held.ing.injq 0).length && gives (.encodeFrameAccept 31) held (fun t => t == held)
      && gives (.encodeFrameAccept 31) (s { j with done := some x } 77) (fun t => t.vid.jobs == []
        && (t.hintEnt 5).pend == 4 && t.get F.VENC_ENG_FRM_CNT.CNT 31 == 1)) = true := by
  decide +kernel

/-- A layout record in range: 64 by 64, a store of 3 pictures, layers 0 and 1 of the whole output. -/
def layout5 (bits : List (RecF × Nat)) : List Word :=
  let l (z : Nat) := (record 8 [(Lay.EN, 1), (Lay.Z, z), (Lay.DST_W, 64), (Lay.DST_H, 64), (Lay.FILL_Y, 100), (Lay.ALPHA, 255)])
  let r := record 128 ([(CRec.OUT_W, 64), (CRec.OUT_H, 64), (CRec.OUT_PITCH, 1), (CRec.NSTORE, 3), (CRec.STORE_BYTES, 28672),
    (CRec.STORE_BASE, 0x10000), (CRec.STORE_PUB, 0x8000)] ++ bits)
  r.take 8 ++ l 6 ++ l 7 ++ r.drop 24

/-- Engine 15 runs a cart of an opcode on layout n; the record of layout 5. -/
def composer (op n : Nat) (r : List Word) : State :=
  set (engine 0x20 15 [wd op, wd n, 0, 0, 0, 0, 77] 5120 r) [(F.CMP_LTBL.LOG2_N, 0, 3)]

/-- LayoutCarts (R330, R332, R334): malformed, no such layout, out of range, opened, closed, not open; coefficients. -/
theorem test_layouts : (
    let o := layout5 [(CRec.OPEN, 1)]
    let e (op n k : Nat) (i : Instr) (r : List Word) := (composer op n r).engineOp 2 15 op == some (cart 0x20 15 [wd op, wd n, 0, 0, 0, 0, 77])
      && gives i (composer op n r) fun t => (t.cart 99).map (fun d => (d.st, d.status, d.result)) == some (.ended, b2n (decide (k ≠ 0)), wd k)
    let c (a : Nat) := set up [(F.CMP_COEF_ADDR.ADDR, 0, a)]
    let ops : List (Nat × Instr) := [(0x40, .cmpOpen 15), (0x41, .compose 15), (0x42, .cmpClose 15)]
    readyCheck (composer 0x41 5 o) && !badLayout (layout5 []) && badLayout (record 128 []) && ops.all (fun x => e x.1 (2 ^ 14 + 5) 3 x.2 o && e x.1 8 1 x.2 o)
      && e 0x40 5 1 (.cmpOpen 15) (record 128 []) && e 0x40 5 0 (.cmpOpen 15) (layout5 []) && e 0x42 5 0 (.cmpClose 15) o
      && e 0x41 5 2 (.compose 15) (layout5 []) && e 0x41 5 1 (.compose 15) (record 128 [(CRec.OPEN, 1)])
      && (composer 0x41 5 o).cmpBusy && !up.cmpBusy
      && gives (.cmpCoefDataWrite 9) (c 3071) (fun t => t.vid.coef == [(3071, 9)] && t.get F.CMP_COEF_ADDR.ADDR 0 == 0)
      && gives (.cmpCoefDataWrite 9) (composer 0x41 5 o) (fun t => t.isSet F.CMP_COEF_STATUS.COEF_ERR 0)
      && gives (.cmpCoefDataRead 7) { c 3071 with vid := { up.vid with coef := [(3071, 9)] } } (fun t => t.hart.resp == [(7, 9)])) = true := by
  decide +kernel

/-- LayoutCarts: the premise of COMPOSE, every access of a frame succeeds. -/
theorem test_compose : (
    let s := composer 0x41 5 (layout5 [(CRec.OPEN, 1)])
    let rd := ({ st := s, q := ⟨2, 15, 0, 15⟩ } : Vio).words 5120 128
    (rd.2.makeFrame (cart 0x20 15 [wd 0x41, wd 5, 0, 0, 0, 0, 77]) 5120 rd.1).io.ok) = true := by
  decide +kernel

/-! ## HBM -/

/-- HBM of pseudo-channel 63 alone, in a state; EN as given. -/
def pc63 (st en : Nat) : State :=
  set up [(F.HBM_STATUS.NPC, 0, 1), (F.HBM_PC_MASK.MASK, 0, 2 ^ 63), (F.HBM_PC_STATE.STATE, 63, st), (F.HBM_CTL.EN, 0, en)]

/-- The requests that wait. -/
def waits (s : State) (l : List HbmReq) : State := { s with hbm := { s.hbm with waiting := l } }

/-- HbmUpkeep, service (R352, R361, R364): EN set or not; the scrub at the last granule; a refresh issued or owed. -/
theorem test_service : (
    let scrub := set { pc63 2 1 with hbm := { up.hbm with scrubPos := 0x2FFFFF } } [(F.HBM_SCRUB_CFG.HOURS, 0, 1)]
    let off := set up [(F.HBM_SCRUB_CFG.HOURS, 0, 0)]
    let r : HbmReq := { req0 with target := 5 }
    let u := set { waits (pc63 2 1) [r] with clock := 5 } [(F.HBM_REF_CFG.POSTPONE_MAX, 0, 8)]
    let owe (n : Nat) := { u with hbm := { u.hbm with owed := [(63, n)] } }
    pcBytes / 256 == 0x300000 && gives (.hbmCtlWrite 1) (pc63 2 0) (fun t => t.isSet F.HBM_CTL.EN 0 && t.get F.HBM_STATUS.NPC 0 == 1)
      && [(2, 1), (1, 0)].all (fun x => gives (.hbmCtlWrite 1) (pc63 x.1 x.2) fun t => t == pc63 x.1 x.2)
      && (List.range 8).all (fun i => Tbl.at 0 scrub.hbm.ue ((0x2FFFFF) * 8 + i) == 0)
      && gives (.patrolScrub true) scrub (fun t => t.hbm.scrubPos == 0 && t.get F.HBM_PC_CE_CNT.CNT 63 == 1)
      && gives (.patrolScrub true) off (fun t => t == off)
      && gives (.refresh 63) { pc63 2 1 with hbm := { up.hbm with owed := [(63, 8)] } } (fun t => t.hbm.owed == [])
      && u.urgentWaits 63 && gives (.refresh 63) (owe 7) (fun t => t.hbm.owed == [(63, 8)])) = true := by
  decide +kernel

/-- HbmUpkeep, helpers (R365, R367, R368): the last pseudo-channel in each state that allows one, and in one that does not. -/
theorem test_training : (
    let ok (c : Instr) (s : State) (p : State → Bool) := gives c s fun t => t.get F.HBM_TRN_STATUS.RESULT 0 == 0 && p t
    let no (st : Nat) (c : Instr) := gives c (pc63 st 1) fun t => t.get F.HBM_TRN_STATUS.RESULT 0 == 1
    let other := set (pc63 2 1) [(F.HBM_PC_STATE.STATE, 5, 3)]
    let lanes := 2 ^ 38 - 1
    [1, 3].all (fun st => ok (.readTrain 63 lanes true) (pc63 st 1) (fun t => t.get F.HBM_TRN_STATUS.LANE_ERR 0 == lanes)
        && ok (.applyRepair 63) (pc63 st 1) (fun t => t.hbm.repaired == [63])
        && ok (.online 63) (pc63 st 1) (fun t => t.get F.HBM_PC_STATE.STATE 63 == 2))
      && (pc63 1 1).enabledPcs == [63] && [0, 2, 4].all (fun st =>
        [Instr.readTrain 63 lanes true, .writePattern 63 true, .readCompare 63 lanes true, .applyRepair 63, .online 63].all (no st))
      && ok (.retrain 63) (pc63 2 1) (fun t => t.get F.HBM_PC_STATE.STATE 63 == 3) && no 3 (.retrain 63)
      && gives (.retrain 63) other (fun t => t.get F.HBM_TRN_STATUS.RESULT 0 == 1)
      && [2, 3].all (fun st => (pc63 st 1).get F.HBM_PC_STATE.STATE 63 == st && (pc63 st 1).isSet F.HBM_CTL.EN 0)
      && [0, 1, 4].all (fun st => no st (.offline 63))
      && gives (.offline 63) (pc63 2 0) (fun t => t.get F.HBM_TRN_STATUS.RESULT 0 == 1)) = true := by
  decide +kernel

/-- HbmUpkeep, READ_COMPARE (R365): the premise of no lane in error, a region that holds its pattern, for one pattern. -/
theorem test_compare (h : ∀ seed pat i, Config.trainPattern seed pat i = 0) (i : Nat) :
    Tbl.at 0 (pc63 1 1).hbm.mem ((pc63 1 1).ofLocal 63 i) = Config.trainPattern 0 0 i := (h 0 0 i).symm

/-- HbmRequests, MemoryReadsBack (R355, R360, R367): the last bytes of HBM; a full port, and one place left. -/
theorem test_requests : (
    let s := pc63 2 1
    let last : HbmReq := { req0 with port := 11, addr := 2 ^ 40 + 0x2FFFFFFC }
    let off := last.addr - hbmBase
    let wr : HbmReq := { last with write := true, data := [1, 2, 3, 4] }
    let full := waits (pc63 3 1) (List.replicate 4 last)
    pcBytes == 0x30000000 && s.inHbm last.addr 4 && (s.pcOf off).1 == 63
      && (burstsOf off 4).all (fun b => s.burstState b == 2 && Tbl.at 0 s.hbm.ue b == 0)
      && (s.physWrite 11 0 last.addr [1, 2, 3, 4]).st.hbm.mem == [(off, 1), (off + 1, 2), (off + 2, 3), (off + 3, 4)]
      && gives (.hbmRequest 63 [last]) (pc63 3 1) (fun t => t.hbm.waiting.length == 1 && t.hbm.served == none)
      && gives (.hbmRequest 63 [wr]) s (fun t => t.get F.HBM_PORT_WR_CNT.CNT 11 == 1)
      && full.portFull 11 && gives (.hbmRequest 63 [last]) full (fun t => t == { full with hbm := { full.hbm with gate := [last] } })
      && full.rst.refclk && goes (step full) (fun t => t.get F.HBM_PORT_HOLD_CNT.CNT 11 == cyclesOf (portClock 11) 0)
      && (pc63 3 1).burstState (off / 32) == 3 && !(pc63 3 1).inL2 (off / 32)
      && ((pc63 3 1).physRead 11 0 last.addr 4).st.hbm.blocked.isSome
      && { s with hbm := { s.hbm with l2 := [(last.addr / 64, List.replicate 64 0)] } }.inL2 (off / 32)
      && gives (.hbmRequest 63 [last]) (waits (pc63 3 1) (List.replicate 3 last)) (fun t => t.hbm.waiting.length == 4)) = true := by
  decide +kernel

/-- OverlapsInOrder (R355, R357): of two that overlap in one byte only the first may be served, though the second is urgent. -/
theorem test_overlap : (
    let s := pc63 2 1
    let a : HbmReq := { req0 with target := 100 }
    let b : HbmReq := { req0 with port := 3, addr := 2 ^ 40 + 3, prio := 3 }
    let c : HbmReq := { b with addr := 2 ^ 40 + 4 }
    s.servable 63 [] [a, b] == [a] && s.servable 63 [] [a, c] == [a, c] && s.urgency c == 3 && s.urgency a == 0) = true := by
  decide +kernel

theorem choose_of_servable (s : State) (pc : Nat) (r : HbmReq) (hs : s.servable pc [] s.hbm.waiting = [r]) :
    s.choose pc = some r := by
  cases hh : s.rowHit pc r <;> cases hp : decide (16 ≤ r.passed) <;> simp_all [State.choose]

/-- The premise of OverlapsInOrder: a request that waits alone is chosen. -/
theorem test_choose : (waits (pc63 2 1) [req0]).choose 63 = some req0 :=
  choose_of_servable _ _ _ (by decide +kernel)

/-- IommuAndDma, the IOMMU (R374, R376): an entry of domain 511 that maps the last page; a full fault queue, and room. -/
theorem test_iommu : (
    let c : CacheEnt := ⟨511, 3, 2 ^ 36 - 1, wd (2 ^ 40 + 15)⟩
    let s := set { up with iom := { up.iom with cache := [c, { c with domain := 510 }] } } [(F.IOM_CMD_IOVA.IOVA, 0, 2 ^ 36 - 1)]
    let go := set s [(F.IOM_CMD.GO, 0, 1)]
    let fq (n : Nat) := { up with iom := { up.iom with fq := [(511, List.replicate n [1, 2, 3, 4])] } }
    let f (n : Nat) := (fq n).iomFault ⟨2, 15, 511, 15⟩ (2 ^ 48 - 1) true ⟨1, 0, 0⟩
    gives .invAll s (fun t => t.iom.cache == []) && gives (.invDom 511) s (fun t => t.iom.cache.map (fun c => c.domain) == [510])
      && gives (.invRange 511) s (fun t => t.iom.cache.map (fun c => c.domain) == [510])
      && [Instr.invAll, .invDom 511, .invRange 511].all (fun i => gives i go fun t => t == go)
      && gives .invalidateDone go (fun t => !t.isSet F.IOM_CMD.GO 0)
      && gives (.iomFqPop 511 1) (fq 64) (fun t => (Tbl.at [] t.iom.fq 511).length == 63)
      && (f 64).get F.IOM_FQ_LOST_CNT.CNT 511 == 1 && (Tbl.at [] (f 63).iom.fq 511).length == 64) = true := by
  decide +kernel

/-- IommuAndDma, channels (R378, R379): each state of the last channel; a copy and a fill of 4 bytes; one that faults. -/
theorem test_dma : (
    let ch (st : Nat) (l : List (RFld × Nat × Nat)) := set (bytes (hbmUp up) 0 [1, 2, 3, 4]) ([(F.HBM_DMA_STATUS.STATE, 15, st),
      (F.HBM_DMA_STATUS.BYTES_DONE, 15, 0), (F.HBM_DMA_LEN.LEN, 15, 4), (F.HBM_DMA_DST.DST, 15, 2 ^ 21 - 4)] ++ l)
    let state (c : Instr) (s : State) (k : Nat) := gives c s fun t => t.get F.HBM_DMA_STATUS.STATE 15 == k
    let copy := ch 1 []
    let fill := ch 1 [(F.HBM_DMA_CFG.OP, 15, 1), (F.HBM_DMA_SRC.SRC, 15, 0x0807060504030201)]
    let wild := set fill [(F.HBM_DMA_DST.DST, 15, 2 ^ 21)]
    let at_ (t : State) := Tbl.getList 0 t.hbm.mem (2 ^ 21 - 4) 4
    [0, 2, 3, 4, 5].all (fun st => state (.start 15) (ch st []) 1) && state (.start 15) (ch 6 [(F.HBM_DMA_LEN.LEN, 15, 0)]) 6
      && state (.start 15) copy 1 && [3, 4].all (fun st => state (.resume 15) (ch st []) 1) && state (.resume 15) (ch 5 []) 5
      && gives (.abort 15) copy (fun t => t.iom.abort == [(15, true)]) && gives (.abort 15) (ch 2 []) (fun t => t == ch 2 [])
      && gives (.dmaChunk 15) (ch 2 []) (fun t => t == ch 2 [])
      && gives (.dmaChunk 15) copy (fun t => at_ t == [1, 2, 3, 4] && t.get F.HBM_DMA_STATUS.STATE 15 == 2)
      && gives (.dmaChunk 15) fill (fun t => at_ t == [1, 2, 3, 4] && t.get F.HBM_DMA_STATUS.BYTES_DONE 15 == 4)
      && (wild.translate 0 (2 ^ 21) true).1.toOption == none && state (.dmaChunk 15) wild 3) = true := by
  decide +kernel

/-! ## The control complex, the root of trust, errors -/

/-- Queue 63 enabled, of 4 entries, with items; producer 14 has an item for it on its way; reads stall. -/
def queue63 (en : Nat) (is : List (List Word)) (item : List Word) (ws : List Stall) : State :=
  let s := set up [(F.CTL_EVQ_CFG.LOG2_SIZE, 63, 2), (F.CTL_EVQ_CFG.EN, 63, en)]
  { s with ctl := { s.ctl with items := [(63, is)], crossing := [(14, [(63, item)])], stalls := ws } }

/-- EventQueues, QueueMakesRoom (R406, R409, R410): a disabled queue, an item larger than it, one that fits exactly, one that
displaces two, one that a stalled read takes, where the part writes nothing in a queue's storage. -/
theorem test_arrival (h : ∀ n k, Config.queueWrites n k = []) : (
    let two : List Word := [7, 8, 9, 10]
    let four : List Word := List.replicate 8 1
    let s (en : Nat) (item : List Word) := queue63 en [two, [1, 2], [3, 4]] item []
    let post (s : State) := gives (.eventItemPost 14) s
    post (s 0 two) (fun t => t.items 63 == [two, [1, 2], [3, 4]] && t.ctl.crossing == [])
      && post (s 1 (four ++ two)) (fun t => t.get F.CTL_EVQ_LOST_CNT.CNT 63 == 1 && t.items 63 == [two, [1, 2], [3, 4]])
      && post (queue63 1 [two, [1, 2]] [5, 6] []) (fun t => t.items 63 == [two, [1, 2], [5, 6]])
      && post (s 1 (two ++ [1, 1])) (fun t => t.items 63 == [[3, 4], two ++ [1, 1]] && t.get F.CTL_EVQ_LOST_CNT.CNT 63 == 2)
      && post (s 1 four) (fun t => t.items 63 == [four] && t.get F.CTL_EVQ_LOST_CNT.CNT 63 == 3)
      && post (queue63 1 [] two [⟨63, 7, true⟩]) (fun t => t.hart.resp == [(7, 7)] && t.ctl.stalls == [])
      && entriesHeld [two, [1, 2], [3, 4]] == 4 && (s 1 two).queueSize 63 == 4) = true := by
  simp only [gives, exec, execEventItemPost, State.arrive, State.queueTouch, h, List.filter_nil, List.foldl_nil]
  decide +kernel

/-- EventQueues, reads (R411 to R415): an item of 32 words; an empty queue; a stalled read woken and not; FLUSH; the CFG. -/
theorem test_reads (h : ∀ n k, Config.queueWrites n k = []) : (
    let item : List Word := (List.range 32).map fun i => wd (i + 1)
    let read := Instr.evqHeadRead 7 .m 63
    let z := queue63 1 [] [1, 2] [⟨63, 7, true⟩]
    let off := queue63 0 [[1, 2]] [1, 2] []
    let cfg (s : State) (v : Nat) (p : State → Bool) := gives (.ctlEvqCfgWrite 63 (wd v)) s p
    gives (read 0 0) (queue63 1 [item] [] []) (fun t => t.hart.resp == [(7, 1)] && t.items 63 == []
        && Tbl.at 0 t.ctl.latch (latchKey 63 7 true + 31) == 32)
      && gives (read 0 0) (queue63 0 [] [] []) (fun t => t.hart.resp == [(7, emptyWord)])
      && gives (read 32 32) (queue63 1 [] [] []) (fun t => t.hart.resp == [(7, emptyWord)])
      && gives (read 0 0) (queue63 1 [] [] []) (fun t => t.ctl.stalls == [⟨63, 7, true⟩])
      && gives (.evqReadWake 7 32 32) z (fun t => t.ctl.stalls == []) && gives (.evqReadWake 7 0 0) z (fun t => t.ctl.stalls.length == 1)
      && gives (.evqFlush 63 []) z (fun t => t.ctl.stalls.length == 1 && t.items 63 == [])
      && gives (.evqFlush 63 [14]) z (fun t => t.ctl.crossing == [] && t.get F.CTL_EVQ_FLUSH_PARTIAL_CNT.CNT 63 == 1)
      && cfg off (2 ^ 63 + 15 * 2 ^ 59) (fun t => t.items 63 == [] && t.get F.CTL_EVQ_CFG.LOG2_SIZE 63 == 12)
      && cfg off (2 ^ 59) (fun t => t.items 63 == [[1, 2]] && t.get F.CTL_EVQ_CFG.LOG2_SIZE 63 == 2)
      && cfg (queue63 1 [[1, 2]] [] []) (3 * 2 ^ 59 + 7 * 2 ^ 56) (fun t => t.get F.CTL_EVQ_CFG.LOG2_SIZE 63 == 2
        && t.get F.CTL_EVQ_CFG.TGT_HART 63 == 7 && t.items 63 == [[1, 2]])) = true := by
  simp only [gives, exec, execCtlEvqCfgWrite, State.evqCfg, State.queueTouch, h, List.filter_nil, List.foldl_nil]
  decide +kernel

/-- The management port with rings of 16 in scratch, whose descriptor 15 is next and names scratch 0x8000. -/
def mgt : State :=
  let s := set up [(F.CTL_MGT_CFG.EN, 0, 1), (F.CTL_MGT_RX_CFG.EN, 0, 1), (F.CTL_MGT_RX_CFG.LOG2_SIZE, 0, 4),
    (F.CTL_MGT_RX_CFG.BUFSZ, 0, 1), (F.CTL_MGT_RX_HEAD.HEAD, 0, 15), (F.CTL_MGT_RX_BASE.BASE, 0, 0x8000),
    (F.CTL_MGT_TX_CFG.EN, 0, 1), (F.CTL_MGT_TX_CFG.LOG2_SIZE, 0, 4), (F.CTL_MGT_TX_HEAD.HEAD, 0, 15),
    (F.CTL_MGT_TX_BASE.BASE, 0, 0x8001)]
  let sc := Tbl.putList 0 (Tbl.putList 0 [] 480 (leBytes 8 0x08008000)) (4096 + 480) (leBytes 8 0x08008000 ++ leBytes 8 (2 ^ 15 + 60))
  { s with ctl := { s.ctl with scratch := sc } }

/-- ControlPort (R416 to R418): frames at their bounds, for another address, delivered, discarded; the ring's, the root of
trust's; MDIO, the link, the timer, a doorbell. -/
theorem test_control_port : (
    let f (n : Nat) : List Byte := List.replicate 6 255 ++ List.replicate (n - 6) 1
    let off := set mgt [(F.CTL_MGT_CFG.EN, 0, 0)]
    let full := set mgt [(F.CTL_MGT_RX_TAIL.TAIL, 0, 15)]
    let fifo (n : Nat) := { mgt with ctl := { mgt.ctl with mgtRx := [List.replicate n 0] } }
    let empty := set mgt [(F.CTL_MGT_TX_TAIL.TAIL, 0, 15)]
    let cnt (bs : List Byte) (ok : Bool) (s : State) (f : RFld) := gives (.mgtFrameReceive bs ok) s fun t => t.get f 0 == 1
    mgt.claimV4 == none && mgt.claimV6 == none && cnt (f 63) true mgt F.CTL_MGT_RX_ERR_CNT.CNT
      && gives (.mgtFrameReceive (f 64) true) (fifo 8133) (fun t => t.get F.CTL_MGT_RX_OVF_CNT.CNT 0 == 1)
      && cnt (f 1523) true mgt F.CTL_MGT_RX_ERR_CNT.CNT && cnt (f 64) false mgt F.CTL_MGT_RX_ERR_CNT.CNT
      && gives (.mgtFrameReceive (List.replicate 64 2) true) mgt (fun t => t == mgt)
      && cnt (f 64) true off F.CTL_MGT_RX_DISCARD_CNT.CNT && cnt (f 64) true full F.CTL_MGT_RX_DISCARD_CNT.CNT
      && gives (.mgtFrameReceive (f 64) true) mgt (fun t => t.get F.CTL_MGT_RX_HEAD.HEAD 0 == 0
        && t.scr 0x8000 7 == [255, 255, 255, 255, 255, 255, 1])
      && gives .mgtTxFrame { mgt with ctl := { mgt.ctl with rotTx := [[1, 2]] } } (fun t => t.ctl.mgtSent == some [1, 2])
      && gives .mgtTxFrame empty (fun t => t == empty) && gives .mgtTxFrame off (fun t => t == off)
      && gives .mgtTxFrame mgt (fun t => (t.ctl.mgtSent.map fun b => b.length) == some 60 && t.get F.CTL_MGT_TX_HEAD.HEAD 0 == 0)
      && gives (.mdioRead 0xFFFF) up (fun t => t.get F.CTL_MDIO_DATA.DATA 0 == 0xFFFF)
      && gives (.machineTimerInterrupt 7) (put up [(.CTL_MTIMECMP, 7, 1)]) (fun t => t.hart.mtip == [])
      && gives (.machineTimerInterrupt 7) (put up [(.CTL_MTIMECMP, 7, 0)]) (fun t => t.hart.mtip == [(7, true)])
      && gives (.ctlRyuDoorbell 7) up (fun t => t.get F.CTL_RYU_PEND.PEND 0 == 128)) = true := by
  decide +kernel

/-- Firmware runs; channel 7 waits with message m, payload req and SEQ 1; locked features as given. -/
def ryutal (m : Nat) (req : List Byte) (locked : Bool) (set7 : Nat) : State :=
  let s := set up [(F.SEC_STATUS.BOOT_STATE, 0, 2), (F.CTL_RYU_PEND.PEND, 0, 128)]
  let hdr := [0, 0, 0, 0] ++ leBytes 2 req.length ++ leBytes 2 m ++ leBytes 4 (64 + 63) ++ leBytes 4 1
  let sc := Tbl.putList 0 (Tbl.putList 0 [] 0xFF000 hdr) 0xFF040 req
  { s with ctl := { s.ctl with scratch := sc, ryuLocked := locked, ryuAccepted := set7 } }

/-- Channel 7 is answered with a status, and an item is on its way to queue 63. -/
def replied (c : Instr) (s : State) (status : Nat) : Bool :=
  gives c s fun t => t.scr 0xFF808 4 == leBytes 4 status && t.get F.CTL_RYU_PEND.PEND 0 == 0
    && (Tbl.at [] t.ctl.crossing 13).map (fun x => x.1) == [63]

/-- RyutalMessages (R421, R423, R424): each message and each way it is refused; a request answered already. -/
theorem test_ryutal : (
    let on (m : Nat) (n : Nat) := ryutal m (List.replicate n 0) true 127
    let no (m : Nat) := ryutal m [] true 1
    let waits (s : State) (m : Nat) := s.firmwareRuns && s.ryuNext 7 && s.ryuMsg 7 == m && s.scr 0xFF00C 4 != s.scr 0xFF80C 4
    let done := { on 2 0 with ctl := { (on 2 0).ctl with scratch := Tbl.putList 0 (on 2 0).ctl.scratch 0xFF80C [1] } }
    let plain : List (Instr × Nat × Nat) := [(.thermalRead 7 1 2, 0x10, 0), (.hbmInfo 7 [1], 0x11, 0), (.errEventsCfg 7, 0x13, 8),
      (.traceRead 7, 0x14, 16)]
    waits (on 0xFFFF 0) 0xFFFF && !knownRyu 0xFFFF && replied (.version 7) (on 0xFFFF 0) 1 && waits (on 1 0) 1
      && waits (on 2 0) 2 && waits (on 3 32) 3 && (on 3 32).ctl.ryuLocked && replied (.featSet 7) (ryutal 3 [] false 0) 2
      && replied (.featSet 7) (ryutal 3 (leBytes 32 0) false 0) 4 && replied (.featSet 7) (ryutal 3 (leBytes 32 128) false 0) 4
      && plain.all (fun x => waits (on x.2.1 x.2.2) x.2.1 && (on x.2.1 x.2.2).negotiated 6 && replied x.1 (on x.2.1 x.2.2) 0
        && replied x.1 (on x.2.1 (x.2.2 + 1)) 2 && replied x.1 (no x.2.1) 3)
      && waits (on 0x12 8) 0x12 && (on 0x12 8).negotiated 3
      && gives (.featGet 7) done (fun t => t.get F.CTL_RYU_PEND.PEND 0 == 0 && t.ctl.scratch == done.ctl.scratch)) = true := by
  decide +kernel

/-- RyutalMessages: a valid first set, where the image offers every feature. -/
theorem test_features (h : Config.offeredFeatures = 127) : (
    let s := ryutal 3 (leBytes 32 127) false 0
    s.firmwareRuns && s.ryuNext 7 && s.ryuMsg 7 == 3 && !badFeatures (ofLe (s.scr 0xFF040 32))) = true := by
  simp only [badFeatures, offered, h]
  decide +kernel

/-- Bytes from an address, as a table lists them. -/
def cells : Nat → List Byte → Tbl Byte
  | _, [] => []
  | q, b :: bs => if b = 0 then cells (q + 1) bs else (q, b) :: cells (q + 1) bs

theorem at_cells (bs : List Byte) (q k : Nat) : Tbl.at 0 (cells q bs) k = if k < q then 0 else bs.getD (k - q) 0 := by
  induction bs generalizing q with
  | nil => simp [cells, Tbl.at, Tbl.find]
  | cons b bs ih =>
    have e : Tbl.at 0 (cells q (b :: bs)) k = if q = k then b else Tbl.at 0 (cells (q + 1) bs) k := by
      have n := ih (q + 1)
      rw [cells]
      by_cases hb : b = 0 <;> by_cases hk : q = k
      · rw [if_pos hb, if_pos hk, n, if_pos (by omega), hb]
      · rw [if_pos hb, if_neg hk]
      · rw [if_neg hb, if_pos hk, Tbl.at, Tbl.find, if_pos hk]; rfl
      · rw [if_neg hb, if_neg hk, Tbl.at, Tbl.find, if_neg hk, ← Tbl.at]
    rw [e, ih]
    rcases Nat.lt_trichotomy k q with h | h | h
    · simp [h, Nat.ne_of_gt h, Nat.lt_succ_of_lt h]
    · simp [h]
    · obtain ⟨d, rfl⟩ := Nat.exists_eq_add_of_lt h
      simp [show ¬q + d + 1 < q by omega, show ¬q = q + d + 1 by omega, show ¬q + d + 1 < q + 1 by omega,
        show q + d + 1 - q = d + 1 by omega, show q + d + 1 - (q + 1) = d by omega]

/-- A list read byte by byte, zero past its end. -/
theorem read_cells (bs : List Byte) (q d n : Nat) : Tbl.getList 0 (cells q bs) (q + d) n = slice bs d n := by
  apply List.ext_getElem
  · simp [Tbl.getList, slice] <;> omega
  · intro i h1 _
    have hi : i < n := by simpa [Tbl.getList] using h1
    simp only [Tbl.getList, List.getElem_map, List.getElem_range]
    rw [Nat.add_assoc, at_cells, if_neg (by omega), Nat.add_sub_cancel_left]
    by_cases hb : d + i < bs.length
    · simp [slice, List.getElem_append, hb] <;> omega
    · simp [slice, List.getElem_append, hb] <;> omega

/-- The public key of the scalar 1, and a header of 176 bytes for a body of 8 zero bytes, entered at 4. -/
def key1 : List Byte := beBytes 48 p384Gx ++ beBytes 48 p384Gy
def header (type svn : Nat) : List Byte :=
  leBytes 8 (0x5949 * 2 ^ 48 + 2 ^ 40 + type * 2 ^ 32 + 8) ++ leBytes 8 (1 + 4 * 2 ^ 32) ++ leBytes 16 svn ++ key1
    ++ digestBytes 0x7C2DB09D310ECE0B36D50C86E4C3E6641684948CD6FC03262B0D0ED91A6CFBC3CD5AFFD396C1F85FD0A109B103364B19
/-- The signature of header type 1 under the scalar 1 with the nonce 1: its r is the base point's. -/
def signed (type : Nat) : List Byte := beBytes 48 (p384Gx % p384Order) ++ beBytes 48 (if type = 1
  then 0xC3AAAC2401532DC33186A9925E2D281F3EC281E74748F5A6C28B881BD0935364E131219EB0A2B70667023322B283ECB1
  else 0x03A9AD42F374C5E2AA41D3A8BB75201B366C0459C807061F2B7B286A14472953E8476F418914A85A1DAD247237032848)

/-- SHA-384 of FIPS 180-4's one-block example, the letters abc. -/
theorem test_sha384 : sha384 [97, 98, 99] =
    0xCB00753F45A35E8BB5A03D699AC65007272C32AB0EDED1631A8B605A43FF5BED8086072BA1E7CC2358BAECA134C825A7 := by decide +kernel

/-- FIPS 197's examples of a product in its field and of the S-box, and the S-box undone. -/
theorem test_aes : gmul 8 0x57 0x83 = 0xC1 ∧ sbox 0x53 = 0xED ∧ invSbox 0xED = 0x53 := by decide +kernel

/-- Slot B holds a signed image, by the key whose hash the fuses hold. -/
def booting : State :=
  { up with sec := { up.sec with
    flash := cells 0xA0000 (header 1 1 ++ signed 1)
    fuses := { bruathKeyHash :=
      0xA19D4DB171B582EB8052B0CFE555E17894AA22D1C8A9770950697DD8F796D2FA4BF0A56AD80006B7EA08E1191F814B65 } } }

/-- Slot B's header and body as the flash gives them. -/
theorem test_flash : booting.flash (slotOffset 1) 512 = header 1 1 ++ signed 1 ++ List.replicate 240 0
    ∧ booting.flash (slotOffset 1 + 512) 8 = List.replicate 8 0 ∧ booting.slotMagic 1 = true := by
  have r (d n : Nat) : booting.flash (slotOffset 1 + d) n = slice (header 1 1 ++ signed 1) d n := read_cells _ _ _ _
  have r0 := r 0 512
  rw [Nat.add_zero] at r0
  rw [State.slotMagic, r, r, r0]
  decide +kernel

/-- A slot's image is checked by its header, signature and body. -/
theorem trySlot_checks (s : State) (k n : Nat) (h sig body : List Byte) (hm : s.slotMagic k = true)
    (hh : s.flash (slotOffset k) 512 = h) (hn : ofLe (slice h 0 4) = n) (hl : n ≤ 0x80000) (hs : slice h 0xB0 96 = sig)
    (hb : s.flash (slotOffset k + 512) n = body) : (s.trySlot k).1 = checkImage s.sec.fuses 1 h sig (some body) := by
  unfold State.trySlot
  simp only [hm, hh, hn, hs, hb, Bool.not_true, Bool.false_eq_true, if_false, if_neg (Nat.not_lt.2 hl)]

/-- Slot B's image verifies. -/
theorem test_image : (booting.trySlot 1).1 = 0 := by
  rw [trySlot_checks booting 1 8 _ (signed 1) _ test_flash.2.2 test_flash.1 (by decide +kernel) (by decide +kernel)
    (by decide +kernel) test_flash.2.1]
  decide +kernel

/-- BootAndAccess, boot (R426, R432, R433): with no image; with one in slot B alone, which verifies; a boot that is done; the
read path of DEVICE_SECRET open. -/
theorem test_boot : (
    let done := { up with sec := { up.sec with booted := true } }
    !up.sec.dead && !up.sec.booted && !up.slotMagic 0 && !up.slotMagic 1 && up.extCnt 0 == 0 && up.sec.fuses.lifecycle == 0
      && up.sec.secretOpen && booting.slotOrder == (1, 0) && (booting.trySlot 1).1 == 0
      && gives (.rootOfTrustBoot true) done (fun t => t == done)) = true := by
  rw [test_image]
  decide +kernel

/-- BootAndAccess, the network and debug access (R443, R450): a request and one that waits behind the mailbox; the TAP held;
an unlock refused in SECURED, and accepted in OPEN. -/
theorem test_access : (
    let open_ := { up with rst := { up.rst with trstLow := false }, sec := { up.sec with booted := true } }
    let r : NetReq := ⟨[], 1, 0, []⟩
    let net (s : Bool) := { open_ with sec := { open_.sec with netQueue := [r], mbxS := s } }
    let sec := { open_ with sec := { open_.sec with fuses := { lifecycle := 1 }, challenge := some [] } }
    up.rst.trstLow && gives .secChallenge up (fun t => t == up) && gives (.secUnlock [0]) up (fun t => t == up)
      && (net false).rotServes && gives .networkRequest (net true) (fun t => t == net true)
      && !sec.tokenOk [4] && gives (.secUnlock [4]) sec (fun t => t == { sec with sec := { sec.sec with challenge := none } })
      && gives (.secUnlock [0]) open_ (fun t => t.isSet F.SEC_STATUS.DEBUG 0 && !t.sec.secretOpen)) = true := by
  decide +kernel

/-- The root of trust serves; half m waits with message n, payload req and SEQ 1; AK_VALID as given. -/
def mailbox (m : Bool) (n : Nat) (req : List Byte) (ak : Nat) : State :=
  let s := set up [(F.SEC_STATUS.AK_VALID, 0, ak)]
  let hdr := [0, 0, 0, 0] ++ leBytes 2 req.length ++ leBytes 2 n ++ [0, 0, 0, 0] ++ leBytes 4 1
  let box := Tbl.putList 0 (Tbl.putList 0 [] (halfBase m) hdr) (halfBase m + 0x40) req
  { s with sec := { s.sec with booted := true, mbxM := m, mbxS := !m }, ctl := { s.ctl with mailbox := box } }

/-- Half m is answered with a status. -/
def answered (c : Instr) (s : State) (m : Bool) (status : Nat) : Bool :=
  gives c s fun t => t.mbx (halfBase m + 0x4008) 4 == leBytes 4 status && !t.rung m

/-- The premise that a half waits with a message. -/
def mbxWaits (s : State) (m : Bool) (n : Nat) : Bool :=
  s.rotServes && s.rung m && (m || !s.rung true) && s.mbxMsg m == n && ofLe (s.mbx (halfBase m + 12) 4) != ofLe (s.mbx (halfBase m + 0x400C) 4)

/-- MailboxMessages (R438 to R442): the doorbells; the messages of either half, each answer; register 15 and beyond. -/
theorem test_mailbox_either : (
    let ext (i n : Nat) : List Byte := leBytes 8 i ++ List.replicate n 0
    let full := { mailbox true 3 (ext 15 48) 0 with sec := { (mailbox true 3 (ext 15 48) 0).sec with extCnt := [(15, 0xFFFFFFFF)] } }
    gives (.secMbxDbM 7 .m 1) up (fun t => t.sec.mbxM) && gives (.secMbxDbM 7 .s 1) up (fun t => t.hart.cause == [(7, 7)])
      && gives (.secMbxDbS 1) up (fun t => t.sec.mbxS) && [true, false].all (fun m =>
        mbxWaits (mailbox m 1 (List.replicate 32 0) 1) m 1 && mbxWaits (mailbox m 3 (ext 15 48) 0) m 3 && mayExtend m 15
          && answered (.report m) (mailbox m 0xFFFF [] 0) m 1 && answered (.readMeas m) (mailbox m 2 [] 0) m 0
          && answered (.readMeas m) (mailbox m 2 [1] 0) m 2 && answered (.getCert m) (mailbox m 4 [] 0) m 0
          && answered (.extend m) (mailbox m 3 (ext 16 48) 0) m 3 && answered (.extend m) (mailbox m 3 (ext 3 48) 0) m 3
          && answered (.extend m) (mailbox m 3 (ext 15 47) 0) m 2)
      && answered (.extend true) full true 3 && mayExtend true 4 && !mayExtend false 7 && mayExtend false 8) = true := by
  decide +kernel

/-- The header of VERIFY's test verifies. -/
theorem test_os_verifies : ecdsaVerify (slice (header 2 1) 0x20 96) (sha384 (slice (header 2 1) 0 0xB0)) (signed 2) = true := by
  decide +kernel

/-- MailboxMessages, the M half's (R435, R440, R442, R448): denied from the S half; denied after LOCK; VERIFY's findings
on a signed header; LOCK; SVN_COMMIT; WRAP and UNWRAP with and without a key. -/
theorem test_mailbox_m (ho : ∀ h, Config.osSignature h = signed 2) : (
    let lone : List (Instr × Nat) := [(.verify false, 0x10), (.lock false, 0x11), (.cfgWrite false, 0x12), (.svnCommit false, 0x13),
      (.wrap false, 0x20), (.unwrap false, 0x21)]
    let locked (s : State) := set s [(F.SEC_STATUS.LOCKED, 0, 1)]
    let found (f : Fuses) := checkImage f 2 (header 2 1) (Config.osSignature (header 2 1)) none
    let svn (v : Nat) := mailbox true 0x13 (leBytes 8 v) 0
    let box := mailbox true 0x12 [] 0
    let cfg := { box with ctl := { box.ctl with mailbox := Tbl.putList 0 box.ctl.mailbox 4 (leBytes 2 4072) } }
    let wrap (n ak : Nat) := mailbox true 0x20 (leBytes 8 (n * 65536) ++ List.replicate n 0) ak
    lone.all (fun x => mbxWaits (mailbox false x.2 [] 0) false x.2 && answered x.1 (mailbox false x.2 [] 0) false 3)
      && (header 2 1).length == 176 && found {} == 0 && found { svn := 2 } == 3 && found { lifecycle := 1, ownerRevoke := 15 } == 2
      && mbxWaits (mailbox true 0x10 (header 2 1) 0) true 0x10 && answered (.lock true) (mailbox true 0x11 [] 0) true 0
      && mbxWaits cfg true 0x12 && ofLe (cfg.mbx 4 2) == 4072
      && answered (.svnCommit true) (svn 0) true 0 && answered (.svnCommit true) (svn 1) true 3
      && answered (.svnCommit true) (locked (svn 0)) true 3 && answered (.wrap true) (wrap 64 0) true 4
      && mbxWaits (wrap 64 1) true 0x20 && sealLenOk 16 && sealLenOk 64 && (wrap 64 1).akValid
      && mbxWaits (mailbox true 0x21 (leBytes 8 (2 ^ 24 + 64 * 65536) ++ List.replicate 72 0) 1) true 0x21) = true := by
  simp only [checkImage, ho, test_os_verifies]
  decide +kernel

/-- ErrorHandling (R454 to R457, R462): an empty slot, a full one, a full log; the writes; injection of listed and unlisted codes;
firmware with a record of a slot and of a log. -/
theorem test_records : (
    let ws : List Word := [wd (2 ^ 63), 2, 3, 4]
    let slot0 := put up [(.ERR_STATUS, 0, 4), (.ERR_SLOT_W, 8, wd (2 ^ 63)), (.ERR_SLOT_W, 10, 3), (.ERR_SLOT_W, 11, 5)]
    let slot := { slot0 with err := { slot0.err with arrived := [(2, 5), (2, 4)] } }
    let logged (n : Nat) := { slot with err := { slot.err with logs := [(2, List.replicate n ws)] } }
    let hit (s : State) := s.raise false 3 14 1 0 7
    let inj (code sub : Nat) := Instr.errInject (wd (2 ^ 63 + sub * 2 ^ 48 + code * 2 ^ 40))
    let fw (s : State) := set s [(F.SEC_STATUS.BOOT_STATE, 0, 2)]
    (hit up).reg .ERR_STATUS 0 == 4 && (hit up).reg .ERR_SLOT_W 9 == 7 && (Tbl.at [] (hit (logged 63)).err.logs 2).length == 64
      && (hit (logged 64)).get F.ERR_LOG_OVF_CNT.CNT 2 == 1 && gives (.slotFullClear 4) slot (fun t => t.reg .ERR_STATUS 0 == 0)
      && gives (.errLogPop 4) (logged 64) (fun t => (Tbl.at [] t.err.logs 2).length == 63)
      && [(0x60, 14), (0x10, 0), (0x10, 15)].all (fun x => gives (inj x.1 x.2) up fun t => t.reg .ERR_STATUS 0 == 0)
      && [1, 14].all (fun sub => gives (inj 0x10 sub) up fun t => t.reg .ERR_STATUS 0 == 1 && fld (t.reg .ERR_SLOT_W 0) 62 1 == 1)
      && ((fw slot).pickRecord.map fun x => (x.1, x.2.1)) == some (2, false)
      && (slot.takeable 2).any (fun x => recordName 2 x.2.2 == (2, 5))
      && ((fw { logged 1 with err := { (logged 1).err with arrived := [(2, 4), (2, 5)] } }).pickRecord.map fun x => x.2.1) == some true && (fw up).pickRecord == none
      && gives .errEventPost (fw slot) (fun t => t.reg .ERR_STATUS 0 == 0) && gives .errEventPost up (fun t => t == up)) = true := by
  decide +kernel

/-- ErrorHandling (R200, R361, R362, R404, R452): errors of HBM, of a lost line, of a dispatcher side; an unanswered access. -/
theorem test_error_sources : (
    let d (code inst info : Nat) := Instr.errorDetection 6 code inst (wd info)
    let pcs := set up [(F.HBM_PC_MASK.MASK, 0, 2 ^ 64 - 1)]
    let line := { up with hbm := { up.hbm with l2 := [(hbmBase / 64, List.replicate 64 7)] } }
    let off (f : RFld) := set up [(f, 0, 1)]
    let flagged (s : State) (n : Nat) := gives (d 3 0 0) s fun t => t.work.flagged == [(n, t.clock + 1)]
    gives (d 0x10 5 0) up (fun t => t.get F.HBM_PC_CE_CNT.CNT 5 == 1)
      && gives (d 0x11 63 (2 ^ 20)) pcs (fun t => t.get F.HBM_PC_UE_CNT.CNT 63 == 1 && t.hbm.ue.length == 1)
      && gives (d 0x14 0 hbmBase) line (fun t => t.hbm.l2 == [] && Tbl.at 0 t.hbm.mem 63 == 7)
      && flagged (off F.WD_LOCK_STATUS.A_OFF) 1 && flagged (off F.WD_LOCK_STATUS.B_OFF) 0
      && gives (d 3 0 0) up (fun t => t.get F.ERR_CLASS_CNT.CNT 0 == 1 && t.work.flagged.length == 1)
      && gives (.wedged 7 .amo 8) up (fun t => t.hart.cause == [(7, 7)] && t.hart.mtval == [(7, 8)])) = true := by
  decide +kernel

/-- ErrorHandling (R452, R453, R463, R464): detections of each array at its bound, and of no subsystem; a clock lost
with a Fatal slot full; the trace's last entry and one that overwrites. -/
theorem test_detections : (
    let d (sub code array unit : Nat) := Instr.errorDetection sub code (array * 4096 + unit) (wd (2 ^ 20 - 1))
    let full := put up [(.ERR_STATUS, 0, 8)]
    let trace (n : Nat) (full : Bool) := { set up [(F.ERR_TRACE_COUNT.CNT, 0, n), (F.ERR_TRACE_RD_ADDR.ADDR, 0, 2 ^ 17 - 1)]
      with err := { up.err with traceFull := full } }
    [0, 15].all (fun sub => gives (.errorDetection sub 1 0 0) up fun t => t == up)
      && errClass up 0x30 0 == some 3 && gives (d 14 1 6 511) up (fun t => t.get F.PEA_CORE_ECC_CNT.CNT 511 == 1)
      && gives (d 1 2 7 0) up (fun t => t.mix.bad == [2 ^ 20 - 1]) && gives (d 1 2 8 7) up (fun t => !t.isSet F.MIX_ENG_CTL.EN 7)
      && gives (d 1 2 11 0) up (fun t => t.ctl.poisoned == [(2 ^ 20 - 1) / 64]) && gives (d 14 2 13 0) up (fun t => !t.akValid)
      && faultCause .amo == 7
      && gives (.errTraceWr3 .u 9) (trace 32767 false) (fun t => Tbl.at 0 t.err.trace (2 ^ 17 - 1) == 9 && t.get F.ERR_TRACE_LOST_CNT.CNT 0 == 0)
      && gives (.errTraceWr3 .m 9) (trace 0 true) (fun t => Tbl.at 0 t.err.trace 3 == 9 && t.get F.ERR_TRACE_LOST_CNT.CNT 0 == 1)
      && gives (.errTraceRdData 7) (trace 0 false) (fun t => t.get F.ERR_TRACE_RD_ADDR.ADDR 0 == 0)
      && bitAt (full.reg .ERR_STATUS 0).toNat 3) = true := by
  decide +kernel

/-- Temperature (R469, R470, R491): at THR_HI and one below, at THR_LO, at TRIP; the extreme readings; the settings in order and
each out of order. -/
theorem test_temperature : (
    let s (d : Nat) := set up [(F.ERR_THERM_CFG.TRIP, 0, 115), (F.ERR_THERM_CFG.THR_HI, 0, 105), (F.ERR_THERM_CFG.THR_LO, 0, 95),
      (F.ERR_THERM_CFG.MIN_DUTY, 0, 2), (F.ERR_THERM_STATUS.DUTY, 0, d)]
    let duty (x : Int) (d k : Nat) := gives (.thermalReading (x :: List.replicate 23 (-32768))) (s d) fun t => t.get F.ERR_THERM_STATUS.DUTY 0 == k
    let cfg (trip hi lo least : Nat) := Instr.errThermCfgWrite (wd (trip * 2 ^ 24 + hi * 2 ^ 16 + lo * 2 ^ 8 + least))
    let err (c : Instr) (e : Bool) := gives c (s 8) fun t => t.isSet F.ERR_THERM_CFG.CFG_ERR 0 == e
    duty 1680 7 6 && duty 1680 2 2 && duty 1679 5 5 && duty 1520 5 6 && duty 1520 8 8 && duty (-32768) 3 4
      && gives (.thermalReading (1839 :: List.replicate 23 0)) (s 7) (fun t => t.get F.ERR_CLASS_CNT.CNT 3 == 0)
      && err (cfg 115 105 95 1) false && err (cfg 115 115 95 8) false && err (cfg 116 105 95 1) true && err (cfg 115 105 105 1) true
      && err (cfg 104 105 95 1) true && err (cfg 115 105 95 0) true && err (cfg 115 105 95 9) true) = true := by
  decide +kernel

/-- The package (R472 to R476, R487): the worked example of port 64, and a ball of each region. -/
theorem test_package : (laneBall 64 .txP = ⟨13, 88⟩ ∧ laneBall 64 .txN = ⟨14, 88⟩ ∧ laneBall 64 .rxP = ⟨13, 86⟩
    ∧ laneBall 71 .txP = ⟨27, 88⟩ ∧ laneBall 71 .txN = ⟨28, 88⟩ ∧ serdesRefBall 4 false = ⟨20, 79⟩ ∧ serdesRefBall 4 true = ⟨21, 79⟩
    ∧ Phy.g400.corr 35 = 0xFF63666600B8D99A) ∧ (Ball.use ⟨13, 88⟩ = .lane 64 .txP ∧ Ball.use ⟨33, 16⟩ = .rail .hbmVpp
    ∧ Ball.use ⟨13, 13⟩ = .rail .vddCore ∧ Ball.use ⟨13, 14⟩ = .vss ∧ Ball.use ⟨84, 10⟩ = .signal .faultN
    ∧ Ball.use ⟨1, 1⟩ = .vss ∧ Ball.use ⟨12, 81⟩ = .reserved) := by
  decide +kernel

end Sys2Proof.Tests
end

section
/-! PROOFS. The mix engine's accumulators (09 R277, R279, R280): what an issued instruction does to the accumulator lanes,
the lanes of MAC, MSU, MACR and MSUR, and that a subtraction of an equal product undoes its addition. -/

namespace Sys2Proof.Machine

/-! ## Fields and clamping -/

/-- A field inside the low k bits is a field of those bits. -/
theorem fld_eq_bitsOf_low (w : Word) {lo len k : Nat} (h : lo + len ≤ k) : fld w lo len = bitsOf (fld w 0 k) lo len := by
  apply Nat.eq_of_testBit_eq
  intro i
  rw [fld, fld, testBit_bitsOf, testBit_bitsOf, testBit_bitsOf]
  by_cases hi : i < len
  · simp [hi, show lo + i < k by omega]
  · simp [hi]

/-- Words with the same low k bits have the same fields there. -/
theorem fld_congr_low {w w' : Word} {k : Nat} (hlow : fld w' 0 k = fld w 0 k) {lo len : Nat} (h : lo + len ≤ k) :
    fld w' lo len = fld w lo len := by
  rw [fld_eq_bitsOf_low w' h, hlow, ← fld_eq_bitsOf_low w h]

theorem clampInt_of_mem {z lo hi : Int} (h : lo ≤ z ∧ z ≤ hi) : clampInt z lo hi = z := by
  simp only [clampInt]
  split
  · omega
  · split
    · omega
    · rfl

theorem le_clampInt_le (z : Int) {lo hi : Int} (h : lo ≤ hi) : lo ≤ clampInt z lo hi ∧ clampInt z lo hi ≤ hi := by
  simp only [clampInt]
  split
  · omega
  · split <;> omega

/-- A value that an accumulator lane holds without saturation. -/
def FitsAcc (z : Int) : Prop := -140737488355328 ≤ z ∧ z ≤ 140737488355327

theorem FitsAcc.toInt_ofInt {z : Int} (h : FitsAcc z) : (BitVec.ofInt 48 z).toInt = z := by
  obtain ⟨hlo, hhi⟩ := h
  have hlo' : -(((2 ^ 48 : Nat) : Int) / 2) ≤ z := by omega
  have hhi' : z < (((2 ^ 48 : Nat) : Int) + 1) / 2 := by omega
  rw [BitVec.toInt_ofInt, Int.bmod_eq_of_le hlo' hhi']

/-! ## An issued instruction -/

@[simp] theorem State.mixEng_setMix (s : State) (e : Nat) (m : MixEng) : (s.setMix e m).mixEng e = m := by
  simp [State.setMix, State.mixEng]

@[simp] theorem State.mixEng_add (s : State) (f : RFld) (i n e : Nat) : (s.add f i n).mixEng e = s.mixEng e := rfl

/-- The instruction that an engine issues takes effect on its accumulators; going on leaves them. -/
theorem State.mixAcc_mixIssue {s : State} {e op : Nat} {r : MixRun} {w : Word} (h : MixIssues s e op r w)
    (f : State → Image → Nat → Word → State) (k i : Nat) :
    (s.mixIssue e op f).mixAcc e k i = (f s (s.activeImage e) r.block w).mixAcc e k i := by
  obtain ⟨-, hrun, hended, hinstr, hop⟩ := h
  simp [State.mixIssue, State.mixAcc, hrun, hended, hinstr, hop]

/-- A command that issues the engine's next instruction completes, with that instruction's accumulators. -/
theorem does_mixAcc_of_issues {c : Instr} {s : State} {e op : Nat} {r : MixRun} {w : Word}
    {f : State → Image → Nat → Word → State} (hc : exec c s = s.whenLive fun s => s.mixIssue e op f)
    (h : MixIssues s e op r w) {k n : Nat} {y : Nat → Int}
    (hy : ∀ i, i < n → (f s (s.activeImage e) r.block w).mixAcc e k i = y i) :
    Does c s fun u => ∀ i, i < n → u.mixAcc e k i = y i := by
  refine ⟨_, hc.trans (State.whenLive_live s _ h.1), fun i hi => ?_⟩
  exact (State.mixAcc_mixIssue h f k i).trans (hy i hi)

/-! ## Accumulator results (R277) -/

@[simp] theorem MixEng.length_work (m : MixEng) (r n : Nat) : (m.work r n).length = n := by
  simp [MixEng.work, Tbl.getList]

@[simp] theorem MixEng.length_accs (m : MixEng) (r n : Nat) : (m.accs r n).length = n := by
  simp [MixEng.accs, Tbl.getList]

@[simp] theorem MixEng.length_gains (m : MixEng) (w : Word) (ramp : Bool) (n : Nat) :
    (m.gains w ramp n).length = n := by simp [MixEng.gains]

theorem State.work_getElem (s : State) (e r n i : Nat) (h : i < ((s.mixEng e).work r n).length) :
    ((s.mixEng e).work r n)[i] = s.mixLane e r i := by simp [MixEng.work, Tbl.getList, State.mixLane]

theorem State.accs_getElem (s : State) (e r n i : Nat) (h : i < ((s.mixEng e).accs r n).length) :
    ((s.mixEng e).accs r n)[i] = s.mixAcc e r i := by simp [MixEng.accs, Tbl.getList, State.mixAcc]

theorem State.mixEng_putAccs (s : State) (e k : Nat) (xs : List Int) :
    (s.putAccs e k xs).mixEng e = (s.mixEng e).setAccs k (satLanes 48 xs).1 := by
  simp [State.putAccs, State.countSat]

/-- An accumulator result stands in its lanes, saturated to 48 bits. -/
theorem State.mixAcc_putAccs (s : State) (e k : Nat) {xs : List Int} {i : Nat} (h : i < xs.length) :
    (s.putAccs e k xs).mixAcc e k i = clampInt xs[i] (-140737488355328) 140737488355327 := by
  have hfit : FitsAcc (clampInt xs[i] (-140737488355328) 140737488355327) := le_clampInt_le xs[i] (by decide)
  rw [State.mixAcc, State.mixEng_putAccs, MixEng.setAccs, Tbl.at_putList_in _ _ _ _ _ (by simpa [satLanes] using h)]
  simpa [satLanes, h, satTo] using hfit.toInt_ofInt

/-! ## MAC, MSU, MACR, MSUR (R277, R279) -/

/-- Gain of lane i of n: G0, or its ramp to G1. -/
def MixEng.laneGain (m : MixEng) (w : Word) (ramp : Bool) (n i : Nat) : Int :=
  if ramp then m.gain w 25 + Int.tdiv ((m.gain w 9 - m.gain w 25) * (i + 1)) n else m.gain w 25

/-- Product of lane i: the sample of WS times the lane's gain. -/
def State.laneProduct (s : State) (e : Nat) (w : Word) (ramp : Bool) (i : Nat) : Int :=
  s.mixLane e (fld w 48 4) i * (s.mixEng e).laneGain w ramp (lanesOf (mixDom w)) i

theorem MixEng.gains_getElem (m : MixEng) (w : Word) (ramp : Bool) (n i : Nat) (h : i < (m.gains w ramp n).length) :
    (m.gains w ramp n)[i] = m.laneGain w ramp n i := by simp [MixEng.gains, MixEng.laneGain]

/-- Each lane of AD takes the exact product, with its sign, and saturates to 48 bits. -/
theorem State.mixAcc_mixMacc (s : State) (e : Nat) (w : Word) (ramp : Bool) (sign : Int) {i : Nat}
    (h : i < lanesOf (mixDom w)) :
    (s.mixMacc e w ramp sign).mixAcc e (fld w 45 3) i =
      clampInt (s.mixAcc e (fld w 45 3) i + sign * s.laneProduct e w ramp i) (-140737488355328) 140737488355327 := by
  rw [State.mixMacc, State.mixAcc_putAccs _ _ _ (by simpa using h)]
  simp only [List.getElem_zipWith, State.accs_getElem, State.work_getElem, MixEng.gains_getElem, State.laneProduct]

/-- Equal operand bits and equal parameters give equal gain operands. -/
theorem MixEng.gain_congr {m m' : MixEng} {w w' : Word} (hlow : fld w' 0 42 = fld w 0 42)
    (hused : ∀ i, Tbl.at 0 m'.used i = Tbl.at 0 m.used i) {lo : Nat} (hlo : lo + 16 ≤ 42) :
    m'.gain w' lo = m.gain w lo := by
  have hgp : fld w' 41 1 = fld w 41 1 := fld_congr_low hlow (by omega)
  have hparam : fld w' lo 12 = fld w lo 12 := fld_congr_low hlow (by omega)
  have hconst : fld w' lo 16 = fld w lo 16 := fld_congr_low hlow hlo
  simp only [MixEng.gain, hgp, hparam, hconst, hused]

theorem MixEng.laneGain_congr {m m' : MixEng} {w w' : Word} (hlow : fld w' 0 42 = fld w 0 42)
    (hused : ∀ i, Tbl.at 0 m'.used i = Tbl.at 0 m.used i) (ramp : Bool) (n i : Nat) :
    m'.laneGain w' ramp n i = m.laneGain w ramp n i := by
  have h0 : m'.gain w' 25 = m.gain w 25 := MixEng.gain_congr hlow hused (by omega)
  have h1 : m'.gain w' 9 = m.gain w 9 := MixEng.gain_congr hlow hused (by omega)
  simp only [MixEng.laneGain, h0, h1]

/-! ## The product removed (R280) -/

/-- A lane that holds x holds x plus the product after a multiply and add that does not saturate. -/
theorem State.mixMacc_adds {s : State} {e : Nat} {w : Word} {ramp : Bool} {i : Nat} {x : Int}
    (hi : i < lanesOf (mixDom w)) (hx : s.mixAcc e (fld w 45 3) i = x) (hfit : FitsAcc (x + s.laneProduct e w ramp i)) :
    (s.mixMacc e w ramp 1).mixAcc e (fld w 45 3) i = x + s.laneProduct e w ramp i := by
  rw [State.mixAcc_mixMacc s e w ramp 1 hi, hx, Int.one_mul, clampInt_of_mem hfit]

/-- A lane that holds x plus the product holds x after a multiply and subtract. -/
theorem State.mixMacc_removes {s : State} {e : Nat} {w : Word} {ramp : Bool} {i : Nat} {x : Int}
    (hi : i < lanesOf (mixDom w)) (hx : s.mixAcc e (fld w 45 3) i = x + s.laneProduct e w ramp i) (hfit : FitsAcc x) :
    (s.mixMacc e w ramp (-1)).mixAcc e (fld w 45 3) i = x := by
  rw [State.mixAcc_mixMacc s e w ramp (-1) hi, hx, Int.neg_mul, Int.one_mul, Int.add_neg_cancel_right, clampInt_of_mem hfit]

/-- Instruction w' of engine e in state t has the domain, gain operands, parameters and work lanes of w in s. -/
def SameOperands (s t : State) (e : Nat) (w w' : Word) : Prop :=
  mixDom w' = mixDom w ∧ fld w' 0 42 = fld w 0 42 ∧
    (∀ i, Tbl.at 0 (t.mixEng e).used i = Tbl.at 0 (s.mixEng e).used i) ∧
    ∀ i, i < lanesOf (mixDom w) → t.mixLane e (fld w' 48 4) i = s.mixLane e (fld w 48 4) i

theorem SameOperands.laneProduct_eq {s t : State} {e : Nat} {w w' : Word} (h : SameOperands s t e w w') (ramp : Bool)
    {i : Nat} (hi : i < lanesOf (mixDom w)) : t.laneProduct e w' ramp i = s.laneProduct e w ramp i := by
  obtain ⟨hdom, hlow, hused, hlane⟩ := h
  rw [State.laneProduct, State.laneProduct, hlane i hi, hdom, MixEng.laneGain_congr hlow hused]

/-- A command that issues a multiply and add puts its product on top of what the lanes hold. -/
theorem does_add_laneProduct {c : Instr} {s : State} {e op : Nat} {r : MixRun} {w : Word} {ramp : Bool} {x : Nat → Int}
    (hc : exec c s = s.whenLive fun s => s.mixIssue e op fun s _ _ w => s.mixMacc e w ramp 1)
    (hs : MixIssues s e op r w) (hfit : ∀ i, i < lanesOf (mixDom w) → FitsAcc (x i + s.laneProduct e w ramp i))
    (hx : ∀ i, i < lanesOf (mixDom w) → s.mixAcc e (fld w 45 3) i = x i) :
    Does c s fun u => ∀ i, i < lanesOf (mixDom w) → u.mixAcc e (fld w 45 3) i = x i + s.laneProduct e w ramp i :=
  does_mixAcc_of_issues hc hs fun i hi => State.mixMacc_adds hi (hx i hi) (hfit i hi)

/-- A command that issues a multiply and subtract of the same operands takes that product off. -/
theorem does_remove_laneProduct {c : Instr} {s t : State} {e op : Nat} {r : MixRun} {w w' : Word} {ramp : Bool}
    {x : Nat → Int} (hc : exec c t = t.whenLive fun t => t.mixIssue e op fun t _ _ w => t.mixMacc e w ramp (-1))
    (same : SameOperands s t e w w') (ht : MixIssues t e op r w')
    (hfit : ∀ i, i < lanesOf (mixDom w) → FitsAcc (x i))
    (hx : ∀ i, i < lanesOf (mixDom w) → t.mixAcc e (fld w' 45 3) i = x i + s.laneProduct e w ramp i) :
    Does c t fun u => ∀ i, i < lanesOf (mixDom w) → u.mixAcc e (fld w' 45 3) i = x i := by
  have hdom : mixDom w' = mixDom w := same.1
  refine does_mixAcc_of_issues hc ht fun i hi => ?_
  have hsum : t.mixAcc e (fld w' 45 3) i = x i + t.laneProduct e w' ramp i := by
    rw [hx i hi, same.laneProduct_eq ramp hi]
  exact State.mixMacc_removes (hdom ▸ hi) hsum (hfit i hi)

/-- Settles O40: with equal operands MAC and MSU, and MACR and MSUR, have the same product in every lane, and a product
added and subtracted within 48 bits cancels. -/
theorem productRemoved : Obligations.ProductRemoved := by
  intro s t e r r' w w' x n gain ramp fits same removes
  constructor
  case left =>
    intro hsame hs ht hfit
    exact ⟨does_add_laneProduct (ramp := false) rfl hs fun i hi => (hfit i hi).2,
      does_remove_laneProduct (ramp := false) rfl hsame ht fun i hi => (hfit i hi).1⟩
  case right =>
    intro hsame hs ht hfit
    exact ⟨does_add_laneProduct (ramp := true) rfl hs fun i hi => (hfit i hi).2,
      does_remove_laneProduct (ramp := true) rfl hsame ht fun i hi => (hfit i hi).1⟩

end Sys2Proof.Machine
end

section
/-! PROOFS. The requests at the HBM controller (12 R354 to R358): requests join the end of the waiting list, the one that a
pseudo-channel chooses comes before every request it must follow, and serving it leaves the others in their order. -/

namespace Sys2Proof.Machine

/-! ## Entry at a port (R354) -/

theorem State.get_congr {s t : State} (h : t.regs = s.regs) (f : RFld) (i : Nat) : t.get f i = s.get f i := by
  simp only [State.get, State.reg, h]

theorem State.pcOf_congr {s t : State} (h : t.regs = s.regs) (a : Nat) : t.pcOf a = s.pcOf a := by
  simp only [State.pcOf, State.enabledPcs, State.get_congr h]

theorem State.regs_enterPort (s : State) (r : HbmReq) : (s.enterPort r).regs = s.regs := by
  unfold State.enterPort; split <;> rfl

theorem State.regs_enterPorts (s : State) (rs : List HbmReq) : (rs.foldl State.enterPort s).regs = s.regs :=
  foldl_keeps State.regs _ State.regs_enterPort rs s

/-- A request that enters joins the waiting list at its end, or waits at its requestor. -/
theorem State.waiting_prefix_enterPort (s : State) (r : HbmReq) : s.hbm.waiting <+: (s.enterPort r).hbm.waiting := by
  unfold State.enterPort
  split
  · exact List.prefix_rfl
  · exact List.prefix_append ..

theorem State.waiting_prefix_enterPorts (s : State) (rs : List HbmReq) :
    s.hbm.waiting <+: (rs.foldl State.enterPort s).hbm.waiting :=
  foldl_inv (fun t => s.hbm.waiting <+: t.hbm.waiting) _ (fun t r h => h.trans (t.waiting_prefix_enterPort r)) rs s
    List.prefix_rfl

/-- Room at a port lets in at most one request, behind those that wait, and none where none is held. -/
theorem State.waiting_letIn (s : State) (p : Nat) : ∃ next, (s.letIn p).hbm.waiting = s.hbm.waiting ++ next ∧
    next.length ≤ 1 ∧ (s.hbm.gate = [] → next = []) := by
  unfold State.letIn
  split
  · exact ⟨[], by simp⟩
  · next w rest hw =>
    split
    · exact ⟨[], by simp⟩
    · refine ⟨[s.asEntered w], rfl, Nat.le_refl 1, fun hgate => ?_⟩
      simp [hgate, takeFirst] at hw

@[simp] theorem State.served_letIn (s : State) (p : Nat) : (s.letIn p).hbm.served = s.hbm.served := by
  unfold State.letIn
  split
  · rfl
  · split <;> rfl

/-! ## The order of service (R357, R358) -/

/-- Requests that overlap in no byte share none. -/
theorem not_mem_both_of_not_overlaps {a b : HbmReq} (h : overlaps a b = false) {x : Nat} (hlo : a.addr ≤ x)
    (hhi : x < a.addr + a.len) : ¬(b.addr ≤ x ∧ x < b.addr + b.len) := by
  simp only [overlaps, Bool.and_eq_false_iff, decide_eq_false_iff_not] at h
  omega

theorem State.mayServe_iff {s : State} {earlier : List HbmReq} {r : HbmReq} : s.mayServe earlier r = true ↔
    ∀ e ∈ earlier, overlaps e r = false ∧
      (e.port = r.port → e.stream = r.stream → s.get F.HBM_PORT_CFG.ORDER r.port ≠ 1) := by
  simp only [State.mayServe, List.all_eq_true, Bool.and_eq_true, Bool.not_eq_true', ← Bool.not_eq_true,
    decide_eq_true_eq, not_and, and_imp, ne_eq]

theorem State.mayServe_of_append {s : State} {as bs : List HbmReq} {r : HbmReq} (h : s.mayServe (as ++ bs) r = true) :
    s.mayServe as r = true := by
  rw [State.mayServe_iff] at h ⊢
  exact fun e he => h e (List.mem_append_left bs he)

/-- A request that may be served stands first behind requests that it need not follow, and falls in the pseudo-channel. -/
theorem State.split_of_mem_servable {s : State} {pc : Nat} {r : HbmReq} {rs earlier : List HbmReq}
    (h : r ∈ s.servable pc earlier rs) : ∃ before after, rs = before ++ r :: after ∧ r ∉ before ∧
      (s.pcOf (r.addr - hbmBase)).1 = pc ∧ s.mayServe (earlier ++ before) r = true := by
  induction rs generalizing earlier with
  | nil => simp [State.servable] at h
  | cons x xs ih =>
    have hcases : (r = x ∧ (s.pcOf (x.addr - hbmBase)).1 = pc ∧ s.mayServe earlier x = true) ∨
        r ∈ s.servable pc (earlier ++ [x]) xs := by
      simp only [State.servable] at h
      split at h
      · next hx =>
        rw [Bool.and_eq_true, decide_eq_true_eq] at hx
        exact (List.mem_cons.1 h).imp_left fun hr => ⟨hr, hx⟩
      · exact .inr h
    obtain ⟨rfl, hpc, hmay⟩ | htail := hcases
    · exact ⟨[], xs, rfl, List.not_mem_nil, hpc, by simpa using hmay⟩
    · obtain ⟨before, after, rfl, hnew, hpc, hmay⟩ := ih htail
      rw [List.append_assoc, List.singleton_append] at hmay
      by_cases hx : r = x
      · exact ⟨[], before ++ r :: after, by simp [hx], List.not_mem_nil, hpc,
          by simpa using State.mayServe_of_append hmay⟩
      · exact ⟨x :: before, after, rfl, by simp [hx, hnew], hpc, hmay⟩

/-! ## The choice by urgency (R355, R356) -/

theorem getD_find?_headD_mem {α : Type} {l : List α} {d : α} (p : α → Bool) (h : d ∈ l) :
    (l.find? p).getD (l.headD d) ∈ l := by
  cases hf : l.find? p with
  | some a => exact List.mem_of_find?_eq_some hf
  | none => cases l with
    | nil => exact h
    | cons a l => exact List.mem_cons_self

theorem le_foldl_max {α : Type} (f : α → Nat) (l : List α) (m : Nat) :
    m ≤ l.foldl (fun m x => max m (f x)) m ∧ ∀ x ∈ l, f x ≤ l.foldl (fun m x => max m (f x)) m := by
  induction l generalizing m with
  | nil => simp
  | cons a l ih =>
    obtain ⟨hm, hl⟩ := ih (max m (f a))
    rw [List.foldl_cons, List.forall_mem_cons]
    exact ⟨Nat.le_trans (Nat.le_max_left ..) hm, Nat.le_trans (Nat.le_max_right ..) hm, hl⟩

/-- Whatever row state and age decide, the request chosen is one of the servable requests of the highest urgency. -/
theorem State.choose_mem_most_urgent {s : State} {pc : Nat} {r : HbmReq} (h : s.choose pc = some r) :
    r ∈ (s.servable pc [] s.hbm.waiting).filter fun x =>
      s.urgency x = (s.servable pc [] s.hbm.waiting).foldl (fun m x => max m (s.urgency x)) 0 := by
  unfold State.choose at h
  dsimp only at h
  generalize (s.servable pc [] s.hbm.waiting).filter _ = best at h ⊢
  split at h
  · next w hw =>
    obtain rfl := Option.some.inj h
    have hcand : best.takeWhile (fun x => x ≠ w) ++ [w] ⊆ best :=
      List.append_subset.2 ⟨List.takeWhile_subset _, by simpa using List.mem_of_find?_eq_some hw⟩
    exact hcand (getD_find?_headD_mem _ (by simp))
  · split at h
    · next w hw =>
      obtain rfl := Option.some.inj h
      exact List.mem_of_find?_eq_some hw
    · exact List.mem_of_head? h

theorem State.choose_mem_servable {s : State} {pc : Nat} {r : HbmReq} (h : s.choose pc = some r) :
    r ∈ s.servable pc [] s.hbm.waiting := (List.mem_filter.1 (State.choose_mem_most_urgent h)).1

theorem State.urgency_le_choose {s : State} {pc : Nat} {r x : HbmReq} (h : s.choose pc = some r)
    (hx : x ∈ s.servable pc [] s.hbm.waiting) : s.urgency x ≤ s.urgency r := by
  have htop := (List.mem_filter.1 (State.choose_mem_most_urgent h)).2
  rw [of_decide_eq_true htop]
  exact (le_foldl_max s.urgency _ 0).2 x hx

/-! ## Performing a request leaves the requests that wait -/

@[simp] theorem State.hbm_fileRecord (s : State) (c : Nat) (ws : List Word) : (s.fileRecord c ws).hbm = s.hbm := by
  unfold State.fileRecord
  dsimp only
  split
  · split <;> rfl
  · refine (foldl_keeps State.hbm _ ?_ _ _).trans rfl
    intros; rfl

@[simp] theorem State.hbm_trace (s : State) (ws : List Word) : (s.trace ws).hbm = s.hbm := by
  unfold State.trace; dsimp only; split <;> rfl

@[simp] theorem State.hbm_fatal (s : State) (c : Nat) (b : Bool) : (s.fatal c b).hbm = s.hbm := by
  unfold State.fatal; split <;> rfl

/-- An error record leaves HBM and its controller. -/
@[simp] theorem State.hbm_raise (s : State) (b : Bool) (cls sub code inst : Nat) (w : Word) :
    (s.raise b cls sub code inst w).hbm = s.hbm := by
  unfold State.raise; dsimp only; split <;> simp

@[simp] theorem State.hbm_countBursts (s : State) (f : RFld) (bs : List Nat) : (s.countBursts f bs).hbm = s.hbm := by
  unfold State.countBursts
  refine foldl_keeps State.hbm _ ?_ _ _
  intros; rfl

@[simp] theorem State.hbm_countLate (s : State) (r : HbmReq) : (s.countLate r).hbm = s.hbm := by
  unfold State.countLate; split <;> rfl

/-- The requests that wait at the controller, and those that a full port holds at their requestor. -/
def State.queues (s : State) : List HbmReq × List HbmReq := (s.hbm.waiting, s.hbm.gate)

theorem State.queues_congr {s t : State} (h : t.hbm = s.hbm) : t.queues = s.queues := by rw [State.queues, h, State.queues]

@[simp] theorem State.queues_logUe (s : State) (b : Nat) : (s.logUe b).queues = s.queues := by
  unfold State.logUe
  split
  · exact (State.queues_congr (State.hbm_raise ..)).trans rfl
  · rfl

@[simp] theorem State.queues_physGet (s : State) (pa n : Nat) : (s.physGet pa n).st.queues = s.queues := by
  unfold State.physGet
  split
  · rfl
  · dsimp only
    split
    · exact (foldl_keeps State.queues _ State.queues_logUe _ _).trans (State.queues_congr (State.hbm_countBursts ..))
    · exact State.queues_congr (State.hbm_countBursts ..)

theorem State.queues_storeBytes (s : State) (off : Nat) (bs : List Byte) : (s.storeBytes off bs).queues = s.queues := rfl

theorem State.queues_queueWrite (s : State) (off n : Nat) : (s.queueWrite off n).queues = s.queues := rfl

@[simp] theorem State.queues_physPut (s : State) (pa : Nat) (bs : List Byte) : (s.physPut pa bs).st.queues = s.queues := by
  unfold State.physPut
  split
  · rfl
  · split
    · rfl
    · dsimp only
      split
      · dsimp only
        split
        · rfl
        · exact State.queues_storeBytes ..
      · calc (((s.storeBytes (pa - hbmBase) bs).countBursts _ _).queueWrite _ _).queues
          _ = ((s.storeBytes (pa - hbmBase) bs).countBursts _ _).queues := State.queues_queueWrite ..
          _ = (s.storeBytes (pa - hbmBase) bs).queues := State.queues_congr (State.hbm_countBursts ..)
          _ = s.queues := State.queues_storeBytes ..

/-- The access of a request leaves the queues. -/
theorem State.queues_access (s : State) (r : HbmReq) :
    (if r.write then s.physPut r.addr (slice r.data 0 r.len) else s.physGet r.addr r.len).st.queues = s.queues := by
  split <;> simp

/-- A request that is performed leaves the queues, and its port is the one served last. -/
theorem State.perform_spec (s : State) (r : HbmReq) :
    (s.perform r).queues = s.queues ∧ ((s.perform r).hbm.served.map fun x => x.1) = some r.port := by
  have hacc := s.queues_access r
  unfold State.perform
  dsimp only
  generalize (if r.write then _ else s.physGet r.addr r.len) = o at hacc ⊢
  simp only [State.queues] at hacc
  split
  · split <;> simp [State.queues, hacc]
  · simp [State.queues, hacc]

/-! ## One service -/

/-- A request without the number of requests that have passed it. -/
def HbmReq.unpassed (w : HbmReq) : HbmReq := { w with passed := 0 }

/-- Taking out a request leaves the others in their order; only the number that passed them changes. -/
theorem State.waiting_unqueue {s : State} {r : HbmReq} {before after : List HbmReq} (pc : Nat)
    (hsplit : s.hbm.waiting = before ++ r :: after) (hfirst : r ∉ before) :
    (s.unqueue pc r).hbm.waiting.map HbmReq.unpassed = (before ++ after).map HbmReq.unpassed := by
  have hall : ∀ x ∈ before, decide (x ≠ r) = true := fun x hx => by
    simpa using fun h : x = r => hfirst (h ▸ hx)
  have holder : s.hbm.waiting.takeWhile (fun x => x ≠ r) = before := by
    rw [hsplit, List.takeWhile_append_of_pos hall, List.takeWhile_cons_of_neg (by simp), List.append_nil]
  have hnewer : (s.hbm.waiting.dropWhile fun x => x ≠ r).tail = after := by
    rw [hsplit, List.dropWhile_append_of_pos hall, List.dropWhile_cons_of_neg (by simp), List.tail_cons]
  simp only [State.unqueue, holder, hnewer, List.map_append, List.map_map]
  congr 1
  refine List.map_congr_left fun x _ => ?_
  simp only [Function.comp_apply]
  split <;> rfl

@[simp] theorem State.waiting_payRefresh (s : State) (pc : Nat) : (s.payRefresh pc).hbm.waiting = s.hbm.waiting := by
  unfold State.payRefresh; split <;> rfl

@[simp] theorem State.served_payRefresh (s : State) (pc : Nat) : (s.payRefresh pc).hbm.served = s.hbm.served := by
  unfold State.payRefresh; split <;> rfl

/-- The pseudo-channel performs the request that it chose (R356). -/
def State.serve (s : State) (pc : Nat) (r : HbmReq) : State :=
  (((s.unqueue pc r).perform r).letIn r.port).payRefresh pc

theorem State.exec_hbmRequest_of_choose {s : State} {pc : Nat} {arriving : List HbmReq} {r : HbmReq} (hlive : s.live = true)
    (hstate : s.get F.HBM_PC_STATE.STATE pc ≠ 3) (h : (arriving.foldl State.enterPort s).choose pc = some r) :
    exec (.hbmRequest pc arriving) s =
      .next { (arriving.foldl State.enterPort s).serve pc r with pending := s.pending } := by
  have hexec : exec (.hbmRequest pc arriving) s = execHbmRequest pc arriving s := rfl
  rw [hexec, execHbmRequest, State.whenLive_live _ _ hlive]
  dsimp only
  rw [State.get_congr (State.regs_enterPorts s arriving), if_neg hstate, h]
  rfl

/-- The others wait on in their order, with at most one behind them that the port's new room lets in. -/
theorem State.waiting_serve {s : State} {pc : Nat} {r : HbmReq} {before after : List HbmReq}
    (hsplit : s.hbm.waiting = before ++ r :: after) (hfirst : r ∉ before) : ∃ next,
      (s.serve pc r).hbm.waiting.map HbmReq.unpassed = (before ++ after ++ next).map HbmReq.unpassed ∧
      next.length ≤ 1 ∧ (s.hbm.gate = [] → next = []) := by
  obtain ⟨hwait, hgate⟩ := Prod.mk.inj ((s.unqueue pc r).perform_spec r).1
  obtain ⟨next, hnext, hlen, hnone⟩ := ((s.unqueue pc r).perform r).waiting_letIn r.port
  refine ⟨next, ?_, hlen, fun h => hnone (hgate.trans h)⟩
  rw [State.serve, State.waiting_payRefresh, hnext, hwait, List.map_append, State.waiting_unqueue pc hsplit hfirst,
    ← List.map_append]

theorem State.port_served_serve (s : State) (pc : Nat) (r : HbmReq) :
    ((s.serve pc r).hbm.served.map fun x => x.1) = some r.port := by
  rw [State.serve, State.served_payRefresh, State.served_letIn]
  exact ((s.unqueue pc r).perform_spec r).2

/-- Settles O50: the request chosen may be served, so it follows none of those before its first place in the waiting
list; serving it takes out that place alone. -/
theorem overlapsInOrder : Obligations.OverlapsInOrder := by
  intro s pc arriving r hlive u key
  have hregs : u.regs = s.regs := State.regs_enterPorts s arriving
  refine ⟨(State.waiting_prefix_enterPorts s arriving).imp fun _ h => h.symm, fun hchoose => ?_⟩
  obtain ⟨before, after, hsplit, hfirst, hpc, hmay⟩ := State.split_of_mem_servable (State.choose_mem_servable hchoose)
  rw [List.nil_append, State.mayServe_iff, State.get_congr hregs] at hmay
  refine ⟨before, after, hsplit, State.pcOf_congr hregs _ ▸ hpc, ?overlap, ?stream, ?urgent, ?served⟩
  case overlap => exact fun e he a hlo hhi => not_mem_both_of_not_overlaps (hmay e he).1 hlo hhi
  case stream => exact fun e he => (hmay e he).2
  case urgent => exact fun x hx => State.urgency_le_choose hchoose hx
  case served =>
    exact fun hstate => ⟨_, State.exec_hbmRequest_of_choose hlive hstate hchoose,
      State.waiting_serve hsplit hfirst, u.port_served_serve pc r⟩

end Sys2Proof.Machine
end

section
/-! PROOFS. Room in an event queue (14 R409, R410): which of its oldest items a queue discards for a new one, and what the
arrival of an item at an enabled queue leaves where no read of it is stalled. -/

namespace Sys2Proof.Machine

/-! ## The items discarded -/

@[simp] theorem entriesHeld_append (xs ys : List (List Word)) :
    entriesHeld (xs ++ ys) = entriesHeld xs + entriesHeld ys := by
  simp [entriesHeld]

@[simp] theorem entriesHeld_singleton (item : List Word) : entriesHeld [item] = entriesOf item := by simp [entriesHeld]

/-- For n entries that a queue of the size can hold, making room drops some of the oldest items: those left leave n free
entries, and with the last one dropped they would not. -/
theorem makeRoom_eq_drop {size n : Nat} (hn : n ≤ size) (is : List (List Word)) :
    ∃ k, makeRoom size n is = (is.drop k, k) ∧ k ≤ is.length ∧ entriesHeld (is.drop k) + n ≤ size ∧
      (0 < k → size < entriesHeld (is.drop (k - 1)) + n) := by
  induction is with
  | nil => exact ⟨0, rfl, Nat.le_refl 0, by simpa [entriesHeld] using hn, nofun⟩
  | cons i is ih =>
    rw [makeRoom]
    split
    case isTrue hfits => exact ⟨0, rfl, Nat.zero_le _, hfits, nofun⟩
    case isFalse hfull =>
      obtain ⟨k, hroom, hlen, hfits, hleast⟩ := ih
      refine ⟨k + 1, by simp [hroom], Nat.succ_le_succ hlen, hfits, fun _ => ?_⟩
      cases k with
      | zero => exact Nat.lt_of_not_le hfull
      | succ j => exact hleast j.succ_pos

theorem takeFirst_eq_none {α : Type} {p : α → Bool} {xs : List α} (h : ∀ x ∈ xs, p x = false) : takeFirst p xs = none := by
  induction xs with
  | nil => rfl
  | cons x xs ih =>
    obtain ⟨hx, hxs⟩ := List.forall_mem_cons.1 h
    simp [takeFirst, hx, ih hxs]

/-! ## What the arrival of an item leaves -/

/-- A field of another register than the one written stays. -/
theorem State.get_put_of_reg_ne (s : State) {f g : RFld} (i j v : Nat) (h : g.reg ≠ f.reg) :
    (s.put f i v).get g j = s.get g j := by
  rw [State.put, State.get_setReg, if_neg fun he => h he.1]

theorem State.queueSize_congr {s t : State} {q : Nat}
    (h : t.get F.CTL_EVQ_CFG.LOG2_SIZE q = s.get F.CTL_EVQ_CFG.LOG2_SIZE q) : t.queueSize q = s.queueSize q := by
  rw [State.queueSize, h, State.queueSize]

/-- The registers, and of the queues their items, the reads stalled at them and the producers' crossings. -/
def State.evqView (s : State) : Tbl Word × Tbl (List (List Word)) × List Stall × Tbl (List (Nat × List Word)) :=
  (s.regs, s.ctl.items, s.ctl.stalls, s.ctl.crossing)

theorem State.evqView_storageWrite (s : State) (a : Nat) (bs : List Byte) :
    (s.storageWrite a bs).evqView = s.evqView := by
  unfold State.storageWrite
  split
  · rfl
  · split <;> rfl

/-- The part's writes to a queue's storage reach neither registers nor items (R406). -/
theorem State.evqView_queueTouch (s : State) (q : Nat) : (s.queueTouch q).evqView = s.evqView := by
  unfold State.queueTouch
  exact (foldl_keeps State.evqView _ (fun t _ => t.evqView_storageWrite _ _) _ _).trans rfl

/-- A queue announces an item that became visible: the item is counted and PEND is set (R409, R414). -/
def State.announce (s : State) (q : Nat) : State :=
  ((s.queueTouch q).inc F.CTL_EVQ_ITEM_CNT.CNT q).flag F.CTL_EVQ_NOTICE.PEND q true

theorem State.ctl_announce (s : State) (q : Nat) : (s.announce q).ctl.items = s.ctl.items ∧
    (s.announce q).ctl.stalls = s.ctl.stalls ∧ (s.announce q).ctl.crossing = s.ctl.crossing := by
  have hview := s.evqView_queueTouch q
  simp only [State.evqView, Prod.mk.injEq] at hview
  exact hview.2

theorem State.get_announce (s : State) (q : Nat) {g : RFld} (j : Nat) (hcnt : g.reg ≠ .CTL_EVQ_ITEM_CNT)
    (hpend : g.reg ≠ .CTL_EVQ_NOTICE) : (s.announce q).get g j = s.get g j := by
  have hregs : (s.queueTouch q).regs = s.regs := congrArg (·.1) (s.evqView_queueTouch q)
  rw [State.announce, State.flag, State.get_put_of_reg_ne _ _ _ _ hpend, State.inc, State.add,
    State.get_put_of_reg_ne _ _ _ _ hcnt, State.get_congr hregs]

/-- The item enters its queue, whose k oldest items are discarded and counted (R410). -/
def State.displace (s : State) (q : Nat) (item : List Word) (k : Nat) : State :=
  ((s.announce q).setItems q ((s.items q).drop k ++ [item])).add F.CTL_EVQ_LOST_CNT.CNT q k

@[simp] theorem State.items_displace (s : State) (q : Nat) (item : List Word) (k : Nat) :
    (s.displace q item k).items q = (s.items q).drop k ++ [item] := Tbl.at_put_self ..

@[simp] theorem State.crossing_displace (s : State) (q : Nat) (item : List Word) (k : Nat) :
    (s.displace q item k).ctl.crossing = s.ctl.crossing := (s.ctl_announce q).2.2

@[simp] theorem State.queueSize_displace (s : State) (q : Nat) (item : List Word) (k : Nat) :
    (s.displace q item k).queueSize q = s.queueSize q :=
  State.queueSize_congr <| (State.get_put_of_reg_ne _ q q _ (by decide)).trans (s.get_announce q q (by decide) (by decide))

theorem State.lost_displace (s : State) (q : Nat) (item : List Word) (k : Nat) :
    (s.displace q item k).get F.CTL_EVQ_LOST_CNT.CNT q = (s.get F.CTL_EVQ_LOST_CNT.CNT q + k) % 2 ^ 48 := by
  have hlost : ((s.announce q).setItems q ((s.items q).drop k ++ [item])).get F.CTL_EVQ_LOST_CNT.CNT q =
      s.get F.CTL_EVQ_LOST_CNT.CNT q := s.get_announce q q (by decide) (by decide)
  rw [State.displace, State.get_add_self _ _ _ _ (by decide), hlost]

@[simp] theorem State.queueSize_lost (s : State) (q : Nat) :
    (s.inc F.CTL_EVQ_LOST_CNT.CNT q).queueSize q = s.queueSize q :=
  State.queueSize_congr (State.get_put_of_reg_ne _ _ _ _ (by decide))

/-! ## The arrival -/

theorem State.arrive_of_too_large {s : State} {q : Nat} {item : List Word} (hon : s.isSet F.CTL_EVQ_CFG.EN q = true)
    (hlarge : s.queueSize q < entriesOf item) : s.arrive q item = s.inc F.CTL_EVQ_LOST_CNT.CNT q := by
  simp [State.arrive, hon, hlarge]

/-- An item that its queue can hold and that no stalled read takes enters once room is made for it. -/
theorem State.arrive_of_fits {s : State} {q : Nat} {item : List Word} {k : Nat} (hon : s.isSet F.CTL_EVQ_CFG.EN q = true)
    (hfits : entriesOf item ≤ s.queueSize q) (hstalls : ∀ w ∈ s.ctl.stalls, w.queue ≠ q)
    (hroom : makeRoom (s.queueSize q) (entriesOf item) (s.items q) = ((s.items q).drop k, k)) :
    s.arrive q item = s.displace q item k := by
  obtain ⟨hitems, hstalled, -⟩ := s.ctl_announce q
  have hsize : (s.announce q).queueSize q = s.queueSize q :=
    State.queueSize_congr (s.get_announce q q (by decide) (by decide))
  have hsame : (s.announce q).items q = s.items q := by rw [State.items, hitems, State.items]
  have hnone : takeFirst (fun w => w.queue = q) (s.announce q).ctl.stalls = none :=
    takeFirst_eq_none (by simpa [hstalled] using hstalls)
  rw [State.arrive, if_neg (by simp [hon]), if_neg (Nat.not_lt.2 hfits), ← State.announce]
  dsimp only
  rw [hnone, hsize, hsame, hroom, State.displace]

/-- The producer's crossing without its oldest item. -/
def State.setCrossing (s : State) (src : Nat) (rest : List (Nat × List Word)) : State :=
  { s with ctl := { s.ctl with crossing := Tbl.put [] s.ctl.crossing src rest } }

theorem State.crossing_setCrossing (s : State) (src : Nat) (rest : List (Nat × List Word)) :
    Tbl.at [] (s.setCrossing src rest).ctl.crossing src = rest := Tbl.at_put_self ..

theorem exec_eventItemPost_of_crossing {s : State} {src q : Nat} {item : List Word} {rest : List (Nat × List Word)}
    (hlive : s.live = true) (hcross : Tbl.at [] s.ctl.crossing src = (q, item) :: rest) :
    exec (.eventItemPost src) s = .next { (s.setCrossing src rest).arrive q item with pending := s.pending } := by
  have hexec : exec (.eventItemPost src) s = execEventItemPost src s := rfl
  rw [hexec, execEventItemPost, State.whenLive_live _ _ hlive, hcross]
  rfl

/-- Settles O54: an item larger than the queue only counts; any other enters behind the items that making room
leaves, whose entries and its own fit by the choice of how many go. -/
theorem queueMakesRoom : Obligations.QueueMakesRoom := by
  intro s q src item rest hlive hon hstalls hcross hheld lost
  refine ⟨_, exec_eventItemPost_of_crossing hlive hcross, ?_⟩
  let u := s.setCrossing src rest
  rcases Nat.lt_or_ge (s.queueSize q) (entriesOf item) with hlarge | hfits
  · have harrive : u.arrive q item = u.inc F.CTL_EVQ_LOST_CNT.CNT q := State.arrive_of_too_large hon hlarge
    rw [harrive]
    have hsize : (u.inc F.CTL_EVQ_LOST_CNT.CNT q).queueSize q = s.queueSize q := u.queueSize_lost q
    exact ⟨s.crossing_setCrossing src rest, hsize, hsize.symm ▸ hheld,
      fun _ => ⟨rfl, State.get_add_self _ _ _ _ (by decide)⟩, fun h => absurd hlarge (Nat.not_lt.2 h)⟩
  · obtain ⟨k, hroom, hlen, hroomy, hleast⟩ := makeRoom_eq_drop hfits (s.items q)
    have harrive : u.arrive q item = u.displace q item k := State.arrive_of_fits hon hfits hstalls hroom
    rw [harrive]
    have hitems : (u.displace q item k).items q = (s.items q).drop k ++ [item] := u.items_displace q item k
    have hsize : (u.displace q item k).queueSize q = s.queueSize q := u.queueSize_displace q item k
    have hcrossing : Tbl.at [] (u.displace q item k).ctl.crossing src = rest := by
      rw [State.crossing_displace, State.crossing_setCrossing]
    have hholds : entriesHeld ((u.displace q item k).items q) ≤ (u.displace q item k).queueSize q := by
      rw [hitems, hsize, entriesHeld_append, entriesHeld_singleton]
      exact hroomy
    exact ⟨hcrossing, hsize, hholds, fun h => absurd hfits (Nat.not_le.2 h),
      fun _ => ⟨k, hlen, hitems, u.lost_displace q item k, hleast⟩⟩

end Sys2Proof.Machine
end
